-- ==== Sys2Proof/Word.lean ====
section
/-! DEFINITION. The word types of the ZK8 (R7) and the sparse form in which every large array of the machine is held. -/

namespace Sys2Proof

/-- A byte, a half, a word and a dword (R7). -/
abbrev Byte := BitVec 8
abbrev Half := BitVec 16
abbrev Word32 := BitVec 32
abbrev Word := BitVec 64

/-- A scalar register number, a 6-bit field (R103). -/
abbrev Reg := BitVec 6

/-- An array of `w`-bit values over the natural numbers that is zero almost everywhere: the pairs
(index, value) in strictly rising index order with no zero value. Memory is `Sparse 8`. -/
abbrev Sparse (w : Nat) := List (Nat × BitVec w)

end Sys2Proof
end

