-- ==== Sys2Proof/Syntax.lean ====
section
/-! DEFINITION. The instructions of the Soruth set and the steps of the ZK8: one constructor of `Instr` for each row of
the table of operations and events. Scalar instructions carry their fields (R103, R104), lane instructions carry the
typed fields of a lane word (R113), and the steps of the hardware and of its outside parties carry what the step is
about (a die, a group, a command block) and the choices the spec leaves open (a random draw, the frames of an
allocation, the data of an outside reply). -/

namespace Sys2Proof

/-- The sixteen element types of the dt field (R182, R184). -/
inductive DType where
  | i8 | n8 | i16 | n16 | i32 | n32 | i64 | n64 | f16 | bf16 | f32 | f64 | e4m3 | e5m2 | i4 | n4
  deriving DecidableEq, Repr

/-- The rounding field rs of a lane word (R113). -/
inductive RoundSel where
  | mode | rne | rtz | rdn | rup | rna | sto
  deriving DecidableEq, Repr

/-- The source kinds of a lane word (R114). -/
inductive SrcKind where
  | vector | scalar | imm | special
  deriving DecidableEq, Repr

/-- The lane patterns (R117). -/
inductive PatCode where
  | identity | butterfly | rotate | reverse | replicate | up | down
  deriving DecidableEq, Repr

/-- A pattern with its parameter (R117). -/
structure Pattern where
  code : PatCode
  param : BitVec 7
  deriving DecidableEq, Repr

/-- One source of a lane word: its kind, what the field names, and its last-read bit (R113, R114). -/
structure LaneSrc where
  kind : SrcKind
  field : BitVec 7
  last : Bool
  deriving DecidableEq, Repr

/-- The fields of a lane word but its opcode (R113). -/
structure LaneOps where
  dt : DType
  rs : RoundSel
  mz : Bool
  vd : BitVec 7
  a : LaneSrc
  b : LaneSrc
  c : LaneSrc
  patA : Pattern
  patB : Pattern
  imm : BitVec 21
  deriving DecidableEq, Repr

/-- The three choosers of a core (R90). -/
inductive Chooser where
  | scalar | main | special
  deriving DecidableEq, Repr

/-- The registers that a plain register write reaches: control space, the common configuration of a launch function, the
device-specific configuration of an audit function and its window, and a mailbox (R8, R79, R66, R16). -/
inductive RegSpace where
  | control
  | launchFn (fn : Nat)
  | auditFn (fn : Nat)
  | auditWindow (fn : Nat)
  | mailboxFn (fn : Nat)
  deriving DecidableEq, Repr

/-- The three rings of a split virtqueue (R67). -/
inductive RingKind where
  | descTable | driver | device
  deriving DecidableEq, Repr

/-- What a request from a peer package or a host agent does. -/
inductive AccessOp where
  | read | write | atomic (op : Nat)
  deriving DecidableEq, Repr

/-- A request that a peer package sends to this package (R330, R333, R334, R316, R341): its source, its position in the
stream, its partition, the physical address here, its size in bytes, its data, for a stream release the count of stores it carries
and the positions of the stores that it counts, and the stamp that a stamped load carries. Position 0 stands for none. The
positions counted are DEDUCED (entry 31). -/
structure PeerRequest where
  source : Nat
  pos : Nat
  part : Nat
  op : AccessOp
  addr : Nat
  size : Nat
  data : List Byte
  comparand : List Byte
  release : Option Nat
  cover : List Nat
  stamp : Nat
  deriving DecidableEq, Repr

/-- A host agent's access through PCIe or CXL.mem (R314, R401): the partition it is made for, its guest-physical
address there, or an address of host memory itself when `onHost` is set. -/
structure HostRequest where
  part : Nat
  onHost : Bool
  op : AccessOp
  addr : Nat
  size : Nat
  data : List Byte
  deriving DecidableEq, Repr

/-- An inbound RDMA request on queue pair `q` (R405, R407). -/
structure RdmaRequest where
  q : Nat
  opcode : Nat
  key : Nat
  addr : Nat
  size : Nat
  data : List Byte
  imm : Nat
  deriving DecidableEq, Repr

/-- A package's acknowledgement of an invalidation, which its ticket names (R268). -/
structure InvalAck where
  ticket : Nat
  pkg : Nat
  deriving DecidableEq, Repr

/-- A partition's fabric function toward a peer package (R335, R336). -/
structure PeerFunction where
  peer : Nat
  part : Nat
  deriving DecidableEq, Repr

/-- A Creamline message (R339): its kind, partition, sender, barrier id and count, argument, and the sixteen store counts; `marks`
says which stores the counts count, by target package and position in the sender's stream (DEDUCED, entry 31). -/
structure CreamMsg where
  kind : Nat
  part : Nat
  sender : Nat
  barrier : Nat
  count : Nat
  arg : Nat
  counts : List Nat
  marks : List (Nat × Nat)
  deriving DecidableEq, Repr

/-- A Creamline frame (R337): the sequence of its first message, its sender, its number within the visit, whether the
ladle passes after it, and its nonempty messages. -/
structure Frame where
  seq : Nat
  sender : Nat
  number : Nat
  passes : Bool
  msgs : List CreamMsg
  deriving DecidableEq, Repr

/-- One constructor for each row of the table of operations and events. -/
inductive Instr where
  /-- ADD: Writes sd := sa + sb, wrapping modulo 2^64. (R151) -/
  | add (d : BitVec 6) (a : BitVec 6) (b : BitVec 6)
  /-- SUB: Writes sd := sa - sb, wrapping modulo 2^64. (R151) -/
  | sub (d : BitVec 6) (a : BitVec 6) (b : BitVec 6)
  /-- MUL: Writes the low 64 bits of the product to sd. (R151) -/
  | mul (d : BitVec 6) (a : BitVec 6) (b : BitVec 6)
  /-- MULH: Writes the high 64 bits of the signed 128-bit product to sd. (R151) -/
  | mulh (d : BitVec 6) (a : BitVec 6) (b : BitVec 6)
  /-- MULHN: Writes the high 64 bits of the unsigned 128-bit product to sd. (R151) -/
  | mulhn (d : BitVec 6) (a : BitVec 6) (b : BitVec 6)
  /-- DIV: Signed division truncating toward zero; a divide by zero gives the fixed result or traps 0x05 under mode bit 35.
  (R152) -/
  | div (d : BitVec 6) (a : BitVec 6) (b : BitVec 6)
  /-- DIVN: Unsigned division, with the fixed result for a zero divisor. (R152) -/
  | divn (d : BitVec 6) (a : BitVec 6) (b : BitVec 6)
  /-- REM: Signed remainder, which takes the dividend's sign. (R152) -/
  | rem (d : BitVec 6) (a : BitVec 6) (b : BitVec 6)
  /-- REMN: Unsigned remainder. (R152) -/
  | remn (d : BitVec 6) (a : BitVec 6) (b : BitVec 6)
  /-- AND: Bitwise AND of sa and sb. (R151) -/
  | and (d : BitVec 6) (a : BitVec 6) (b : BitVec 6)
  /-- OR: Bitwise OR of sa and sb. (R151) -/
  | or (d : BitVec 6) (a : BitVec 6) (b : BitVec 6)
  /-- XOR: Bitwise XOR of sa and sb. (R151) -/
  | xor (d : BitVec 6) (a : BitVec 6) (b : BitVec 6)
  /-- ANDN: Writes sa AND NOT sb. (R151) -/
  | andn (d : BitVec 6) (a : BitVec 6) (b : BitVec 6)
  /-- SHL: Shifts sa left by sb[5:0]. (R151) -/
  | shl (d : BitVec 6) (a : BitVec 6) (b : BitVec 6)
  /-- SHR: Shifts sa right logically by sb[5:0]. (R151) -/
  | shr (d : BitVec 6) (a : BitVec 6) (b : BitVec 6)
  /-- SRA: Shifts sa right arithmetically by sb[5:0]. (R151) -/
  | sra (d : BitVec 6) (a : BitVec 6) (b : BitVec 6)
  /-- MIN: Writes the signed minimum of sa and sb. (R151) -/
  | min (d : BitVec 6) (a : BitVec 6) (b : BitVec 6)
  /-- MAX: Writes the signed maximum of sa and sb. (R151) -/
  | max (d : BitVec 6) (a : BitVec 6) (b : BitVec 6)
  /-- MINN: Writes the unsigned minimum of sa and sb. (R151) -/
  | minn (d : BitVec 6) (a : BitVec 6) (b : BitVec 6)
  /-- MAXN: Writes the unsigned maximum of sa and sb. (R151) -/
  | maxn (d : BitVec 6) (a : BitVec 6) (b : BitVec 6)
  /-- CLZ: Counts the leading zero bits of sa, 64 for zero. (R151) -/
  | clz (d : BitVec 6) (a : BitVec 6)
  /-- CTZ: Counts the trailing zero bits of sa, 64 for zero. (R151) -/
  | ctz (d : BitVec 6) (a : BitVec 6)
  /-- POP: Counts the set bits of sa. (R151) -/
  | pop (d : BitVec 6) (a : BitVec 6)
  /-- SEXT8: Sign-extends sa[7:0]. (R151) -/
  | sext8 (d : BitVec 6) (a : BitVec 6)
  /-- SEXT16: Sign-extends sa[15:0]. (R151) -/
  | sext16 (d : BitVec 6) (a : BitVec 6)
  /-- SEXT32: Sign-extends sa[31:0]. (R151) -/
  | sext32 (d : BitVec 6) (a : BitVec 6)
  /-- ZEXT8: Zero-extends sa[7:0]. (R151) -/
  | zext8 (d : BitVec 6) (a : BitVec 6)
  /-- ZEXT16: Zero-extends sa[15:0]. (R151) -/
  | zext16 (d : BitVec 6) (a : BitVec 6)
  /-- ZEXT32: Zero-extends sa[31:0]. (R151) -/
  | zext32 (d : BitVec 6) (a : BitVec 6)
  /-- SEQ: Writes 1 if sa equals sb, else 0. (R151) -/
  | seq (d : BitVec 6) (a : BitVec 6) (b : BitVec 6)
  /-- SNE: Writes 1 if sa differs from sb, else 0. (R151) -/
  | sne (d : BitVec 6) (a : BitVec 6) (b : BitVec 6)
  /-- SLT: Writes 1 if sa is less than sb, signed. (R151) -/
  | slt (d : BitVec 6) (a : BitVec 6) (b : BitVec 6)
  /-- SLTN: Writes 1 if sa is less than sb, unsigned. (R151) -/
  | sltn (d : BitVec 6) (a : BitVec 6) (b : BitVec 6)
  /-- SLE: Writes 1 if sa is at most sb, signed. (R151) -/
  | sle (d : BitVec 6) (a : BitVec 6) (b : BitVec 6)
  /-- SLEN: Writes 1 if sa is at most sb, unsigned. (R151) -/
  | slen (d : BitVec 6) (a : BitVec 6) (b : BitVec 6)
  /-- CMOV: Writes sa to sd when sb is nonzero, and otherwise leaves sd unchanged. (R151) -/
  | cmov (d : BitVec 6) (a : BitVec 6) (b : BitVec 6)
  /-- ADDI: Adds the sign-extended immediate to sa. (R153) -/
  | addi (d : BitVec 6) (a : BitVec 6) (i : BitVec 14)
  /-- ANDI: ANDs sa with the zero-extended immediate. (R153) -/
  | andi (d : BitVec 6) (a : BitVec 6) (i : BitVec 14)
  /-- ORI: ORs sa with the zero-extended immediate. (R153) -/
  | ori (d : BitVec 6) (a : BitVec 6) (i : BitVec 14)
  /-- XORI: XORs sa with the zero-extended immediate. (R153) -/
  | xori (d : BitVec 6) (a : BitVec 6) (i : BitVec 14)
  /-- SHI_SHL: Shifts sa left by an immediate amount. (R153) -/
  | shiShl (d : BitVec 6) (a : BitVec 6) (n : BitVec 6)
  /-- SHI_SHR: Shifts sa right logically by an immediate amount. (R153) -/
  | shiShr (d : BitVec 6) (a : BitVec 6) (n : BitVec 6)
  /-- SHI_SRA: Shifts sa right arithmetically by an immediate amount. (R153) -/
  | shiSra (d : BitVec 6) (a : BitVec 6) (n : BitVec 6)
  /-- SHI_ROL: Rotates sa left by an immediate amount. (R153) -/
  | shiRol (d : BitVec 6) (a : BitVec 6) (n : BitVec 6)
  /-- SLTI: Writes 1 if sa is less than the sign-extended immediate, signed. (R153) -/
  | slti (d : BitVec 6) (a : BitVec 6) (i : BitVec 14)
  /-- SLTNI: Writes 1 if sa is less than the sign-extended immediate, compared unsigned. (R153) -/
  | sltni (d : BitVec 6) (a : BitVec 6) (i : BitVec 14)
  /-- HI20: Writes the sign-extended imm20 shifted left by 14. (R154) -/
  | hi20 (d : BitVec 6) (i : BitVec 20)
  /-- ADR: Writes the PC plus 4 times the sign-extended imm20. (R154) -/
  | adr (d : BitVec 6) (i : BitVec 20)
  /-- LADR: Writes the lane code base plus 12 times imm20. (R154) -/
  | ladr (d : BitVec 6) (i : BitVec 20)
  /-- LD_I8: Loads a sign-extended byte, deferring any fault. (R155) -/
  | ldI8 (d : BitVec 6) (a : BitVec 6) (i : BitVec 14)
  /-- LD_N8: Loads a zero-extended byte. (R155) -/
  | ldN8 (d : BitVec 6) (a : BitVec 6) (i : BitVec 14)
  /-- LD_I16: Loads a sign-extended half. (R155) -/
  | ldI16 (d : BitVec 6) (a : BitVec 6) (i : BitVec 14)
  /-- LD_N16: Loads a zero-extended half. (R155) -/
  | ldN16 (d : BitVec 6) (a : BitVec 6) (i : BitVec 14)
  /-- LD_I32: Loads a sign-extended word. (R155) -/
  | ldI32 (d : BitVec 6) (a : BitVec 6) (i : BitVec 14)
  /-- LD_N32: Loads a zero-extended word. (R155) -/
  | ldN32 (d : BitVec 6) (a : BitVec 6) (i : BitVec 14)
  /-- LD_64: Loads a dword. (R155) -/
  | ld64 (d : BitVec 6) (a : BitVec 6) (i : BitVec 14)
  /-- ST_8: Stores the low byte of sb. (R156) -/
  | st8 (a : BitVec 6) (b : BitVec 6) (o : BitVec 14)
  /-- ST_16: Stores the low half of sb. (R156) -/
  | st16 (a : BitVec 6) (b : BitVec 6) (o : BitVec 14)
  /-- ST_32: Stores the low word of sb. (R156) -/
  | st32 (a : BitVec 6) (b : BitVec 6) (o : BitVec 14)
  /-- ST_64: Stores all of sb. (R156) -/
  | st64 (a : BitVec 6) (b : BitVec 6) (o : BitVec 14)
  /-- B_EQ: Branches if sa equals sb. (R158) -/
  | bEq (a : BitVec 6) (b : BitVec 6) (o : BitVec 14)
  /-- B_NE: Branches if sa differs from sb. (R158) -/
  | bNe (a : BitVec 6) (b : BitVec 6) (o : BitVec 14)
  /-- B_LT: Branches on a signed less-than. (R158) -/
  | bLt (a : BitVec 6) (b : BitVec 6) (o : BitVec 14)
  /-- B_GE: Branches on a signed greater-or-equal. (R158) -/
  | bGe (a : BitVec 6) (b : BitVec 6) (o : BitVec 14)
  /-- B_LTN: Branches on an unsigned less-than. (R158) -/
  | bLtn (a : BitVec 6) (b : BitVec 6) (o : BitVec 14)
  /-- B_GEN: Branches on an unsigned greater-or-equal. (R158) -/
  | bGen (a : BitVec 6) (b : BitVec 6) (o : BitVec 14)
  /-- J: Jumps to PC plus 4 times the sign-extended off26. (R159) -/
  | j (o : BitVec 26)
  /-- JAL: Jumps and writes PC + 4 to s1. (R159) -/
  | jal (o : BitVec 26)
  /-- JR: Jumps to sa + imm and links into sd; a misaligned target traps 0x14 at once. (R159) -/
  | jr (d : BitVec 6) (a : BitVec 6) (i : BitVec 14)
  /-- LRUN: Appends a block of cnt8 + 1 lane words to the lane queue, waiting while the queue is full. (R160) -/
  | lrun (c : BitVec 8) (o : BitVec 18)
  /-- LRUNR: Queues a lane block whose start comes from sa[17:0]. (R160) -/
  | lrunr (c : BitVec 8) (a : BitVec 6)
  /-- NOP: Retires with no other effect. (R180) -/
  | nop
  /-- FENCE_MEM: Completes once every earlier access is performed within the scope, ordering it before every later access. (R165) -/
  | fenceMem (s : BitVec 6)
  /-- FENCE_XLAT: Makes earlier stores visible to the table walkers within the scope. (R165) -/
  | fenceXlat (s : BitVec 6)
  /-- FENCE_CODE: Orders later fetches after visible stores, once the lane queue is empty. (R102) -/
  | fenceCode (s : BitVec 6)
  /-- XFENCE: Waits for the group's accesses and traps if the group is fault-pending. (R168) -/
  | xfence
  /-- BAR: Arrives at a cohort barrier; the last arrival releases the generation, and the others give up their slots. (R169) -/
  | bar (a : BitVec 6) (b : BitVec 6)
  /-- WWAIT: Reads a word and retires if the condition holds; otherwise gives up the slot and sleeps on the line. (R170) -/
  | wwait (s : BitVec 3) (w : BitVec 1) (c : BitVec 2) (a : BitVec 6) (b : BitVec 6)
  /-- EXIT: Drains the lane queue, commands and own-line copies, traps on a pending fault, and ends the group. (R171) -/
  | exit
  /-- LEXIT: Makes the lanes of a triple no longer live. (R172) -/
  | lexit (a : BitVec 6)
  /-- YIELD: Acts as a quantum expiry at this boundary. (R173) -/
  | yield
  /-- TRAP: Traps 0x20 precisely at its own PC. (R174) -/
  | trap (c : BitVec 12)
  /-- SRD: Reads a special register into sd. (R175) -/
  | srd (d : BitVec 6) (n : BitVec 12)
  /-- SWR: Writes sd to a special register. (R175) -/
  | swr (d : BitVec 6) (n : BitVec 12)
  /-- LAUNCH: Releases at .pkg and offers a task record, writing the handle or 0 to sd. (R176) -/
  | launch (d : BitVec 6) (a : BitVec 6)
  /-- BWAIT: Waits until the copy batches up to s[sa] are complete. (R178) -/
  | bwait (a : BitVec 6)
  /-- MWAIT: Waits until the matrix batches up to s[sa] are complete. (R179) -/
  | mwait (a : BitVec 6)
  /-- AMO_ADD: Atomically adds and returns the old value. (R162) -/
  | amoAdd (d : BitVec 6) (a : BitVec 6) (b : BitVec 6) (s : BitVec 3)
  /-- AMO_AND: Atomic AND. (R162) -/
  | amoAnd (d : BitVec 6) (a : BitVec 6) (b : BitVec 6) (s : BitVec 3)
  /-- AMO_OR: Atomic OR. (R162) -/
  | amoOr (d : BitVec 6) (a : BitVec 6) (b : BitVec 6) (s : BitVec 3)
  /-- AMO_XOR: Atomic XOR. (R162) -/
  | amoXor (d : BitVec 6) (a : BitVec 6) (b : BitVec 6) (s : BitVec 3)
  /-- AMO_MIN: Atomic signed minimum. (R162) -/
  | amoMin (d : BitVec 6) (a : BitVec 6) (b : BitVec 6) (s : BitVec 3)
  /-- AMO_MAX: Atomic signed maximum. (R162) -/
  | amoMax (d : BitVec 6) (a : BitVec 6) (b : BitVec 6) (s : BitVec 3)
  /-- AMO_MINN: Atomic unsigned minimum. (R162) -/
  | amoMinn (d : BitVec 6) (a : BitVec 6) (b : BitVec 6) (s : BitVec 3)
  /-- AMO_MAXN: Atomic unsigned maximum. (R162) -/
  | amoMaxn (d : BitVec 6) (a : BitVec 6) (b : BitVec 6) (s : BitVec 3)
  /-- AMO_XCHG: Atomic exchange. (R162) -/
  | amoXchg (d : BitVec 6) (a : BitVec 6) (b : BitVec 6) (s : BitVec 3)
  /-- AMO_CAS: Atomic compare-and-swap against the comparand in sd. (R162) -/
  | amoCas (d : BitVec 6) (a : BitVec 6) (b : BitVec 6) (s : BitVec 3)
  /-- AMO_FADD_F32: Atomic binary32 add rounded to nearest even. (R163) -/
  | amoFaddF32 (d : BitVec 6) (a : BitVec 6) (b : BitVec 6) (s : BitVec 3)
  /-- AMO_FADD_F64: Atomic binary64 add rounded to nearest even. (R163) -/
  | amoFaddF64 (d : BitVec 6) (a : BitVec 6) (b : BitVec 6) (s : BitVec 3)
  /-- MANY: Writes 1 if any lane bit of a triple is set. (R161) -/
  | many (d : BitVec 6) (a : BitVec 6)
  /-- MCNT: Counts the lane bits of a triple. (R161) -/
  | mcnt (d : BitVec 6) (a : BitVec 6)
  /-- MFFS: Finds the lowest set lane of a triple, or 96. (R161) -/
  | mffs (d : BitVec 6) (a : BitVec 6)
  /-- MMOV: Copies one triple to another. (R161) -/
  | mmov (d : BitVec 6) (a : BitVec 6)
  /-- MSET: Sets a triple to a range of lane bits. (R161) -/
  | mset (d : BitVec 6) (a : BitVec 6) (b : BitVec 6)
  /-- MNOT: Writes the bitwise NOT of a triple. (R161) -/
  | mnot (d : BitVec 6) (a : BitVec 6)
  /-- CREL: Fences at .pkg and queues a kind-1 Creamline message carrying uncovered store counts. (R341) -/
  | crel (d : BitVec 6)
  /-- CACQ: Waits until message n is applied, then acquires at .fab and raises the stamp. (R341) -/
  | cacq (a : BitVec 6)
  /-- CSEQ: Reads the highest applied Creamline sequence. (R341) -/
  | cseq (d : BitVec 6)
  /-- CBAR: Sends a kind-2 barrier message and waits for its generation to complete. (R342) -/
  | cbar (d : BitVec 6) (a : BitVec 6) (b : BitVec 6)
  /-- XC_SHAPE: Sets the copy row bytes and row count. (R286) -/
  | xcShape (d : BitVec 6) (a : BitVec 6) (b : BitVec 6) (y : BitVec 1)
  /-- XC_STRIDE: Sets the source and destination strides. (R286) -/
  | xcStride (d : BitVec 6) (a : BitVec 6) (b : BitVec 6) (y : BitVec 1)
  /-- XC_DONE: Sets the completion word address and value. (R286) -/
  | xcDone (d : BitVec 6) (a : BitVec 6) (b : BitVec 6) (y : BitVec 1)
  /-- XC_PERM: Selects gather by permutation register qN. (R286) -/
  | xcPerm (d : BitVec 6) (q : BitVec 4) (y : BitVec 1)
  /-- XC_PERM_SC: Selects scatter by permutation register qN. (R286) -/
  | xcPermSc (d : BitVec 6) (q : BitVec 4) (y : BitVec 1)
  /-- XC_PERM_OFF: Turns row permutation off. (R286) -/
  | xcPermOff (d : BitVec 6) (y : BitVec 1)
  /-- XC_GO: Snapshots the settings and issues a copy, returning its number. (R287) -/
  | xcGo (d : BitVec 6) (a : BitVec 6) (b : BitVec 6) (y : BitVec 1)
  /-- XC_FILL: Issues a copy that fills the destination rows with a scalar pattern. (R288) -/
  | xcFill (d : BitVec 6) (a : BitVec 6) (b : BitVec 6) (y : BitVec 1)
  /-- XC_BATCH: Seals the copies issued since the last batch into a new batch. (R289) -/
  | xcBatch (d : BitVec 6) (y : BitVec 1)
  /-- XC_QUERY: Reports the status of copies without ordering anything. (R290) -/
  | xcQuery (d : BitVec 6) (a : BitVec 6)
  /-- XM_FMT: Sets the matrix operand format pair. (R233) -/
  | xmFmt (d : BitVec 6) (a : BitVec 6) (y : BitVec 1)
  /-- XM_A: Sets the A base and stride. (R233) -/
  | xmA (d : BitVec 6) (a : BitVec 6) (b : BitVec 6) (y : BitVec 1)
  /-- XM_B: Sets the B base and stride. (R233) -/
  | xmB (d : BitVec 6) (a : BitVec 6) (b : BitVec 6) (y : BitVec 1)
  /-- XM_GRP: Sets the group size and the parameter block address. (R233) -/
  | xmGrp (d : BitVec 6) (a : BitVec 6) (b : BitVec 6) (y : BitVec 1)
  /-- XM_TILE: Sets the destination tile, accumulate flag and partial tile. (R233) -/
  | xmTile (d : BitVec 6) (a : BitVec 6) (y : BitVec 1)
  /-- XM_MCAST: Sets the multicast core range and operands. (R233) -/
  | xmMcast (d : BitVec 6) (a : BitVec 6) (y : BitVec 1)
  /-- XM_MMA: Checks and issues a matrix multiply command with predecessors, returning its id. (R239) -/
  | xmMma (d : BitVec 6) (a : BitVec 6) (b : BitVec 6) (y : BitVec 1)
  /-- XM_SCA: Issues a scale-and-accumulate command. (R240) -/
  | xmSca (d : BitVec 6) (a : BitVec 6) (b : BitVec 6) (y : BitVec 1)
  /-- XM_BATCH: Seals the matrix commands issued since the last batch into a new batch. (R241) -/
  | xmBatch (d : BitVec 6) (y : BitVec 1)
  /-- XE_REG: Registers or unregisters the partition's expert table. (R350) -/
  | xeReg (d : BitVec 6) (a : BitVec 6)
  /-- XE_VER: Reports the version, Churn state, last notice or failures. (R359) -/
  | xeVer (d : BitVec 6) (a : BitVec 6)
  /-- XE_PIN: Pins the die's current version and acquires at .pkg. (R359) -/
  | xePin (d : BitVec 6) (y : BitVec 1)
  /-- XE_UNPIN: Waits for earlier accesses and copies, then releases the pin. (R359) -/
  | xeUnpin (d : BitVec 6) (y : BitVec 1)
  /-- XE_GRAD: Submits one replica's gradient for merging. (R360) -/
  | xeGrad (d : BitVec 6) (a : BitVec 6)
  /-- XE_HEAT: Reports an expert's heat in the last closed window. (R353) -/
  | xeHeat (d : BitVec 6) (a : BitVec 6) (b : BitVec 6)
  /-- XH_POST: Posts a 64-byte notice to an odd host queue, with a release at .sys. (R408) -/
  | xhPost (d : BitVec 6) (a : BitVec 6) (b : BitVec 6) (y : BitVec 1)
  /-- XH_NOTIFY: Signals a queue's MSI-X vector unless event-idx suppresses it. (R409) -/
  | xhNotify (d : BitVec 6) (a : BitVec 6) (y : BitVec 1)
  /-- XO_SEAL: Accepts a page-sealing descriptor for the base dies. (R383) -/
  | xoSeal (d : BitVec 6) (a : BitVec 6) (y : BitVec 1)
  /-- XO_DIRTY: Reads and clears 64 dirty bits in one step. (R382) -/
  | xoDirty (d : BitVec 6) (a : BitVec 6) (b : BitVec 6) (y : BitVec 1)
  /-- XO_STOP: Starts stopping and saving every group of a sealing partition. (R384) -/
  | xoStop (d : BitVec 6) (a : BitVec 6) (y : BitVec 1)
  /-- XO_CTX: Accepts a descriptor that seals a context image or the queue state. (R383) -/
  | xoCtx (d : BitVec 6) (a : BitVec 6) (y : BitVec 1)
  /-- VADD: Lane integer add, wrapping or saturating. (R209) -/
  | vadd (w : LaneOps)
  /-- VSUB: Lane integer subtract. (R209) -/
  | vsub (w : LaneOps)
  /-- VMUL: Lane integer multiply. (R209) -/
  | vmul (w : LaneOps)
  /-- VMULH: Lane high half of the product. (R209) -/
  | vmulh (w : LaneOps)
  /-- VMAD: Lane multiply-add, wrapped or clamped once. (R209) -/
  | vmad (w : LaneOps)
  /-- VMIN: Lane integer minimum. (R209) -/
  | vmin (w : LaneOps)
  /-- VMAX: Lane integer maximum. (R209) -/
  | vmax (w : LaneOps)
  /-- VABS: Lane absolute value. (R209) -/
  | vabs (w : LaneOps)
  /-- VNEG: Lane negation. (R209) -/
  | vneg (w : LaneOps)
  /-- VAND: Lane bitwise AND. (R209) -/
  | vand (w : LaneOps)
  /-- VOR: Lane bitwise OR. (R209) -/
  | vor (w : LaneOps)
  /-- VXOR: Lane bitwise XOR. (R209) -/
  | vxor (w : LaneOps)
  /-- VANDN: Lane AND-NOT. (R209) -/
  | vandn (w : LaneOps)
  /-- VNOT: Lane bitwise NOT. (R209) -/
  | vnot (w : LaneOps)
  /-- VSHL: Lane shift left. (R209) -/
  | vshl (w : LaneOps)
  /-- VSHR: Lane logical shift right. (R209) -/
  | vshr (w : LaneOps)
  /-- VSRA: Lane arithmetic shift right. (R209) -/
  | vsra (w : LaneOps)
  /-- VCLZ: Lane count of leading zeros. (R209) -/
  | vclz (w : LaneOps)
  /-- VPOP: Lane count of set bits. (R209) -/
  | vpop (w : LaneOps)
  /-- VBREV: Lane bit reversal. (R209) -/
  | vbrev (w : LaneOps)
  /-- VSEL: Selects A or B per lane by a triple. (R211) -/
  | vsel (w : LaneOps)
  /-- VCMP: Compares lanes and writes a triple. (R212) -/
  | vcmp (w : LaneOps)
  /-- VMOV: Lane move. (R209) -/
  | vmov (w : LaneOps)
  /-- VFADD: Floating add. (R213) -/
  | vfadd (w : LaneOps)
  /-- VFSUB: Floating subtract. (R213) -/
  | vfsub (w : LaneOps)
  /-- VFMUL: Floating multiply. (R213) -/
  | vfmul (w : LaneOps)
  /-- VFMA: Fused multiply-add. (R213) -/
  | vfma (w : LaneOps)
  /-- VFMS: Fused multiply-subtract. (R213) -/
  | vfms (w : LaneOps)
  /-- VFNMA: Negated fused multiply-add. (R213) -/
  | vfnma (w : LaneOps)
  /-- VFNMS: Negated fused multiply-subtract. (R213) -/
  | vfnms (w : LaneOps)
  /-- VFMIN: Floating minimum that prefers numbers over NaN. (R215) -/
  | vfmin (w : LaneOps)
  /-- VFMAX: Floating maximum that prefers numbers over NaN. (R215) -/
  | vfmax (w : LaneOps)
  /-- VFMINX: Floating minimum that propagates NaN. (R215) -/
  | vfminx (w : LaneOps)
  /-- VFMAXX: Floating maximum that propagates NaN. (R215) -/
  | vfmaxx (w : LaneOps)
  /-- VFABS: Clears the sign bit. (R216) -/
  | vfabs (w : LaneOps)
  /-- VFNEG: Inverts the sign bit. (R216) -/
  | vfneg (w : LaneOps)
  /-- VFCPSGN: Copies B's sign onto A. (R216) -/
  | vfcpsgn (w : LaneOps)
  /-- VFCMP: Floating compare into a triple. (R217) -/
  | vfcmp (w : LaneOps)
  /-- VFCLASS: Writes each element's class code. (R216) -/
  | vfclass (w : LaneOps)
  /-- VFDIV: Correctly rounded floating divide. (R213) -/
  | vfdiv (w : LaneOps)
  /-- VFSQRT: Correctly rounded square root. (R213) -/
  | vfsqrt (w : LaneOps)
  /-- VFRCP: Correctly rounded reciprocal. (R213) -/
  | vfrcp (w : LaneOps)
  /-- VFRSQ: Reciprocal square root, rounded to nearest. (R214) -/
  | vfrsq (w : LaneOps)
  /-- VFEXP2: Base-2 exponential, rounded to nearest. (R214) -/
  | vfexp2 (w : LaneOps)
  /-- VFLOG2: Base-2 logarithm, rounded to nearest. (R214) -/
  | vflog2 (w : LaneOps)
  /-- VFSIN: Sine, rounded to nearest. (R214) -/
  | vfsin (w : LaneOps)
  /-- VFCOS: Cosine, rounded to nearest. (R214) -/
  | vfcos (w : LaneOps)
  /-- VFTANH: Hyperbolic tangent, rounded to nearest. (R214) -/
  | vftanh (w : LaneOps)
  /-- VFRND: Rounds to an integral value of the same format. (R213) -/
  | vfrnd (w : LaneOps)
  /-- VCVT: Converts between any two element types. (R218) -/
  | vcvt (w : LaneOps)
  /-- VPACK2: Scales and packs two registers into 16-bit elements. (R219) -/
  | vpack2 (w : LaneOps)
  /-- VPACK4: Scales and packs four registers into 8-bit elements. (R219) -/
  | vpack4 (w : LaneOps)
  /-- VPACK8: Scales and packs eight registers into 4-bit elements. (R219) -/
  | vpack8 (w : LaneOps)
  /-- VUNPK2: Unpacks and dequantises two elements into binary32 registers. (R220) -/
  | vunpk2 (w : LaneOps)
  /-- VUNPK4: Unpacks four elements into binary32 registers. (R220) -/
  | vunpk4 (w : LaneOps)
  /-- VUNPK8: Unpacks eight elements into binary32 registers. (R220) -/
  | vunpk8 (w : LaneOps)
  /-- VQGRP: Quantises binary32 values to asymmetric integers with a zero point. (R221) -/
  | vqgrp (w : LaneOps)
  /-- VSAT: Clamps elements into the range of a target type. (R222) -/
  | vsat (w : LaneOps)
  /-- VGATH: Gathers lanes by an index. (R223) -/
  | vgath (w : LaneOps)
  /-- VBCAST: Broadcasts a lane selected by a non-vector index. (R223) -/
  | vbcast (w : LaneOps)
  /-- VRED: Reduces across lanes by the fixed tree. (R224) -/
  | vred (w : LaneOps)
  /-- VSCAN: Forms the prefix scan across the active lanes. (R225) -/
  | vscan (w : LaneOps)
  /-- VMATCH: Finds the lead or rank among lanes with equal keys. (R226) -/
  | vmatch (w : LaneOps)
  /-- VBALLOT: Writes a triple of the nonzero active lanes. (R227) -/
  | vballot (w : LaneOps)
  /-- VCOMPACT: Packs the selected lanes into the active lanes. (R228) -/
  | vcompact (w : LaneOps)
  /-- VEXPAND: Spreads values into the selected lanes. (R228) -/
  | vexpand (w : LaneOps)
  /-- VLANEID: Writes a lane index or a count. (R229) -/
  | vlaneid (w : LaneOps)
  /-- VLD: Loads a value per active lane, deferring faults. (R277) -/
  | vld (w : LaneOps)
  /-- VST: Stores a value per active lane. (R278) -/
  | vst (w : LaneOps)
  /-- VLDS: Strided lane load. (R277) -/
  | vlds (w : LaneOps)
  /-- VSTS: Strided lane store. (R278) -/
  | vsts (w : LaneOps)
  /-- VLDC: Lane load from cluster scratch. (R277) -/
  | vldc (w : LaneOps)
  /-- VSTC: Lane store to cluster scratch. (R278) -/
  | vstc (w : LaneOps)
  /-- VAMO: Lane atomics, folded by address. (R284) -/
  | vamo (w : LaneOps)
  /-- VAMOC: Lane atomics on cluster scratch. (R284) -/
  | vamoc (w : LaneOps)
  /-- VPRF: Prefetch that never fails. (R279) -/
  | vprf (w : LaneOps)
  /-- QLD: Loads and checks a permutation register. (R252) -/
  | qld (w : LaneOps)
  /-- QLDT: Tests an index vector without loading it. (R252) -/
  | qldt (w : LaneOps)
  /-- QST: Stores a permutation's items into lanes. (R253) -/
  | qst (w : LaneOps)
  /-- QID: Sets the identity permutation of a given size. (R253) -/
  | qid (w : LaneOps)
  /-- QCOMP: Composes two permutations. (R253) -/
  | qcomp (w : LaneOps)
  /-- QINV: Inverts a permutation. (R253) -/
  | qinv (w : LaneOps)
  /-- QPOW: Raises a permutation to an integer power. (R253) -/
  | qpow (w : LaneOps)
  /-- QRAND: Generates a random permutation from the seed. (R254) -/
  | qrand (w : LaneOps)
  /-- QCYC: Reports a cycle property of a permutation. (R255) -/
  | qcyc (w : LaneOps)
  /-- QAPP: Applies a permutation to lanes, gathering or scattering. (R256) -/
  | qapp (w : LaneOps)
  /-- VACRD: Reads tile elements into lanes. (R248) -/
  | vacrd (w : LaneOps)
  /-- VACWR: Writes tile elements from lanes. (R248) -/
  | vacwr (w : LaneOps)
  /-- VPARK: Parks a tile's contents and returns a handle. (R249) -/
  | vpark (w : LaneOps)
  /-- VUNPARK: Restores a parked tile from its handle. (R249) -/
  | vunpark (w : LaneOps)
  /-- VROUTE: Routes tokens through the pinned replica version. (R258) -/
  | vroute (w : LaneOps)
  /-- INSTRUCTION_FETCH_FAULT: A scalar or lane fetch that cannot complete traps precisely at once. (R98) -/
  | instructionFetchFault (lane : Bool) (cause : Nat) (addr : Nat)
  /-- WWAIT_WAKE: A write to the watched line wakes the group, which rejoins the return list. (R170) -/
  | wwaitWake (gid : Nat)
  /-- ROUTE_SOLVE_COMPLETE: A route solve ends, releasing a waiting qapp or copy. (R257) -/
  | routeSolveComplete (gid : Nat) (q : Nat)
  /-- MATRIX_COMMAND_START: A queued command starts once its predecessors and tile order allow it. (R244) -/
  | matrixCommandStart (gid : Nat) (id : Nat)
  /-- MATRIX_COMMAND_COMPLETE: A command finishes writing its tiles, faults becoming pending. (R239) -/
  | matrixCommandComplete (gid : Nat) (id : Nat)
  /-- COPY_START: The copy unit starts an issued copy in key order. (R292) -/
  | copyStart (gid : Nat) (num : Nat)
  /-- COPY_COMPLETE: A copy's last byte is performed and its completion word is written as a release. (R270) -/
  | copyComplete (gid : Nat) (num : Nat)
  /-- COPY_FAULT: A copy stops at a failing unit; no completion word, and the group becomes fault-pending. (R291) -/
  | copyFault (gid : Nat) (num : Nat)
  /-- BODY_WRITE: A waiting fault body is written when the buffer is found free. (R373) -/
  | bodyWrite (gid : Nat)
  /-- HANDLER_DISPOSITION: A disposition stored to the buffer resumes or ends the trapped group. (R374) -/
  | handlerDisposition (gid : Nat)
  /-- PIN_RELEASE_AT_END: An ended group's pin is released once its copies finish. (R359) -/
  | pinReleaseAtEnd (gid : Nat)
  /-- BIND: Owner command that binds the partition to the owner key, ring, root, audit grant and context store. (R41) -/
  | bind (fn : Nat) (block : Nat)
  /-- SET_STAGE_1_ROOT: Owner command that sets the stage-1 root and invalidates stage 1. (R266) -/
  | setStage1Root (fn : Nat) (block : Nat)
  /-- SET_WATCHPOINT: Owner command that sets or clears a region watchpoint. (R271) -/
  | setWatchpoint (fn : Nat) (block : Nat)
  /-- SET_CONTEXT_STORE: Owner command that replaces the context store. (R369) -/
  | setContextStore (fn : Nat) (block : Nat)
  /-- ATTEST: Owner command that returns a signed report and the identity certificate. (R416) -/
  | attest (fn : Nat) (block : Nat)
  /-- SET_RDMA_QUEUES: Owner command that sets a queue pair's queues. (R404) -/
  | setRdmaQueues (fn : Nat) (block : Nat)
  /-- REGISTER_MEMORY_REGION: Owner command that registers a remotely reachable region and returns its key. (R407) -/
  | registerMemoryRegion (fn : Nat) (block : Nat)
  /-- DEREGISTER_MEMORY_REGION: Owner command that deregisters a region once in-flight accesses end. (R407) -/
  | deregisterMemoryRegion (fn : Nat) (block : Nat)
  /-- CREATE: Operator command that creates a partition secret and ties its functions. (R24) -/
  | create (block : Nat) (secret : BitVec 256)
  /-- DELETE: Operator command that destroys the secret and scrubs the partition. (R35) -/
  | delete (block : Nat)
  /-- RESET: Operator command that resets a partition: exclusive leases, power cycle, scrub. (R34) -/
  | reset (block : Nat)
  /-- OPEN_SESSION: Operator command that checks consent and attestation and writes a key blob. (R37) -/
  | openSession (block : Nat) (session : BitVec 64)
  /-- STAGE: Operator command that decrypts a key blob into a FREE slot. (R42) -/
  | stage (block : Nat)
  /-- INSTALL: Operator command that verifies and installs a sealed object. (R29) -/
  | install (block : Nat)
  /-- COMMIT: Operator command that writes the commit object and destroys the source secret. (R37) -/
  | commit (block : Nat)
  /-- ABORT: Operator command that aborts a sealing or staged session. (R24) -/
  | abort (block : Nat)
  /-- REGISTER_ENVELOPE_RING: Operator command that registers an envelope ring on an I/O die. (R43) -/
  | registerEnvelopeRing (block : Nat)
  /-- REGISTER_DEMAND_RING: Operator command that registers a demand notice ring. (R80) -/
  | registerDemandRing (block : Nat)
  /-- CONNECT_QUEUE_PAIR: Operator command that ties a queue pair to a partition and peer. (R403) -/
  | connectQueuePair (block : Nat)
  /-- RELEASE_QUEUE_PAIR: Operator command that releases a queue pair, flushing its work. (R403) -/
  | releaseQueuePair (block : Nat)
  /-- SCRUB_COMPLETE: Scrubbing ends, moving the partition to OWNED or FREE. (R24) -/
  | scrubComplete (part : Nat)
  /-- AUDIT_SELECT: The auditor writes the selection register to choose the region shown in the window. (R391) -/
  | auditSelect (fn : Nat) (value : Word)
  /-- AUDIT_RING_REGISTER: A write to offset 0x18 registers the audit function's envelope ring. (R16) -/
  | auditRingRegister (fn : Nat) (entries : Word)
  /-- REGISTER_WRITE: A write to a register with no behaviour of its own. (R8) -/
  | registerWrite (space : RegSpace) (offset : Nat) (value : Word)
  /-- LAUNCH_REQUEST: A doorbell makes the device consume available launch chains, answering bad ones. (R68) -/
  | launchRequest (fn : Nat) (queue : Nat)
  /-- QUEUE_ENABLE: A queue_enable write checks the size and enables the queue. (R67) -/
  | queueEnable (fn : Nat) (queue : Nat)
  /-- QUEUE_BASE_WRITE: A ring base write is translated through stage 2 and checked. (R67) -/
  | queueBaseWrite (fn : Nat) (queue : Nat) (ring : RingKind) (value : Word)
  /-- DEVICE_STATUS_RESET: Writing 0 to device_status resets the function's queues. (R69) -/
  | deviceStatusReset (fn : Nat)
  /-- TASK_ACCEPT: A launch is read, checked, given a handle and registered with its predecessors, or refused. (R65) -/
  | taskAccept (ticket : Nat)
  /-- TASK_FIRE: A task whose predecessors have completed fires on its chosen die. (R72) -/
  | taskFire (part : Nat) (handle : Nat)
  /-- SLOT_FILL: A free armed slot binds the oldest matching returned group or a new group. (R86) -/
  | slotFill (die : Nat) (core : Nat) (slot : Nat) (frames : List Nat)
  /-- TASK_COMPLETE: After its groups and engines finish, a task writes its completion word and frees its entry. (R77) -/
  | taskComplete (part : Nat) (handle : Nat)
  /-- TASK_END_FAILED: A task with an unhandled fault ends as failed once its bound groups end, cancelling successors. (R71) -/
  | taskEndFailed (part : Nat) (handle : Nat)
  /-- QUANTUM_EXPIRY: A group's quantum expires and it is rotated if another group waits. (R92) -/
  | quantumExpiry (die : Nat) (core : Nat) (slot : Nat)
  /-- PRIORITY_RAISE: A chooser's wait count reaches 4096 and raises the group by one level. (R91) -/
  | priorityRaise (gid : Nat) (chooser : Chooser)
  /-- DEMAND_NOTICE: A die re-sends a demand notice every 65,536 cycles while groups wait. (R80) -/
  | demandNotice (die : Nat) (part : Nat) (region : Nat)
  /-- LEASE_WRITE: A lease register write sets or begins clearing partition bits. (R25) -/
  | leaseWrite (die : Nat) (value : Word)
  /-- LEASE_CLEAR_COMPLETE: After the saves and record invalidation, the lease write's response returns. (R26) -/
  | leaseClearComplete (die : Nat)
  /-- BIND_RECORD_STAGE: A store to a bind record's high dword stages it. (R83) -/
  | bindRecordStage (die : Nat) (core : Nat) (slot : Nat) (value : Word)
  /-- BIND_RECORD_COMMIT: A store to the low dword commits the record after the malformation checks. (R84) -/
  | bindRecordCommit (die : Nat) (core : Nat) (slot : Nat) (low : Word) (high : Option Word)
  /-- STAGE2_ROOT_WRITE: The operator writes a stage-2 root, invalidating that stage. (R266) -/
  | stage2RootWrite (part : Nat) (value : Word)
  /-- INVALIDATE_ALL: An invalidation descriptor of kind 0 removes every entry of a stage. (R268) -/
  | invalidateAll (owner : Option Nat) (desc : Nat)
  /-- INVALIDATE_RANGE: An invalidation descriptor of kind 1 removes a range of pages. (R268) -/
  | invalidateRange (owner : Option Nat) (desc : Nat)
  /-- INVALIDATION_ACKNOWLEDGE: Once TLBs and walks have drained, the completion word is written as a release. (R268) -/
  | invalidationAcknowledge (ack : InvalAck)
  /-- FRESH_PAGE_ZEROED: Zeroing of a fresh page ends; its tag is set and the waiting accesses proceed. (R267) -/
  | freshPageZeroed (base : Nat)
  /-- COUNTER_AREA_UPDATE: At least every 1 ms the counters are written to the counter area. (R53) -/
  | counterAreaUpdate (part : Nat) (region : Nat)
  /-- ENERGY_WINDOW: Each 2^16-cycle window, die energy is shared out to the regions. (R387) -/
  | energyWindow (die : Nat) (microjoules : Nat) (slotCycles : List (Nat × Nat × Nat))
  /-- REGION_TEARDOWN: When a region is done, final counters are written and the second notice is sent. (R390) -/
  | regionTeardown (part : Nat) (region : Nat)
  /-- PREEMPT_BY_DEADLINE: Pre-emption request with action 0: drain, save or discard by deadline. (R377) -/
  | preemptByDeadline (die : Nat) (value : Word)
  /-- PREEMPT_SAVE: Pre-emption request with action 1: save the affected groups. (R378) -/
  | preemptSave (die : Nat) (value : Word)
  /-- PREEMPT_REPLACE: Pre-emption request with action 2: re-place the affected cohorts to a target die. (R379) -/
  | preemptReplace (die : Nat) (value : Word)
  /-- PREEMPT_REQUEST_ARRIVE: The request reaches a die, which decides for its affected groups. (R377) -/
  | preemptRequestArrive (request : Nat) (die : Nat) (same : List Nat) (seats : List (Nat × Nat))
  /-- PREEMPT_DEADLINE_EXPIRY: At the deadline, draining groups still bound are saved. (R377) -/
  | preemptDeadlineExpiry (request : Nat) (die : Nat)
  /-- GROUP_SAVE_COMPLETE: A save's last byte is performed; the group joins the return list. (R378) -/
  | groupSaveComplete (gid : Nat)
  /-- COHORT_REPLACE: Once saved, the cohort's scratch and barrier state move to the target die, or it fails. (R379) -/
  | cohortReplace (request : Nat) (cohort : Nat) (frames : List Nat)
  /-- PREEMPT_REQUEST_COMPLETE: Busy clears and the status records the outcome, with overrun envelopes. (R376) -/
  | preemptRequestComplete (request : Nat) (overrunNs : List (Nat × Nat))
  /-- STOP_COMPLETE: All groups of the partition are saved; xo.stop returns the context count. (R384) -/
  | stopComplete (part : Nat)
  /-- SEAL_COMPLETE: The base dies write a sealed object and its completion word. (R383) -/
  | sealComplete (ticket : Nat)
  /-- OPERATING_POINT_WRITE: A write of cap or default recomputes the target point. (R411) -/
  | operatingPointWrite (die : Nat) (value : Word)
  /-- OPERATING_POINT_SETTLE: Clock and voltage settle at the new point, releasing floor waits. (R411) -/
  | operatingPointSettle (die : Nat)
  /-- THERMAL_CLAMP: Junction above 105 °C holds the die at point 1. (R411) -/
  | thermalClamp (die : Nat)
  /-- THERMAL_SHUTDOWN: At 115 °C the module removes its own power. (R411) -/
  | thermalShutdown
  /-- PARKING_WRITE: A parking register write darkens or lights wavelengths to a peer. (R412) -/
  | parkingWrite (peer : Nat) (value : Word)
  /-- AUTO_PARK: After the idle time, wavelengths 1-15 to a peer are parked. (R412) -/
  | autoPark (peer : Nat)
  /-- WAVELENGTH_WAKE: Parked wavelengths have settled after traffic woke them; waiting requests pass. (R412) -/
  | wavelengthWake (peer : Nat)
  /-- RING_LOCK_LOSS: A ring loses lock and its wavelength leaves service. (R331) -/
  | ringLockLoss (peer : Nat) (outbound : Bool) (fibre : Nat) (wave : Nat)
  /-- FIBRE_FAIL: A fibre fails and its share is taken away from the stream. (R332) -/
  | fibreFail (peer : Nat) (outbound : Bool) (fibre : Nat)
  /-- DRAIN_MARKER_ARRIVE: The target receives the drain marker and performs relayed traffic. (R333) -/
  | drainMarkerArrive (source : Nat)
  /-- PEER_UNREACHABLE_TIMEOUT: An access to an unreachable peer fails with 0x15 after at most 20 µs. (R333) -/
  | peerUnreachableTimeout (ticket : Nat)
  /-- PEER_REQUEST_ARRIVE: A peer request arrives, is checked against the ownership table and performed. (R330) -/
  | peerRequestArrive (req : PeerRequest)
  /-- PEER_REPLY_ARRIVE: A reply from a peer arrives, or is dropped if its function was torn down. (R336) -/
  | peerReplyArrive (ticket : Nat) (ok : Bool) (data : List Byte)
  /-- STREAM_RELEASE_PERFORM: A stream release store is performed once its counted stores have arrived. (R316) -/
  | streamReleasePerform (source : Nat)
  /-- ALLOWANCE_GRANT: A send allowance arrives and lets a waiting request go. (R335) -/
  | allowanceGrant (grantee : PeerFunction) (units : Nat)
  /-- LADLE_ARRIVE: A package receives the ladle and sends up to 8 frames or passes it. (R337) -/
  | ladleArrive
  /-- CREAMLINE_FRAME_RECEIVE: A package receives a frame, checks it and acknowledges or rejects it. (R337) -/
  | creamlineFrameReceive (frame : Frame) (crcOk : Bool)
  /-- CREAMLINE_FRAME_ACKNOWLEDGED: All live receivers acknowledge; the holder sends the next frame or passes the ladle. (R337) -/
  | creamlineFrameAcknowledged
  /-- CREAMLINE_FRAME_REJECT: A rejection makes the holder resend the frame with the same sequences. (R337) -/
  | creamlineFrameReject
  /-- LADLE_SILENCE_TIMEOUT: After 10 µs of silence the lowest live package makes a new ladle and drops the holder. (R340) -/
  | ladleSilenceTimeout
  /-- RELEASE_MESSAGE_APPLY: A kind-1 message is applied once its store count is met. (R317) -/
  | releaseMessageApply
  /-- BARRIER_MESSAGE_APPLY: A kind-2 message counts an arrival and may complete a generation. (R342) -/
  | barrierMessageApply
  /-- INVALIDATION_MESSAGE_APPLY: A kind-3 message applies an invalidation in Creamline order. (R268) -/
  | invalidationMessageApply
  /-- VERSION_NOTICE_MESSAGE_APPLY: A kind-4 message is applied, changing nothing but its place in the sequence. (R356) -/
  | versionNoticeMessageApply
  /-- TEARDOWN_NOTICE_APPLY: A kind-5 message tears down a partition's fabric function. (R336) -/
  | teardownNoticeApply
  /-- CHURN_WINDOW_CLOSE: Every 2^16 cycles the Churn reads heat and may start a switch. (R355) -/
  | churnWindowClose (part : Nat)
  /-- CHURN_SWITCH_PUBLISH: After copy, verify and frame write, the Churn publishes the new version. (R356) -/
  | churnSwitchPublish (part : Nat)
  /-- CHURN_SWITCH_FAIL: A failed copy, compare or frame write, or a die reset, rolls the switch back. (R357) -/
  | churnSwitchFail (part : Nat)
  /-- VERSION_NOTICE: A version notice reaches a die and advances its current version. (R356) -/
  | versionNotice (part : Nat) (die : Nat)
  /-- SLOT_FORWARD: A retired inbox slot whose tag is set is forwarded to the primary. (R358) -/
  | slotForward (part : Nat) (record : Nat)
  /-- FORWARDING_RECORD_END: A forwarding record ends and the replica's pages return to the arena. (R358) -/
  | forwardingRecordEnd (part : Nat) (record : Nat)
  /-- GRADIENT_MERGE: Once all replicas have submitted, the Churn merges the gradients and writes completion words. (R360) -/
  | gradientMerge (part : Nat) (version : Nat) (expert : Nat)
  /-- RDMA_DOORBELL: A doorbell write advances a queue pair's producer indices. (R404) -/
  | rdmaDoorbell (fn : Nat) (q : Nat) (value : Word)
  /-- CQ_CONSUMER_WRITE: The completion consumer index write frees completion entries. (R404) -/
  | cqConsumerWrite (fn : Nat) (q : Nat) (value : Word)
  /-- RDMA_WRITE: Processes a send entry with opcode 1. (R405) -/
  | rdmaWrite (q : Nat)
  /-- RDMA_READ: Processes a send entry with opcode 2. (R405) -/
  | rdmaRead (q : Nat)
  /-- RDMA_SEND: Processes a send entry with opcode 3. (R405) -/
  | rdmaSend (q : Nat)
  /-- RDMA_WRITE_WITH_IMMEDIATE: Processes a send entry with opcode 4. (R405) -/
  | rdmaWriteWithImmediate (q : Nat)
  /-- RDMA_INBOUND_REQUEST: An inbound RDMA request is checked against the key and performed or refused. (R407) -/
  | rdmaInboundRequest (req : RdmaRequest)
  /-- RDMA_ACK_ARRIVE: A peer's acknowledgement completes a write or send. (R406) -/
  | rdmaAckArrive (q : Nat) (ok : Bool)
  /-- RDMA_READ_RESPONSE: Read data arrives and is performed, then its completion is written. (R406) -/
  | rdmaReadResponse (q : Nat) (data : List Byte)
  /-- RDMA_RETRY_EXHAUSTED: Retries run out and the request completes with status 4. (R406) -/
  | rdmaRetryExhausted (q : Nat)
  /-- CNP_RECEIVE: A congestion notification lowers a queue pair's send rate. (R402) -/
  | cnpReceive (q : Nat) (rate : Nat)
  /-- HOST_MEMORY_REQUEST: A host agent's PCIe or CXL.mem access is performed at .sys. (R314) -/
  | hostMemoryRequest (req : HostRequest)
  /-- DIE_RESET: A compute die enters reset, acknowledging pending invalidations. (R268) -/
  | dieReset (die : Nat)
  /-- BOOT: Power-on boot verifies and measures firmware and configuration, then trains the links. (R415) -/
  | boot (security : List Byte) (management : List Byte) (policy : List Byte)
  /-- THERMAL_CLAMP_RELEASE: The junction falls back to 105 °C or below, the thermal clamp bit clears and the target point is
  worked out again. (R411) -/
  | thermalClampRelease (die : Nat)
  /-- STREAM_RETURN_TO_DIRECT_PATH: A failed stream's fibres become live again and the stream returns from the relay to the
  direct path behind a drain marker. (R333) -/
  | streamReturnToDirectPath (peer : Nat)
  /-- RDMA_RETRY: A queue pair's retry timer expires and it resends a request refused as receiver-not-ready or left
  unacknowledged, as RoCE v2 gives. (R405) -/
  | rdmaRetry (q : Nat)
  deriving DecidableEq, Repr

/-- Why a word is no instruction (R120): its opcode or function is unassigned (cause 0x01), a field holds a value that
is not allowed (0x01), or a field that must be zero is not (0x02). -/
inductive DecodeErr where
  | unassigned | notAllowed | reserved
  deriving DecidableEq, Repr

/-- The cause with which a word that is no instruction traps (R120). -/
def DecodeErr.cause : DecodeErr → Nat
  | .unassigned => 0x01
  | .notAllowed => 0x01
  | .reserved => 0x02

end Sys2Proof
end

