-- ==== Sys2Proof/Machine/Forms.lean ====
section
/-! DEFINITION. The static form of every word: which fields a lane opcode has and what each may hold (R113 to R119 and
the instructions' own descriptions), and what the fields of a scalar word may hold (R103 to R112). -/

namespace Sys2Proof.Machine

/-! ### Element types -/

/-- The dt code of a type (R182, R184). -/
def dtypeCode : DType → Nat
  | .i8 => 0 | .n8 => 1 | .i16 => 2 | .n16 => 3 | .i32 => 4 | .n32 => 5 | .i64 => 6 | .n64 => 7
  | .f16 => 8 | .bf16 => 9 | .f32 => 10 | .f64 => 11 | .e4m3 => 12 | .e5m2 => 13 | .i4 => 14 | .n4 => 15

/-- The type of a dt code; every 4-bit code names one (R182, R184). -/
def dtypeOf (n : Nat) : DType :=
  match n with
  | 0 => .i8 | 1 => .n8 | 2 => .i16 | 3 => .n16 | 4 => .i32 | 5 => .n32 | 6 => .i64 | 7 => .n64
  | 8 => .f16 | 9 => .bf16 | 10 => .f32 | 11 => .f64 | 12 => .e4m3 | 13 => .e5m2 | 14 => .i4 | _ => .n4

/-- The width of an element in bits (R182, R184). -/
def dtypeWidth : DType → Nat
  | .i8 | .n8 | .e4m3 | .e5m2 => 8
  | .i16 | .n16 | .f16 | .bf16 => 16
  | .i32 | .n32 | .f32 => 32
  | .i64 | .n64 | .f64 => 64
  | .i4 | .n4 => 4

/-- A 64-bit type lies in a register pair (R118, R184). -/
def dtypeWide (t : DType) : Bool := dtypeWidth t == 64

/-- A floating type (R182). -/
def dtypeFloat : DType → Bool
  | .f16 | .bf16 | .f32 | .f64 | .e4m3 | .e5m2 => true
  | _ => false

/-- A signed integer type (R184). -/
def dtypeSigned : DType → Bool
  | .i8 | .i16 | .i32 | .i64 | .i4 => true
  | _ => false

/-- "Arith" of R209. -/
def dtArith (t : DType) : Bool := !dtypeFloat t

/-- "Any" of R209. -/
def dtAny (_ : DType) : Bool := true

/-- The types of R213: f16, bf16, f32, f64. -/
def dtFloat4 : DType → Bool
  | .f16 | .bf16 | .f32 | .f64 => true
  | _ => false

/-- The types of R224: the integer and floating types of 32 and 64 bits. -/
def dtReduce : DType → Bool
  | .i32 | .n32 | .i64 | .n64 | .f32 | .f64 => true
  | _ => false

/-- The packed types of `vpack2` and `vunpk2` (R219). -/
def dtPack2 : DType → Bool
  | .f16 | .bf16 | .i16 | .n16 => true
  | _ => false

/-- The packed types of `vpack4` and `vunpk4` (R219). -/
def dtPack4 : DType → Bool
  | .i8 | .n8 | .e4m3 | .e5m2 => true
  | _ => false

/-- The packed types of `vpack8` and `vunpk8` (R219). -/
def dtPack8 : DType → Bool
  | .i4 | .n4 => true
  | _ => false

/-- The types of `vqgrp` (R221). -/
def dtQgrp : DType → Bool
  | .n4 | .n8 => true
  | _ => false

/-- n8, the type of the q instructions (R251). -/
def dtN8 : DType → Bool
  | .n8 => true
  | _ => false

/-- The types of `vlaneid` (R229). -/
def dtI32N32 : DType → Bool
  | .i32 | .n32 => true
  | _ => false

/-- n32, the type of `vroute` (R258). -/
def dtN32 : DType → Bool
  | .n32 => true
  | _ => false

/-- The types of `vacrd` and `vacwr` (R248). -/
def dtTile : DType → Bool
  | .i32 | .n32 | .f32 | .f64 => true
  | _ => false

/-- The types of `vpark` and `vunpark` (R249). -/
def dtPark : DType → Bool
  | .i32 | .f64 => true
  | _ => false

/-- The types a `.el` access takes (R275). -/
def dtElement : DType → Bool
  | .i8 | .n8 | .i16 | .n16 | .f16 | .bf16 | .e4m3 | .e5m2 => true
  | _ => false

/-! ### The raw lane word -/

/-- The fields of a source as the word holds them (R113). -/
structure RawSrc where
  kind : Nat
  field : Nat
  pat : Nat
  param : Nat
  last : Nat
  deriving DecidableEq, Repr

/-- The fields of a lane word as the word holds them (R113). -/
structure RawLane where
  op : Nat
  dt : Nat
  rs : Nat
  mz : Nat
  vd : Nat
  a : RawSrc
  b : RawSrc
  c : RawSrc
  imm : Nat
  deriving DecidableEq, Repr

/-- What the vd field names (R118, R212, R224, R251). -/
inductive VdUse where
  | vector | triple | scalar | qreg | none
  deriving DecidableEq, Repr

/-- The form of a lane opcode: accepted types, whether it rounds, what vd names, the kinds each source may have (an
empty list: the source is not read), whether imm21 carries function bits and which (R113 to R118). -/
structure LaneForm where
  dts : DType → Bool
  rounds : Bool
  dest : VdUse
  kindsA : List Nat
  kindsB : List Nat
  kindsC : List Nat
  fnBits : Option Nat

/-- Every source kind. -/
def kindsAll : List Nat := [0, 1, 2, 3]

/-- Every source kind but the immediate (R114: imm21 carries function bits). -/
def kindsNoImm : List Nat := [0, 1, 3]

/-- The form of opcode `op`, given its type and its imm21, on which some sources and destinations depend (R209 to R229,
R248 to R258, R273 to R284); none for an unassigned opcode (R119). -/
def laneForm (op : Nat) (dt : DType) (imm : Nat) : Option LaneForm :=
  match op with
  | 0x00 | 0x01 | 0x02 | 0x03 | 0x05 | 0x06 => some ⟨dtArith, false, .vector, kindsAll, kindsAll, [], none⟩
  | 0x04 => some ⟨dtArith, false, .vector, kindsAll, kindsAll, kindsAll, none⟩
  | 0x07 | 0x08 => some ⟨dtypeSigned, false, .vector, kindsAll, [], [], none⟩
  | 0x09 | 0x0A | 0x0B | 0x0C | 0x0E | 0x0F | 0x10 => some ⟨dtAny, false, .vector, kindsAll, kindsAll, [], none⟩
  | 0x0D | 0x11 | 0x12 | 0x13 | 0x16 => some ⟨dtAny, false, .vector, kindsAll, [], [], none⟩
  | 0x14 => some ⟨dtAny, false, .vector, kindsNoImm, kindsNoImm, [], some 0x3F⟩
  | 0x15 => some ⟨dtArith, false, .triple, kindsNoImm, kindsNoImm, [], some 0xF⟩
  | 0x30 | 0x31 | 0x32 => some ⟨dtFloat4, true, .vector, kindsAll, kindsAll, [], none⟩
  | 0x33 | 0x34 | 0x35 | 0x36 => some ⟨dtFloat4, true, .vector, kindsAll, kindsAll, kindsAll, none⟩
  | 0x37 | 0x38 | 0x39 | 0x3A => some ⟨dtFloat4, false, .vector, kindsAll, kindsAll, [], none⟩
  | 0x3B | 0x3C | 0x3F => some ⟨dtypeFloat, false, .vector, kindsAll, [], [], none⟩
  | 0x3D => some ⟨dtypeFloat, false, .vector, kindsAll, kindsAll, [], none⟩
  | 0x3E => some ⟨dtFloat4, false, .triple, kindsNoImm, kindsNoImm, [], some 0xF⟩
  | 0x40 => some ⟨dtFloat4, true, .vector, kindsAll, kindsAll, [], none⟩
  | 0x41 | 0x42 | 0x49 => some ⟨dtFloat4, true, .vector, kindsAll, [], [], none⟩
  | 0x43 | 0x44 | 0x45 | 0x46 | 0x47 | 0x48 => some ⟨dtFloat4, false, .vector, kindsAll, [], [], none⟩
  | 0x60 => some ⟨dtAny, true, .vector, kindsNoImm, [], [], some 0xF⟩
  | 0x61 => some ⟨dtPack2, true, .vector, [0], kindsNoImm, [], some 0xF⟩
  | 0x62 => some ⟨dtPack4, true, .vector, [0], kindsNoImm, [], some 0xF⟩
  | 0x63 => some ⟨dtPack8, true, .vector, [0], kindsNoImm, [], some 0xF⟩
  | 0x64 => some ⟨dtPack2, true, .vector, kindsNoImm, kindsNoImm, if dtypeFloat dt then [] else kindsNoImm, some 0⟩
  | 0x65 => some ⟨dtPack4, true, .vector, kindsNoImm, kindsNoImm, if dtypeFloat dt then [] else kindsNoImm, some 0⟩
  | 0x66 => some ⟨dtPack8, true, .vector, kindsNoImm, kindsNoImm, if dtypeFloat dt then [] else kindsNoImm, some 0⟩
  | 0x67 => some ⟨dtQgrp, true, .vector, [0], kindsNoImm, kindsNoImm, some 0⟩
  | 0x68 => some ⟨dtAny, false, .vector, kindsNoImm, [], [], some 0xF⟩
  | 0x70 => some ⟨dtAny, false, .vector, kindsAll, kindsAll, [], none⟩
  | 0x71 => some ⟨dtAny, false, .vector, kindsAll, [1, 2, 3], [], none⟩
  | 0x72 => some ⟨dtReduce, true, if imm / 16 % 2 = 1 then .scalar else .vector, kindsNoImm, [], [], some 0x17⟩
  | 0x73 => some ⟨dtReduce, true, .vector, kindsNoImm, [], [], some 0xF⟩
  | 0x74 => some ⟨dtAny, false, .vector, kindsNoImm, [], [], some 0x3⟩
  | 0x75 => some ⟨dtAny, false, .triple, kindsNoImm, [], [], some 0⟩
  | 0x76 | 0x77 => some ⟨dtAny, false, .vector, kindsNoImm, [], [], some 0x3F⟩
  | 0x78 => some ⟨dtI32N32, false, .vector, [], [], [], some 0x3⟩
  | 0x90 => some ⟨dtAny, false, .vector, [0, 1], kindsNoImm, [], some 0x1FFFFF⟩
  | 0x91 => some ⟨dtAny, false, .none, [0, 1], kindsNoImm, kindsNoImm, some 0x1FFFFF⟩
  | 0x92 => some ⟨dtAny, false, .vector, [1], [1], [], some 0x1FFFFF⟩
  | 0x93 => some ⟨dtAny, false, .none, [1], [1], kindsNoImm, some 0x1FFFFF⟩
  | 0x94 => some ⟨dtAny, false, .vector, kindsNoImm, kindsNoImm, [], some 0x1FFFF0⟩
  | 0x95 => some ⟨dtAny, false, .none, kindsNoImm, kindsNoImm, kindsNoImm, some 0x1FFFF0⟩
  | 0x96 => some ⟨dtReduce, false, .vector, [0, 1], kindsNoImm, if imm / 16 % 32 = 9 then kindsNoImm else [], some 0xFFF⟩
  | 0x97 => some ⟨dtReduce, false, .vector, kindsNoImm, kindsNoImm, if imm / 16 % 32 = 9 then kindsNoImm else [], some 0xFF0⟩
  | 0x98 => some ⟨dtAny, false, .none, [0, 1], kindsNoImm, [], some 0x1FFFEF⟩
  | 0xB0 => some ⟨dtN8, false, .qreg, [0], [1, 3], [], some 0⟩
  | 0xB1 => some ⟨dtN8, false, .scalar, [0], [1, 3], [], some 0⟩
  | 0xB2 => some ⟨dtN8, false, .vector, [], [], [], some 0xF⟩
  | 0xB3 => some ⟨dtN8, false, .qreg, [1, 3], [], [], some 0⟩
  | 0xB4 => some ⟨dtN8, false, .qreg, [], [], [], some 0xFF⟩
  | 0xB5 => some ⟨dtN8, false, .qreg, [], [], [], some 0xF⟩
  | 0xB6 => some ⟨dtN8, false, .qreg, [1], [], [], some 0xF⟩
  | 0xB7 => some ⟨dtN8, false, .qreg, [1, 3], [], [], some 0⟩
  | 0xB8 => some ⟨dtN8, false, .scalar, if imm / 256 % 8 = 1 then [1] else [], [], [], some 0x70F⟩
  | 0xB9 => some ⟨dtAny, false, .vector, kindsNoImm, [], [], some 0x80F⟩
  | 0xC0 => some ⟨dtTile, false, .vector, kindsNoImm, [], [], some 0xF⟩
  | 0xC1 => some ⟨dtTile, false, .none, kindsNoImm, kindsNoImm, [], some 0xF⟩
  | 0xC2 => some ⟨dtPark, false, .scalar, [], [], [], some 0x7⟩
  | 0xC3 => some ⟨dtPark, false, .none, [1], [], [], some 0x7⟩
  | 0xC4 => some ⟨dtN32, false, .vector, kindsNoImm, kindsNoImm, [], some 0⟩
  | _ => none

/-- The parameter limits of the patterns (R117). -/
def patternOk (code param : Nat) : Bool :=
  match code with
  | 0 => param == 0
  | 1 => decide (param ≤ 6)
  | 2 => decide (1 ≤ param) && decide (param ≤ 7)
  | 3 => decide (1 ≤ param) && decide (param ≤ 7)
  | 4 => decide (param ≤ 95)
  | 5 => decide (1 ≤ param) && decide (param ≤ 95)
  | 6 => decide (1 ≤ param) && decide (param ≤ 95)
  | _ => false

/-- A source that is read holds a value that is not allowed (R114, R117). One that is not read must be zero, and is judged by
`srcNonzero` alone whatever its bits would be in a source that is read: DESIGN CHOICE (entry 67). -/
def srcBad (kinds : List Nat) (x : RawSrc) : Bool :=
  !kinds.isEmpty &&
    (!kinds.contains x.kind || (x.kind == 3 && decide (3 < x.field)) || (x.pat != 0 && x.kind != 0) || !patternOk x.pat x.param)

/-- A source breaks a must-be-zero rule: a source that is not read is not all zero, a scalar's bit 6 or an immediate's
field is not zero, or a last-read bit stands on a source that is no vector (R114, R118). -/
def srcNonzero (kinds : List Nat) (x : RawSrc) : Bool :=
  if kinds.isEmpty then x.kind != 0 || x.field != 0 || x.pat != 0 || x.param != 0 || x.last != 0
  else (x.kind == 1 && decide (63 < x.field)) || (x.kind == 2 && x.field != 0) || (x.last != 0 && x.kind != 0)

/-- The function bits hold a value that the instruction's description does not allow (R211, R212, R219, R222, R224, R226,
R228, R255, R275, R276, R283). -/
def fnBitsBad (op : Nat) (dt : DType) (imm : Nat) : Bool :=
  match op with
  | 0x14 | 0x76 | 0x77 => decide (61 < imm % 64)
  | 0x15 => decide (6 ≤ imm % 8)
  | 0x61 | 0x62 | 0x63 => imm % 16 != 4 && imm % 16 != 10
  | 0x68 => dtypeFloat (dtypeOf (imm % 16)) != dtypeFloat dt
  | 0x72 | 0x73 => decide (6 ≤ imm % 8) || (dtypeFloat dt && decide (3 ≤ imm % 8))
  | 0x74 => imm % 2 == 1 && !(dt == .f32 || dt == .f64)
  | 0xB8 => decide (5 ≤ imm / 256 % 8)
  | 0x90 | 0x91 | 0x92 | 0x93 => decide (9 ≤ imm % 16) || (imm / 16 % 2 == 1 && !dtElement dt)
  | 0x94 | 0x95 => imm / 16 % 2 == 1 && !dtElement dt
  | 0x96 | 0x97 =>
    (op == 0x96 && decide (9 ≤ imm % 16)) || decide (0x0C ≤ imm / 16 % 32) || decide (6 ≤ imm / 512 % 8) ||
      (match imm / 16 % 32 with
       | 0x0A => dt != .f32
       | 0x0B => dt != .f64
       | _ => dtypeFloat dt)
  | 0x98 => decide (9 ≤ imm % 16)
  | _ => false

/-- The vd field holds a value that is not allowed: a triple above 61 (R118). -/
def vdBad (dest : VdUse) (vd : Nat) : Bool := dest == .triple && decide (61 < vd % 64)

/-- The vd field breaks a must-be-zero rule (R118, R212, R224, R251). -/
def vdNonzero (dest : VdUse) (vd : Nat) : Bool :=
  match dest with
  | .vector => false
  | .triple | .scalar => decide (63 < vd)
  | .qreg => decide (15 < vd)
  | .none => vd != 0

/-- The imm21 field breaks a must-be-zero rule: a function bit the instruction does not name (R207), or any bit of a field
that no source and no function uses (R209). -/
def immNonzero (f : LaneForm) (r : RawLane) : Bool :=
  match f.fnBits with
  | some mask => r.imm &&& (0x1FFFFF ^^^ mask) != 0
  | none =>
    let used := (!f.kindsA.isEmpty && r.a.kind == 2) || (!f.kindsB.isEmpty && r.b.kind == 2) || (!f.kindsC.isEmpty && r.c.kind == 2)
    !used && r.imm != 0

/-- Steps 1 to 3 of R120 for a lane word: the first failure, or none. -/
def laneCheck (r : RawLane) : Option DecodeErr :=
  let dt := dtypeOf r.dt
  match laneForm r.op dt r.imm with
  | none => some .unassigned
  | some f =>
    if !f.dts dt || decide (7 ≤ r.rs) || fnBitsBad r.op dt r.imm || srcBad f.kindsA r.a || srcBad f.kindsB r.b ||
        srcBad f.kindsC r.c || vdBad f.dest r.vd then some .notAllowed
    else if srcNonzero f.kindsA r.a || srcNonzero f.kindsB r.b || srcNonzero f.kindsC r.c || vdNonzero f.dest r.vd ||
        (r.mz != 0 && f.dest != .vector) || (r.rs != 0 && !f.rounds) || immNonzero f r then some .reserved
    else none

/-! ### Typed fields -/

/-- The rounding of an rs code below 7 (R113). -/
def roundSelOf (n : Nat) : RoundSel :=
  match n with
  | 0 => .mode | 1 => .rne | 2 => .rtz | 3 => .rdn | 4 => .rup | 5 => .rna | _ => .sto

/-- The rs code of a rounding (R113). -/
def roundSelCode : RoundSel → Nat
  | .mode => 0 | .rne => 1 | .rtz => 2 | .rdn => 3 | .rup => 4 | .rna => 5 | .sto => 6

/-- The kind of a kind code (R114). -/
def srcKindOf (n : Nat) : SrcKind :=
  match n with
  | 0 => .vector | 1 => .scalar | 2 => .imm | _ => .special

/-- The code of a kind (R114). -/
def srcKindCode : SrcKind → Nat
  | .vector => 0 | .scalar => 1 | .imm => 2 | .special => 3

/-- The pattern of a pattern code below 7 (R117). -/
def patCodeOf (n : Nat) : PatCode :=
  match n with
  | 0 => .identity | 1 => .butterfly | 2 => .rotate | 3 => .reverse | 4 => .replicate | 5 => .up | _ => .down

/-- The code of a pattern (R117). -/
def patCodeNum : PatCode → Nat
  | .identity => 0 | .butterfly => 1 | .rotate => 2 | .reverse => 3 | .replicate => 4 | .up => 5 | .down => 6

/-- The raw form of a source. -/
def rawSrc (x : LaneSrc) (p : Pattern) : RawSrc :=
  ⟨srcKindCode x.kind, x.field.toNat, patCodeNum p.code, p.param.toNat, x.last.toNat⟩

/-- The raw form of a lane instruction's fields under opcode `op`; source C has no pattern (R113). -/
def rawLane (op : Nat) (w : LaneOps) : RawLane :=
  ⟨op, dtypeCode w.dt, roundSelCode w.rs, w.mz.toNat, w.vd.toNat, rawSrc w.a w.patA, rawSrc w.b w.patB,
    rawSrc w.c ⟨.identity, 0#7⟩, w.imm.toNat⟩

/-- The typed form of a source. -/
def typedSrc (r : RawSrc) : LaneSrc := ⟨srcKindOf r.kind, BitVec.ofNat 7 r.field, decide (r.last ≠ 0)⟩

/-- The typed form of a pattern. -/
def typedPat (r : RawSrc) : Pattern := ⟨patCodeOf r.pat, BitVec.ofNat 7 r.param⟩

/-- The typed form of a lane word's fields. -/
def typedLane (r : RawLane) : LaneOps :=
  ⟨dtypeOf r.dt, roundSelOf r.rs, decide (r.mz ≠ 0), BitVec.ofNat 7 r.vd, typedSrc r.a, typedSrc r.b, typedSrc r.c,
    typedPat r.a, typedPat r.b, BitVec.ofNat 21 r.imm⟩

/-! ### Scalar fields -/

/-- The special register numbers that the table of R146 lists (R147). -/
def specialKnown (n : Nat) : Bool :=
  decide (n ≤ 0x01A) || (decide (0x100 ≤ n) && decide (n ≤ 0x1FF)) || (decide (0x800 ≤ n) && decide (n ≤ 0x822))

end Sys2Proof.Machine
end

