-- ==== Sys2Proof/Machine/Sparse.lean ====
section
/-! DEFINITION. Reads and writes of the sparse arrays in which memory, registers and tables are held. -/

namespace Sys2Proof.Machine

/-- The value at index `a`: what is listed there, and zero where nothing is listed. -/
def Sparse.get {w : Nat} : Sparse w → Nat → BitVec w
  | [], _ => 0#w
  | (k, v) :: t, a => if k = a then v else Sparse.get t a

/-- The array with nothing listed at `a`. -/
def Sparse.erase {w : Nat} : Sparse w → Nat → Sparse w
  | [], _ => []
  | (k, v) :: t, a => if k = a then Sparse.erase t a else (k, v) :: Sparse.erase t a

/-- The array with `v` listed at `a`, in index order. -/
def Sparse.insert {w : Nat} : Sparse w → Nat → BitVec w → Sparse w
  | [], a, v => [(a, v)]
  | (k, x) :: t, a, v =>
    if a < k then (a, v) :: (k, x) :: t
    else if k = a then (a, v) :: t
    else (k, x) :: Sparse.insert t a v

/-- The array after a write of `v` at `a`; a zero is not listed. -/
def Sparse.set {w : Nat} (m : Sparse w) (a : Nat) (v : BitVec w) : Sparse w :=
  if v = 0#w then Sparse.erase m a else Sparse.insert m a v

/-- Every key of `m` is above `lo`, the keys rise strictly, and no listed value is zero. -/
def Sparse.wfFrom {w : Nat} : Nat → Sparse w → Bool
  | _, [] => true
  | lo, (k, v) :: t => decide (lo ≤ k) && (v != 0#w) && Sparse.wfFrom (k + 1) t

/-- The canonical form: equal contents are equal data. -/
def Sparse.wf {w : Nat} (m : Sparse w) : Bool := Sparse.wfFrom 0 m

/-- The listed pairs of consecutive values `vs` from index `base` on, zeros left out. -/
def Sparse.ofList {w : Nat} : Nat → List (BitVec w) → Sparse w
  | _, [] => []
  | base, v :: vs => if v = 0#w then Sparse.ofList (base + 1) vs else (base, v) :: Sparse.ofList (base + 1) vs

/-- The listed pairs below `a`. -/
def Sparse.below {w : Nat} (m : Sparse w) (a : Nat) : Sparse w := m.filter fun p => decide (p.1 < a)

/-- The listed pairs at `a` and above. -/
def Sparse.above {w : Nat} (m : Sparse w) (a : Nat) : Sparse w := m.filter fun p => decide (a ≤ p.1)

/-- The array with the consecutive values `vs` written from `base` on. -/
def Sparse.setRange {w : Nat} (m : Sparse w) (base : Nat) (vs : List (BitVec w)) : Sparse w :=
  Sparse.below m base ++ (Sparse.ofList base vs ++ Sparse.above m (base + vs.length))

/-- The array with `len` indices from `base` on set to zero. -/
def Sparse.clearRange {w : Nat} (m : Sparse w) (base len : Nat) : Sparse w :=
  Sparse.below m base ++ Sparse.above m (base + len)

/-- The listed pairs of the window of `len` indices from `base` on. -/
def Sparse.window {w : Nat} (m : Sparse w) (base len : Nat) : Sparse w :=
  m.filter fun p => decide (base ≤ p.1) && decide (p.1 < base + len)

/-- `n` consecutive values from `base` on. -/
def Sparse.getRange {w : Nat} (m : Sparse w) (base : Nat) : Nat → List (BitVec w)
  | 0 => []
  | n + 1 => Sparse.get m base :: Sparse.getRange m (base + 1) n

/-- The unsigned value of a little-endian list of bytes (R7). -/
def bytesToNat : List Byte → Nat
  | [] => 0
  | b :: bs => b.toNat + 256 * bytesToNat bs

/-- The `n` low bytes of a value, lowest first (R7). -/
def natToBytes : Nat → Nat → List Byte
  | 0, _ => []
  | n + 1, v => BitVec.ofNat 8 v :: natToBytes n (v / 256)

/-- The little-endian value of `n` bytes at `a` (R7). -/
def Sparse.readLE (m : Sparse 8) (a n : Nat) : Nat := bytesToNat (Sparse.getRange m a n)

/-- The array after the writes of a list of bytes from `a` on, one byte at a time. -/
def Sparse.setBytes (m : Sparse 8) (a : Nat) : List Byte → Sparse 8
  | [] => m
  | b :: bs => Sparse.setBytes (Sparse.set m a b) (a + 1) bs

/-- The `n` bits of `v` from bit `lo` on (R7). -/
def bits (v lo n : Nat) : Nat := v / 2 ^ lo % 2 ^ n

/-- Bit `k` of `v`. -/
def bitOf (v k : Nat) : Bool := v / 2 ^ k % 2 == 1

/-- `v` rounded down to a multiple of `n`. -/
def alignDown (v n : Nat) : Nat := v / n * n

/-- `v` divided by `n`, rounded up. -/
def divUp (v n : Nat) : Nat := (v + (n - 1)) / n

/-- The element at position `i` replaced. -/
def listSet {α : Type} : List α → Nat → α → List α
  | [], _, _ => []
  | _ :: t, 0, x => x :: t
  | h :: t, i + 1, x => h :: listSet t i x

/-- `n` bytes of `bs` from `lo` on, zero where `bs` ends, as an unsigned value (R7). -/
def bytesAt (bs : List Byte) (lo n : Nat) : Nat := bytesToNat ((bs.drop lo).take n)

/-- An element put into a sorted list. -/
def insertBy {α : Type} (le : α → α → Bool) (x : α) : List α → List α
  | [] => [x]
  | y :: ys => if le x y then x :: y :: ys else y :: insertBy le x ys

/-- A list sorted by an order. -/
def sortBy {α : Type} (le : α → α → Bool) : List α → List α
  | [] => []
  | x :: xs => insertBy le x (sortBy le xs)

end Sys2Proof.Machine
end

