-- ==== Sys2Proof/Decode.lean ====
section
/-! DEFINITION. The decoder of scalar words (R103 to R112) and of lane words (R113 to R119), total on every word and in
the order of R120, and after it the encoder, written from the same tables. -/

namespace Sys2Proof

open Sys2Proof.Machine

/-- The `n` bits of word `w` from bit `lo` on. -/
def fld (w lo n : Nat) : BitVec n := BitVec.ofNat n (w / 2 ^ lo)

/-- The same bits as a number. -/
def fldN (w lo n : Nat) : Nat := w / 2 ^ lo % 2 ^ n

/-- An instruction, unless a field that must be zero is not (step 3 of R120). -/
def zeroed (ok : Bool) (i : Instr) : Except DecodeErr Instr := if ok then .ok i else .error .reserved

/-- An instruction, unless a field holds a value that is not allowed (step 2 of R120), or else a field that must be zero
is not (step 3). -/
def checked (allowed ok : Bool) (i : Instr) : Except DecodeErr Instr :=
  if allowed then (if ok then .ok i else .error .reserved) else .error .notAllowed

/-- R-ALU words, op 0x00 (R107, R151); the unary functions have a zero sb field (R105). -/
def decodeAlu (w : Nat) : Except DecodeErr Instr :=
  match fldN w 0 8 with
  | 0x00 => .ok (.add (fld w 20 6) (fld w 14 6) (fld w 8 6))
  | 0x01 => .ok (.sub (fld w 20 6) (fld w 14 6) (fld w 8 6))
  | 0x02 => .ok (.mul (fld w 20 6) (fld w 14 6) (fld w 8 6))
  | 0x03 => .ok (.mulh (fld w 20 6) (fld w 14 6) (fld w 8 6))
  | 0x04 => .ok (.mulhn (fld w 20 6) (fld w 14 6) (fld w 8 6))
  | 0x05 => .ok (.div (fld w 20 6) (fld w 14 6) (fld w 8 6))
  | 0x06 => .ok (.divn (fld w 20 6) (fld w 14 6) (fld w 8 6))
  | 0x07 => .ok (.rem (fld w 20 6) (fld w 14 6) (fld w 8 6))
  | 0x08 => .ok (.remn (fld w 20 6) (fld w 14 6) (fld w 8 6))
  | 0x09 => .ok (.and (fld w 20 6) (fld w 14 6) (fld w 8 6))
  | 0x0A => .ok (.or (fld w 20 6) (fld w 14 6) (fld w 8 6))
  | 0x0B => .ok (.xor (fld w 20 6) (fld w 14 6) (fld w 8 6))
  | 0x0C => .ok (.andn (fld w 20 6) (fld w 14 6) (fld w 8 6))
  | 0x0D => .ok (.shl (fld w 20 6) (fld w 14 6) (fld w 8 6))
  | 0x0E => .ok (.shr (fld w 20 6) (fld w 14 6) (fld w 8 6))
  | 0x0F => .ok (.sra (fld w 20 6) (fld w 14 6) (fld w 8 6))
  | 0x10 => .ok (.min (fld w 20 6) (fld w 14 6) (fld w 8 6))
  | 0x11 => .ok (.max (fld w 20 6) (fld w 14 6) (fld w 8 6))
  | 0x12 => .ok (.minn (fld w 20 6) (fld w 14 6) (fld w 8 6))
  | 0x13 => .ok (.maxn (fld w 20 6) (fld w 14 6) (fld w 8 6))
  | 0x14 => zeroed (fldN w 8 6 == 0) (.clz (fld w 20 6) (fld w 14 6))
  | 0x15 => zeroed (fldN w 8 6 == 0) (.ctz (fld w 20 6) (fld w 14 6))
  | 0x16 => zeroed (fldN w 8 6 == 0) (.pop (fld w 20 6) (fld w 14 6))
  | 0x17 => zeroed (fldN w 8 6 == 0) (.sext8 (fld w 20 6) (fld w 14 6))
  | 0x18 => zeroed (fldN w 8 6 == 0) (.sext16 (fld w 20 6) (fld w 14 6))
  | 0x19 => zeroed (fldN w 8 6 == 0) (.sext32 (fld w 20 6) (fld w 14 6))
  | 0x1A => zeroed (fldN w 8 6 == 0) (.zext8 (fld w 20 6) (fld w 14 6))
  | 0x1B => zeroed (fldN w 8 6 == 0) (.zext16 (fld w 20 6) (fld w 14 6))
  | 0x1C => zeroed (fldN w 8 6 == 0) (.zext32 (fld w 20 6) (fld w 14 6))
  | 0x1D => .ok (.seq (fld w 20 6) (fld w 14 6) (fld w 8 6))
  | 0x1E => .ok (.sne (fld w 20 6) (fld w 14 6) (fld w 8 6))
  | 0x1F => .ok (.slt (fld w 20 6) (fld w 14 6) (fld w 8 6))
  | 0x20 => .ok (.sltn (fld w 20 6) (fld w 14 6) (fld w 8 6))
  | 0x21 => .ok (.sle (fld w 20 6) (fld w 14 6) (fld w 8 6))
  | 0x22 => .ok (.slen (fld w 20 6) (fld w 14 6) (fld w 8 6))
  | 0x23 => .ok (.cmov (fld w 20 6) (fld w 14 6) (fld w 8 6))
  | _ => .error .unassigned

/-- `shi` words, op 0x05: imm14[13:12] selects the shift and imm14[11:6] is zero (R104). -/
def decodeShi (w : Nat) : Except DecodeErr Instr :=
  match fldN w 12 2 with
  | 0 => zeroed (fldN w 6 6 == 0) (.shiShl (fld w 20 6) (fld w 14 6) (fld w 0 6))
  | 1 => zeroed (fldN w 6 6 == 0) (.shiShr (fld w 20 6) (fld w 14 6) (fld w 0 6))
  | 2 => zeroed (fldN w 6 6 == 0) (.shiSra (fld w 20 6) (fld w 14 6) (fld w 0 6))
  | _ => zeroed (fldN w 6 6 == 0) (.shiRol (fld w 20 6) (fld w 14 6) (fld w 0 6))

/-- SYS words, op 0x22 (R108). -/
def decodeSys (w : Nat) : Except DecodeErr Instr :=
  let d0 := fldN w 20 6 == 0
  let a0 := fldN w 14 6 == 0
  let b0 := fldN w 8 6 == 0
  match fldN w 0 8 with
  | 0x00 => zeroed (d0 && a0 && b0) .nop
  | 0x01 =>
    (match fldN w 14 6 with
     | 0 => checked (decide (fldN w 8 6 ≤ 5)) d0 (.fenceMem (fld w 8 6))
     | 1 => checked (decide (fldN w 8 6 ≤ 5)) d0 (.fenceXlat (fld w 8 6))
     | 2 => checked (decide (fldN w 8 6 ≤ 5)) d0 (.fenceCode (fld w 8 6))
     | _ => .error .notAllowed)
  | 0x02 => zeroed (d0 && a0 && b0) .xfence
  | 0x03 => checked (decide (fldN w 8 6 ≤ 15)) d0 (.bar (fld w 14 6) (fld w 8 6))
  | 0x04 => checked (decide (fldN w 23 3 ≤ 5)) true (.wwait (fld w 23 3) (fld w 22 1) (fld w 20 2) (fld w 14 6) (fld w 8 6))
  | 0x05 => zeroed (d0 && a0 && b0) .exit
  | 0x06 => checked (decide (fldN w 14 6 ≤ 61)) (d0 && b0) (.lexit (fld w 14 6))
  | 0x07 => zeroed (d0 && a0 && b0) .yield
  | 0x08 => zeroed d0 (.trap (fld w 8 12))
  | 0x09 => checked (specialKnown (fldN w 8 12)) true (.srd (fld w 20 6) (fld w 8 12))
  | 0x0A => checked (specialKnown (fldN w 8 12)) true (.swr (fld w 20 6) (fld w 8 12))
  | 0x0B => zeroed b0 (.launch (fld w 20 6) (fld w 14 6))
  | 0x0C => zeroed (d0 && b0) (.bwait (fld w 14 6))
  | 0x0D => zeroed (d0 && b0) (.mwait (fld w 14 6))
  | _ => .error .unassigned

/-- AMO words, op 0x23: fn[4:0] the operation, fn[7:5] the scope (R109, R110). -/
def decodeAmo (w : Nat) : Except DecodeErr Instr :=
  let scope := decide (fldN w 5 3 ≤ 5)
  match fldN w 0 5 with
  | 0x00 => checked scope true (.amoAdd (fld w 20 6) (fld w 14 6) (fld w 8 6) (fld w 5 3))
  | 0x01 => checked scope true (.amoAnd (fld w 20 6) (fld w 14 6) (fld w 8 6) (fld w 5 3))
  | 0x02 => checked scope true (.amoOr (fld w 20 6) (fld w 14 6) (fld w 8 6) (fld w 5 3))
  | 0x03 => checked scope true (.amoXor (fld w 20 6) (fld w 14 6) (fld w 8 6) (fld w 5 3))
  | 0x04 => checked scope true (.amoMin (fld w 20 6) (fld w 14 6) (fld w 8 6) (fld w 5 3))
  | 0x05 => checked scope true (.amoMax (fld w 20 6) (fld w 14 6) (fld w 8 6) (fld w 5 3))
  | 0x06 => checked scope true (.amoMinn (fld w 20 6) (fld w 14 6) (fld w 8 6) (fld w 5 3))
  | 0x07 => checked scope true (.amoMaxn (fld w 20 6) (fld w 14 6) (fld w 8 6) (fld w 5 3))
  | 0x08 => checked scope true (.amoXchg (fld w 20 6) (fld w 14 6) (fld w 8 6) (fld w 5 3))
  | 0x09 => checked scope true (.amoCas (fld w 20 6) (fld w 14 6) (fld w 8 6) (fld w 5 3))
  | 0x0A => checked scope true (.amoFaddF32 (fld w 20 6) (fld w 14 6) (fld w 8 6) (fld w 5 3))
  | 0x0B => checked scope true (.amoFaddF64 (fld w 20 6) (fld w 14 6) (fld w 8 6) (fld w 5 3))
  | _ => .error .unassigned

/-- MASK words, op 0x24; a triple number above 61 is not allowed (R111, R161). -/
def decodeMask (w : Nat) : Except DecodeErr Instr :=
  let b0 := fldN w 8 6 == 0
  let ta := decide (fldN w 14 6 ≤ 61)
  let td := decide (fldN w 20 6 ≤ 61)
  match fldN w 0 8 with
  | 0x00 => checked ta b0 (.many (fld w 20 6) (fld w 14 6))
  | 0x01 => checked ta b0 (.mcnt (fld w 20 6) (fld w 14 6))
  | 0x02 => checked ta b0 (.mffs (fld w 20 6) (fld w 14 6))
  | 0x03 => checked (td && ta) b0 (.mmov (fld w 20 6) (fld w 14 6))
  | 0x04 => checked td true (.mset (fld w 20 6) (fld w 14 6) (fld w 8 6))
  | 0x05 => checked (td && ta) b0 (.mnot (fld w 20 6) (fld w 14 6))
  | _ => .error .unassigned

/-- CREAM words, op 0x25 (R111, R341, R342). -/
def decodeCream (w : Nat) : Except DecodeErr Instr :=
  let d0 := fldN w 20 6 == 0
  let a0 := fldN w 14 6 == 0
  let b0 := fldN w 8 6 == 0
  match fldN w 0 8 with
  | 0x00 => zeroed (a0 && b0) (.crel (fld w 20 6))
  | 0x01 => zeroed (d0 && b0) (.cacq (fld w 14 6))
  | 0x02 => zeroed (a0 && b0) (.cseq (fld w 20 6))
  | 0x03 => checked (decide (fldN w 8 6 ≤ 15)) true (.cbar (fld w 20 6) (fld w 14 6) (fld w 8 6))
  | _ => .error .unassigned

/-- X words, op 0x21 (R112): with y = 0 the sd field is zero; a function that exists only with y = 1 is not allowed with
y = 0 (R290, R361). -/
def decodeX (w : Nat) : Except DecodeErr Instr :=
  let y1 := fldN w 7 1 == 1
  let yd := y1 || fldN w 20 6 == 0
  let a0 := fldN w 14 6 == 0
  let b0 := fldN w 8 6 == 0
  match fldN w 0 7 with
  | 0x00 => zeroed (yd) (.xcShape (fld w 20 6) (fld w 14 6) (fld w 8 6) (fld w 7 1))
  | 0x01 => zeroed (yd) (.xcStride (fld w 20 6) (fld w 14 6) (fld w 8 6) (fld w 7 1))
  | 0x02 => zeroed (yd) (.xcDone (fld w 20 6) (fld w 14 6) (fld w 8 6) (fld w 7 1))
  | 0x03 =>
    (match fldN w 8 6 with
     | 0 => zeroed (yd && a0) (.xcPermOff (fld w 20 6) (fld w 7 1))
     | 1 => zeroed (yd && fldN w 18 2 == 0) (.xcPerm (fld w 20 6) (fld w 14 4) (fld w 7 1))
     | 2 => zeroed (yd && fldN w 18 2 == 0) (.xcPermSc (fld w 20 6) (fld w 14 4) (fld w 7 1))
     | _ => .error .notAllowed)
  | 0x04 => zeroed (yd) (.xcGo (fld w 20 6) (fld w 14 6) (fld w 8 6) (fld w 7 1))
  | 0x05 => zeroed (yd) (.xcFill (fld w 20 6) (fld w 14 6) (fld w 8 6) (fld w 7 1))
  | 0x06 => zeroed (yd && a0 && b0) (.xcBatch (fld w 20 6) (fld w 7 1))
  | 0x07 => checked y1 (b0) (.xcQuery (fld w 20 6) (fld w 14 6))
  | 0x20 => zeroed (yd && b0) (.xmFmt (fld w 20 6) (fld w 14 6) (fld w 7 1))
  | 0x21 => zeroed (yd) (.xmA (fld w 20 6) (fld w 14 6) (fld w 8 6) (fld w 7 1))
  | 0x22 => zeroed (yd) (.xmB (fld w 20 6) (fld w 14 6) (fld w 8 6) (fld w 7 1))
  | 0x23 => zeroed (yd) (.xmGrp (fld w 20 6) (fld w 14 6) (fld w 8 6) (fld w 7 1))
  | 0x24 => zeroed (yd && b0) (.xmTile (fld w 20 6) (fld w 14 6) (fld w 7 1))
  | 0x25 => zeroed (yd && b0) (.xmMcast (fld w 20 6) (fld w 14 6) (fld w 7 1))
  | 0x26 => zeroed (yd) (.xmMma (fld w 20 6) (fld w 14 6) (fld w 8 6) (fld w 7 1))
  | 0x27 => zeroed (yd) (.xmSca (fld w 20 6) (fld w 14 6) (fld w 8 6) (fld w 7 1))
  | 0x28 => zeroed (yd && a0 && b0) (.xmBatch (fld w 20 6) (fld w 7 1))
  | 0x50 => checked y1 (b0) (.xeReg (fld w 20 6) (fld w 14 6))
  | 0x51 => checked y1 (b0) (.xeVer (fld w 20 6) (fld w 14 6))
  | 0x52 => zeroed (yd && a0 && b0) (.xePin (fld w 20 6) (fld w 7 1))
  | 0x53 => zeroed (yd && a0 && b0) (.xeUnpin (fld w 20 6) (fld w 7 1))
  | 0x54 => checked y1 (b0) (.xeGrad (fld w 20 6) (fld w 14 6))
  | 0x55 => checked y1 true (.xeHeat (fld w 20 6) (fld w 14 6) (fld w 8 6))
  | 0x60 => zeroed (yd) (.xhPost (fld w 20 6) (fld w 14 6) (fld w 8 6) (fld w 7 1))
  | 0x61 => zeroed (yd && b0) (.xhNotify (fld w 20 6) (fld w 14 6) (fld w 7 1))
  | 0x70 => zeroed (yd && b0) (.xoSeal (fld w 20 6) (fld w 14 6) (fld w 7 1))
  | 0x71 => zeroed (yd) (.xoDirty (fld w 20 6) (fld w 14 6) (fld w 8 6) (fld w 7 1))
  | 0x72 => zeroed (yd && b0) (.xoStop (fld w 20 6) (fld w 14 6) (fld w 7 1))
  | 0x73 => zeroed (yd && b0) (.xoCtx (fld w 20 6) (fld w 14 6) (fld w 7 1))
  | _ => .error .unassigned

/-- A scalar word (R103, R106). -/
def decodeScalar (w : Nat) : Except DecodeErr Instr :=
  match fldN w 26 6 with
  | 0x00 => decodeAlu w
  | 0x01 => .ok (.addi (fld w 20 6) (fld w 14 6) (fld w 0 14))
  | 0x02 => .ok (.andi (fld w 20 6) (fld w 14 6) (fld w 0 14))
  | 0x03 => .ok (.ori (fld w 20 6) (fld w 14 6) (fld w 0 14))
  | 0x04 => .ok (.xori (fld w 20 6) (fld w 14 6) (fld w 0 14))
  | 0x05 => decodeShi w
  | 0x06 => .ok (.slti (fld w 20 6) (fld w 14 6) (fld w 0 14))
  | 0x07 => .ok (.sltni (fld w 20 6) (fld w 14 6) (fld w 0 14))
  | 0x08 => .ok (.hi20 (fld w 20 6) (fld w 0 20))
  | 0x09 => .ok (.adr (fld w 20 6) (fld w 0 20))
  | 0x0A => .ok (.ladr (fld w 20 6) (fld w 0 20))
  | 0x0B => .ok (.ldI8 (fld w 20 6) (fld w 14 6) (fld w 0 14))
  | 0x0C => .ok (.ldN8 (fld w 20 6) (fld w 14 6) (fld w 0 14))
  | 0x0D => .ok (.ldI16 (fld w 20 6) (fld w 14 6) (fld w 0 14))
  | 0x0E => .ok (.ldN16 (fld w 20 6) (fld w 14 6) (fld w 0 14))
  | 0x0F => .ok (.ldI32 (fld w 20 6) (fld w 14 6) (fld w 0 14))
  | 0x10 => .ok (.ldN32 (fld w 20 6) (fld w 14 6) (fld w 0 14))
  | 0x11 => .ok (.ld64 (fld w 20 6) (fld w 14 6) (fld w 0 14))
  | 0x12 => .ok (.st8 (fld w 20 6) (fld w 14 6) (fld w 0 14))
  | 0x13 => .ok (.st16 (fld w 20 6) (fld w 14 6) (fld w 0 14))
  | 0x14 => .ok (.st32 (fld w 20 6) (fld w 14 6) (fld w 0 14))
  | 0x15 => .ok (.st64 (fld w 20 6) (fld w 14 6) (fld w 0 14))
  | 0x16 => .ok (.bEq (fld w 20 6) (fld w 14 6) (fld w 0 14))
  | 0x17 => .ok (.bNe (fld w 20 6) (fld w 14 6) (fld w 0 14))
  | 0x18 => .ok (.bLt (fld w 20 6) (fld w 14 6) (fld w 0 14))
  | 0x19 => .ok (.bGe (fld w 20 6) (fld w 14 6) (fld w 0 14))
  | 0x1A => .ok (.bLtn (fld w 20 6) (fld w 14 6) (fld w 0 14))
  | 0x1B => .ok (.bGen (fld w 20 6) (fld w 14 6) (fld w 0 14))
  | 0x1C => .ok (.j (fld w 0 26))
  | 0x1D => .ok (.jal (fld w 0 26))
  | 0x1E => .ok (.jr (fld w 20 6) (fld w 14 6) (fld w 0 14))
  | 0x1F => .ok (.lrun (fld w 18 8) (fld w 0 18))
  | 0x20 => zeroed (fldN w 0 12 == 0) (.lrunr (fld w 18 8) (fld w 12 6))
  | 0x21 => decodeX w
  | 0x22 => decodeSys w
  | 0x23 => decodeAmo w
  | 0x24 => decodeMask w
  | 0x25 => decodeCream w
  | _ => .error .unassigned

/-- The instruction of a lane opcode (R119). -/
def laneInstr (op : Nat) (w : LaneOps) : Option Instr :=
  match op with
  | 0x00 => some (.vadd w)
  | 0x01 => some (.vsub w)
  | 0x02 => some (.vmul w)
  | 0x03 => some (.vmulh w)
  | 0x04 => some (.vmad w)
  | 0x05 => some (.vmin w)
  | 0x06 => some (.vmax w)
  | 0x07 => some (.vabs w)
  | 0x08 => some (.vneg w)
  | 0x09 => some (.vand w)
  | 0x0A => some (.vor w)
  | 0x0B => some (.vxor w)
  | 0x0C => some (.vandn w)
  | 0x0D => some (.vnot w)
  | 0x0E => some (.vshl w)
  | 0x0F => some (.vshr w)
  | 0x10 => some (.vsra w)
  | 0x11 => some (.vclz w)
  | 0x12 => some (.vpop w)
  | 0x13 => some (.vbrev w)
  | 0x14 => some (.vsel w)
  | 0x15 => some (.vcmp w)
  | 0x16 => some (.vmov w)
  | 0x30 => some (.vfadd w)
  | 0x31 => some (.vfsub w)
  | 0x32 => some (.vfmul w)
  | 0x33 => some (.vfma w)
  | 0x34 => some (.vfms w)
  | 0x35 => some (.vfnma w)
  | 0x36 => some (.vfnms w)
  | 0x37 => some (.vfmin w)
  | 0x38 => some (.vfmax w)
  | 0x39 => some (.vfminx w)
  | 0x3A => some (.vfmaxx w)
  | 0x3B => some (.vfabs w)
  | 0x3C => some (.vfneg w)
  | 0x3D => some (.vfcpsgn w)
  | 0x3E => some (.vfcmp w)
  | 0x3F => some (.vfclass w)
  | 0x40 => some (.vfdiv w)
  | 0x41 => some (.vfsqrt w)
  | 0x42 => some (.vfrcp w)
  | 0x43 => some (.vfrsq w)
  | 0x44 => some (.vfexp2 w)
  | 0x45 => some (.vflog2 w)
  | 0x46 => some (.vfsin w)
  | 0x47 => some (.vfcos w)
  | 0x48 => some (.vftanh w)
  | 0x49 => some (.vfrnd w)
  | 0x60 => some (.vcvt w)
  | 0x61 => some (.vpack2 w)
  | 0x62 => some (.vpack4 w)
  | 0x63 => some (.vpack8 w)
  | 0x64 => some (.vunpk2 w)
  | 0x65 => some (.vunpk4 w)
  | 0x66 => some (.vunpk8 w)
  | 0x67 => some (.vqgrp w)
  | 0x68 => some (.vsat w)
  | 0x70 => some (.vgath w)
  | 0x71 => some (.vbcast w)
  | 0x72 => some (.vred w)
  | 0x73 => some (.vscan w)
  | 0x74 => some (.vmatch w)
  | 0x75 => some (.vballot w)
  | 0x76 => some (.vcompact w)
  | 0x77 => some (.vexpand w)
  | 0x78 => some (.vlaneid w)
  | 0x90 => some (.vld w)
  | 0x91 => some (.vst w)
  | 0x92 => some (.vlds w)
  | 0x93 => some (.vsts w)
  | 0x94 => some (.vldc w)
  | 0x95 => some (.vstc w)
  | 0x96 => some (.vamo w)
  | 0x97 => some (.vamoc w)
  | 0x98 => some (.vprf w)
  | 0xB0 => some (.qld w)
  | 0xB1 => some (.qldt w)
  | 0xB2 => some (.qst w)
  | 0xB3 => some (.qid w)
  | 0xB4 => some (.qcomp w)
  | 0xB5 => some (.qinv w)
  | 0xB6 => some (.qpow w)
  | 0xB7 => some (.qrand w)
  | 0xB8 => some (.qcyc w)
  | 0xB9 => some (.qapp w)
  | 0xC0 => some (.vacrd w)
  | 0xC1 => some (.vacwr w)
  | 0xC2 => some (.vpark w)
  | 0xC3 => some (.vunpark w)
  | 0xC4 => some (.vroute w)
  | _ => none

/-- The raw fields of a lane word (R113). -/
def rawOfWord (w : Nat) : RawLane :=
  ⟨fldN w 88 8, fldN w 84 4, fldN w 81 3, fldN w 77 1, fldN w 70 7,
    ⟨fldN w 39 2, fldN w 32 7, fldN w 28 4, fldN w 21 7, fldN w 78 1⟩,
    ⟨fldN w 59 2, fldN w 52 7, fldN w 48 4, fldN w 41 7, fldN w 79 1⟩,
    ⟨fldN w 68 2, fldN w 61 7, 0, 0, fldN w 80 1⟩, fldN w 0 21⟩

/-- A lane word, its word 0 in the low bits (R113, R120). -/
def decodeLane (w : Nat) : Except DecodeErr Instr :=
  let r := rawOfWord w
  match laneCheck r with
  | some e => .error e
  | none =>
    match laneInstr r.op (typedLane r) with
    | some i => .ok i
    | none => .error .unassigned

/-- The instruction of four scalar bytes or twelve lane bytes, lowest address first; every other count is no word. -/
def decodeBytes (bs : List Byte) : Except DecodeErr Instr :=
  if bs.length = 4 then decodeScalar (bytesToNat bs)
  else if bs.length = 12 then decodeLane (bytesToNat bs)
  else .error .unassigned

/-- The instruction of a row's bits, numbered as the table numbers them: a word of at most 32 bits is a scalar word and a
longer one a lane word, each laid out in memory in its byte order. -/
def decodeTableWord (nbits w : Nat) : Option Instr :=
  match decodeBytes (natToBytes (if nbits ≤ 32 then 4 else 12) w) with
  | .ok i => some i
  | .error _ => none

/-! ### The encoder -/

/-- The opcode of a lane instruction and its fields (R119). -/
def laneParts : Instr → Option (Nat × LaneOps)
  | .vadd w => some (0x00, w)
  | .vsub w => some (0x01, w)
  | .vmul w => some (0x02, w)
  | .vmulh w => some (0x03, w)
  | .vmad w => some (0x04, w)
  | .vmin w => some (0x05, w)
  | .vmax w => some (0x06, w)
  | .vabs w => some (0x07, w)
  | .vneg w => some (0x08, w)
  | .vand w => some (0x09, w)
  | .vor w => some (0x0A, w)
  | .vxor w => some (0x0B, w)
  | .vandn w => some (0x0C, w)
  | .vnot w => some (0x0D, w)
  | .vshl w => some (0x0E, w)
  | .vshr w => some (0x0F, w)
  | .vsra w => some (0x10, w)
  | .vclz w => some (0x11, w)
  | .vpop w => some (0x12, w)
  | .vbrev w => some (0x13, w)
  | .vsel w => some (0x14, w)
  | .vcmp w => some (0x15, w)
  | .vmov w => some (0x16, w)
  | .vfadd w => some (0x30, w)
  | .vfsub w => some (0x31, w)
  | .vfmul w => some (0x32, w)
  | .vfma w => some (0x33, w)
  | .vfms w => some (0x34, w)
  | .vfnma w => some (0x35, w)
  | .vfnms w => some (0x36, w)
  | .vfmin w => some (0x37, w)
  | .vfmax w => some (0x38, w)
  | .vfminx w => some (0x39, w)
  | .vfmaxx w => some (0x3A, w)
  | .vfabs w => some (0x3B, w)
  | .vfneg w => some (0x3C, w)
  | .vfcpsgn w => some (0x3D, w)
  | .vfcmp w => some (0x3E, w)
  | .vfclass w => some (0x3F, w)
  | .vfdiv w => some (0x40, w)
  | .vfsqrt w => some (0x41, w)
  | .vfrcp w => some (0x42, w)
  | .vfrsq w => some (0x43, w)
  | .vfexp2 w => some (0x44, w)
  | .vflog2 w => some (0x45, w)
  | .vfsin w => some (0x46, w)
  | .vfcos w => some (0x47, w)
  | .vftanh w => some (0x48, w)
  | .vfrnd w => some (0x49, w)
  | .vcvt w => some (0x60, w)
  | .vpack2 w => some (0x61, w)
  | .vpack4 w => some (0x62, w)
  | .vpack8 w => some (0x63, w)
  | .vunpk2 w => some (0x64, w)
  | .vunpk4 w => some (0x65, w)
  | .vunpk8 w => some (0x66, w)
  | .vqgrp w => some (0x67, w)
  | .vsat w => some (0x68, w)
  | .vgath w => some (0x70, w)
  | .vbcast w => some (0x71, w)
  | .vred w => some (0x72, w)
  | .vscan w => some (0x73, w)
  | .vmatch w => some (0x74, w)
  | .vballot w => some (0x75, w)
  | .vcompact w => some (0x76, w)
  | .vexpand w => some (0x77, w)
  | .vlaneid w => some (0x78, w)
  | .vld w => some (0x90, w)
  | .vst w => some (0x91, w)
  | .vlds w => some (0x92, w)
  | .vsts w => some (0x93, w)
  | .vldc w => some (0x94, w)
  | .vstc w => some (0x95, w)
  | .vamo w => some (0x96, w)
  | .vamoc w => some (0x97, w)
  | .vprf w => some (0x98, w)
  | .qld w => some (0xB0, w)
  | .qldt w => some (0xB1, w)
  | .qst w => some (0xB2, w)
  | .qid w => some (0xB3, w)
  | .qcomp w => some (0xB4, w)
  | .qinv w => some (0xB5, w)
  | .qpow w => some (0xB6, w)
  | .qrand w => some (0xB7, w)
  | .qcyc w => some (0xB8, w)
  | .qapp w => some (0xB9, w)
  | .vacrd w => some (0xC0, w)
  | .vacwr w => some (0xC1, w)
  | .vpark w => some (0xC2, w)
  | .vunpark w => some (0xC3, w)
  | .vroute w => some (0xC4, w)
  | _ => none

/-- The word of a lane instruction's fields (R113). -/
def encodeRaw (r : RawLane) : Nat :=
  r.op * 2 ^ 88 + r.dt * 2 ^ 84 + r.rs * 2 ^ 81 + r.c.last * 2 ^ 80 + r.b.last * 2 ^ 79 + r.a.last * 2 ^ 78 + r.mz * 2 ^ 77 +
    r.vd * 2 ^ 70 + r.c.kind * 2 ^ 68 + r.c.field * 2 ^ 61 + r.b.kind * 2 ^ 59 + r.b.field * 2 ^ 52 + r.b.pat * 2 ^ 48 +
    r.b.param * 2 ^ 41 + r.a.kind * 2 ^ 39 + r.a.field * 2 ^ 32 + r.a.pat * 2 ^ 28 + r.a.param * 2 ^ 21 + r.imm

/-- The word of a lane instruction (R113, R119). -/
def encodeLane (i : Instr) : Option Nat := (laneParts i).map fun p => encodeRaw (rawLane p.1 p.2)

/-- A word's fixed bits with one to five fields placed at their low bits (R103). -/
def word1 (m x lx : Nat) : Nat := m + x * 2 ^ lx
@[inherit_doc word1] def word2 (m x lx y ly : Nat) : Nat := word1 m x lx + y * 2 ^ ly
@[inherit_doc word1] def word3 (m x lx y ly z lz : Nat) : Nat := word2 m x lx y ly + z * 2 ^ lz
@[inherit_doc word1] def word4 (m x lx y ly z lz u lu : Nat) : Nat := word3 m x lx y ly z lz + u * 2 ^ lu
@[inherit_doc word1] def word5 (m x lx y ly z lz u lu v lv : Nat) : Nat := word4 m x lx y ly z lz u lu + v * 2 ^ lv

/-- The word of a scalar instruction (R103 to R112). -/
def encodeScalar : Instr → Option Nat
  | .add d a b => some (word3 0x00000000 d.toNat 20 a.toNat 14 b.toNat 8)
  | .sub d a b => some (word3 0x00000001 d.toNat 20 a.toNat 14 b.toNat 8)
  | .mul d a b => some (word3 0x00000002 d.toNat 20 a.toNat 14 b.toNat 8)
  | .mulh d a b => some (word3 0x00000003 d.toNat 20 a.toNat 14 b.toNat 8)
  | .mulhn d a b => some (word3 0x00000004 d.toNat 20 a.toNat 14 b.toNat 8)
  | .div d a b => some (word3 0x00000005 d.toNat 20 a.toNat 14 b.toNat 8)
  | .divn d a b => some (word3 0x00000006 d.toNat 20 a.toNat 14 b.toNat 8)
  | .rem d a b => some (word3 0x00000007 d.toNat 20 a.toNat 14 b.toNat 8)
  | .remn d a b => some (word3 0x00000008 d.toNat 20 a.toNat 14 b.toNat 8)
  | .and d a b => some (word3 0x00000009 d.toNat 20 a.toNat 14 b.toNat 8)
  | .or d a b => some (word3 0x0000000A d.toNat 20 a.toNat 14 b.toNat 8)
  | .xor d a b => some (word3 0x0000000B d.toNat 20 a.toNat 14 b.toNat 8)
  | .andn d a b => some (word3 0x0000000C d.toNat 20 a.toNat 14 b.toNat 8)
  | .shl d a b => some (word3 0x0000000D d.toNat 20 a.toNat 14 b.toNat 8)
  | .shr d a b => some (word3 0x0000000E d.toNat 20 a.toNat 14 b.toNat 8)
  | .sra d a b => some (word3 0x0000000F d.toNat 20 a.toNat 14 b.toNat 8)
  | .min d a b => some (word3 0x00000010 d.toNat 20 a.toNat 14 b.toNat 8)
  | .max d a b => some (word3 0x00000011 d.toNat 20 a.toNat 14 b.toNat 8)
  | .minn d a b => some (word3 0x00000012 d.toNat 20 a.toNat 14 b.toNat 8)
  | .maxn d a b => some (word3 0x00000013 d.toNat 20 a.toNat 14 b.toNat 8)
  | .clz d a => some (word2 0x00000014 d.toNat 20 a.toNat 14)
  | .ctz d a => some (word2 0x00000015 d.toNat 20 a.toNat 14)
  | .pop d a => some (word2 0x00000016 d.toNat 20 a.toNat 14)
  | .sext8 d a => some (word2 0x00000017 d.toNat 20 a.toNat 14)
  | .sext16 d a => some (word2 0x00000018 d.toNat 20 a.toNat 14)
  | .sext32 d a => some (word2 0x00000019 d.toNat 20 a.toNat 14)
  | .zext8 d a => some (word2 0x0000001A d.toNat 20 a.toNat 14)
  | .zext16 d a => some (word2 0x0000001B d.toNat 20 a.toNat 14)
  | .zext32 d a => some (word2 0x0000001C d.toNat 20 a.toNat 14)
  | .seq d a b => some (word3 0x0000001D d.toNat 20 a.toNat 14 b.toNat 8)
  | .sne d a b => some (word3 0x0000001E d.toNat 20 a.toNat 14 b.toNat 8)
  | .slt d a b => some (word3 0x0000001F d.toNat 20 a.toNat 14 b.toNat 8)
  | .sltn d a b => some (word3 0x00000020 d.toNat 20 a.toNat 14 b.toNat 8)
  | .sle d a b => some (word3 0x00000021 d.toNat 20 a.toNat 14 b.toNat 8)
  | .slen d a b => some (word3 0x00000022 d.toNat 20 a.toNat 14 b.toNat 8)
  | .cmov d a b => some (word3 0x00000023 d.toNat 20 a.toNat 14 b.toNat 8)
  | .addi d a i => some (word3 0x04000000 d.toNat 20 a.toNat 14 i.toNat 0)
  | .andi d a i => some (word3 0x08000000 d.toNat 20 a.toNat 14 i.toNat 0)
  | .ori d a i => some (word3 0x0C000000 d.toNat 20 a.toNat 14 i.toNat 0)
  | .xori d a i => some (word3 0x10000000 d.toNat 20 a.toNat 14 i.toNat 0)
  | .shiShl d a n => some (word3 0x14000000 d.toNat 20 a.toNat 14 n.toNat 0)
  | .shiShr d a n => some (word3 0x14001000 d.toNat 20 a.toNat 14 n.toNat 0)
  | .shiSra d a n => some (word3 0x14002000 d.toNat 20 a.toNat 14 n.toNat 0)
  | .shiRol d a n => some (word3 0x14003000 d.toNat 20 a.toNat 14 n.toNat 0)
  | .slti d a i => some (word3 0x18000000 d.toNat 20 a.toNat 14 i.toNat 0)
  | .sltni d a i => some (word3 0x1C000000 d.toNat 20 a.toNat 14 i.toNat 0)
  | .hi20 d i => some (word2 0x20000000 d.toNat 20 i.toNat 0)
  | .adr d i => some (word2 0x24000000 d.toNat 20 i.toNat 0)
  | .ladr d i => some (word2 0x28000000 d.toNat 20 i.toNat 0)
  | .ldI8 d a i => some (word3 0x2C000000 d.toNat 20 a.toNat 14 i.toNat 0)
  | .ldN8 d a i => some (word3 0x30000000 d.toNat 20 a.toNat 14 i.toNat 0)
  | .ldI16 d a i => some (word3 0x34000000 d.toNat 20 a.toNat 14 i.toNat 0)
  | .ldN16 d a i => some (word3 0x38000000 d.toNat 20 a.toNat 14 i.toNat 0)
  | .ldI32 d a i => some (word3 0x3C000000 d.toNat 20 a.toNat 14 i.toNat 0)
  | .ldN32 d a i => some (word3 0x40000000 d.toNat 20 a.toNat 14 i.toNat 0)
  | .ld64 d a i => some (word3 0x44000000 d.toNat 20 a.toNat 14 i.toNat 0)
  | .st8 a b o => some (word3 0x48000000 a.toNat 20 b.toNat 14 o.toNat 0)
  | .st16 a b o => some (word3 0x4C000000 a.toNat 20 b.toNat 14 o.toNat 0)
  | .st32 a b o => some (word3 0x50000000 a.toNat 20 b.toNat 14 o.toNat 0)
  | .st64 a b o => some (word3 0x54000000 a.toNat 20 b.toNat 14 o.toNat 0)
  | .bEq a b o => some (word3 0x58000000 a.toNat 20 b.toNat 14 o.toNat 0)
  | .bNe a b o => some (word3 0x5C000000 a.toNat 20 b.toNat 14 o.toNat 0)
  | .bLt a b o => some (word3 0x60000000 a.toNat 20 b.toNat 14 o.toNat 0)
  | .bGe a b o => some (word3 0x64000000 a.toNat 20 b.toNat 14 o.toNat 0)
  | .bLtn a b o => some (word3 0x68000000 a.toNat 20 b.toNat 14 o.toNat 0)
  | .bGen a b o => some (word3 0x6C000000 a.toNat 20 b.toNat 14 o.toNat 0)
  | .j o => some (word1 0x70000000 o.toNat 0)
  | .jal o => some (word1 0x74000000 o.toNat 0)
  | .jr d a i => some (word3 0x78000000 d.toNat 20 a.toNat 14 i.toNat 0)
  | .lrun c o => some (word2 0x7C000000 c.toNat 18 o.toNat 0)
  | .lrunr c a => some (word2 0x80000000 c.toNat 18 a.toNat 12)
  | .nop => some (0x88000000)
  | .fenceMem s => some (word1 0x88000001 s.toNat 8)
  | .fenceXlat s => some (word1 0x88004001 s.toNat 8)
  | .fenceCode s => some (word1 0x88008001 s.toNat 8)
  | .xfence => some (0x88000002)
  | .bar a b => some (word2 0x88000003 a.toNat 14 b.toNat 8)
  | .wwait s w c a b => some (word5 0x88000004 s.toNat 23 w.toNat 22 c.toNat 20 a.toNat 14 b.toNat 8)
  | .exit => some (0x88000005)
  | .lexit a => some (word1 0x88000006 a.toNat 14)
  | .yield => some (0x88000007)
  | .trap c => some (word1 0x88000008 c.toNat 8)
  | .srd d n => some (word2 0x88000009 d.toNat 20 n.toNat 8)
  | .swr d n => some (word2 0x8800000A d.toNat 20 n.toNat 8)
  | .launch d a => some (word2 0x8800000B d.toNat 20 a.toNat 14)
  | .bwait a => some (word1 0x8800000C a.toNat 14)
  | .mwait a => some (word1 0x8800000D a.toNat 14)
  | .amoAdd d a b s => some (word4 0x8C000000 d.toNat 20 a.toNat 14 b.toNat 8 s.toNat 5)
  | .amoAnd d a b s => some (word4 0x8C000001 d.toNat 20 a.toNat 14 b.toNat 8 s.toNat 5)
  | .amoOr d a b s => some (word4 0x8C000002 d.toNat 20 a.toNat 14 b.toNat 8 s.toNat 5)
  | .amoXor d a b s => some (word4 0x8C000003 d.toNat 20 a.toNat 14 b.toNat 8 s.toNat 5)
  | .amoMin d a b s => some (word4 0x8C000004 d.toNat 20 a.toNat 14 b.toNat 8 s.toNat 5)
  | .amoMax d a b s => some (word4 0x8C000005 d.toNat 20 a.toNat 14 b.toNat 8 s.toNat 5)
  | .amoMinn d a b s => some (word4 0x8C000006 d.toNat 20 a.toNat 14 b.toNat 8 s.toNat 5)
  | .amoMaxn d a b s => some (word4 0x8C000007 d.toNat 20 a.toNat 14 b.toNat 8 s.toNat 5)
  | .amoXchg d a b s => some (word4 0x8C000008 d.toNat 20 a.toNat 14 b.toNat 8 s.toNat 5)
  | .amoCas d a b s => some (word4 0x8C000009 d.toNat 20 a.toNat 14 b.toNat 8 s.toNat 5)
  | .amoFaddF32 d a b s => some (word4 0x8C00000A d.toNat 20 a.toNat 14 b.toNat 8 s.toNat 5)
  | .amoFaddF64 d a b s => some (word4 0x8C00000B d.toNat 20 a.toNat 14 b.toNat 8 s.toNat 5)
  | .many d a => some (word2 0x90000000 d.toNat 20 a.toNat 14)
  | .mcnt d a => some (word2 0x90000001 d.toNat 20 a.toNat 14)
  | .mffs d a => some (word2 0x90000002 d.toNat 20 a.toNat 14)
  | .mmov d a => some (word2 0x90000003 d.toNat 20 a.toNat 14)
  | .mset d a b => some (word3 0x90000004 d.toNat 20 a.toNat 14 b.toNat 8)
  | .mnot d a => some (word2 0x90000005 d.toNat 20 a.toNat 14)
  | .crel d => some (word1 0x94000000 d.toNat 20)
  | .cacq a => some (word1 0x94000001 a.toNat 14)
  | .cseq d => some (word1 0x94000002 d.toNat 20)
  | .cbar d a b => some (word3 0x94000003 d.toNat 20 a.toNat 14 b.toNat 8)
  | .xcShape d a b y => some (word4 0x84000000 d.toNat 20 a.toNat 14 b.toNat 8 y.toNat 7)
  | .xcStride d a b y => some (word4 0x84000001 d.toNat 20 a.toNat 14 b.toNat 8 y.toNat 7)
  | .xcDone d a b y => some (word4 0x84000002 d.toNat 20 a.toNat 14 b.toNat 8 y.toNat 7)
  | .xcPerm d q y => some (word3 0x84000103 d.toNat 20 q.toNat 14 y.toNat 7)
  | .xcPermSc d q y => some (word3 0x84000203 d.toNat 20 q.toNat 14 y.toNat 7)
  | .xcPermOff d y => some (word2 0x84000003 d.toNat 20 y.toNat 7)
  | .xcGo d a b y => some (word4 0x84000004 d.toNat 20 a.toNat 14 b.toNat 8 y.toNat 7)
  | .xcFill d a b y => some (word4 0x84000005 d.toNat 20 a.toNat 14 b.toNat 8 y.toNat 7)
  | .xcBatch d y => some (word2 0x84000006 d.toNat 20 y.toNat 7)
  | .xcQuery d a => some (word2 0x84000087 d.toNat 20 a.toNat 14)
  | .xmFmt d a y => some (word3 0x84000020 d.toNat 20 a.toNat 14 y.toNat 7)
  | .xmA d a b y => some (word4 0x84000021 d.toNat 20 a.toNat 14 b.toNat 8 y.toNat 7)
  | .xmB d a b y => some (word4 0x84000022 d.toNat 20 a.toNat 14 b.toNat 8 y.toNat 7)
  | .xmGrp d a b y => some (word4 0x84000023 d.toNat 20 a.toNat 14 b.toNat 8 y.toNat 7)
  | .xmTile d a y => some (word3 0x84000024 d.toNat 20 a.toNat 14 y.toNat 7)
  | .xmMcast d a y => some (word3 0x84000025 d.toNat 20 a.toNat 14 y.toNat 7)
  | .xmMma d a b y => some (word4 0x84000026 d.toNat 20 a.toNat 14 b.toNat 8 y.toNat 7)
  | .xmSca d a b y => some (word4 0x84000027 d.toNat 20 a.toNat 14 b.toNat 8 y.toNat 7)
  | .xmBatch d y => some (word2 0x84000028 d.toNat 20 y.toNat 7)
  | .xeReg d a => some (word2 0x840000D0 d.toNat 20 a.toNat 14)
  | .xeVer d a => some (word2 0x840000D1 d.toNat 20 a.toNat 14)
  | .xePin d y => some (word2 0x84000052 d.toNat 20 y.toNat 7)
  | .xeUnpin d y => some (word2 0x84000053 d.toNat 20 y.toNat 7)
  | .xeGrad d a => some (word2 0x840000D4 d.toNat 20 a.toNat 14)
  | .xeHeat d a b => some (word3 0x840000D5 d.toNat 20 a.toNat 14 b.toNat 8)
  | .xhPost d a b y => some (word4 0x84000060 d.toNat 20 a.toNat 14 b.toNat 8 y.toNat 7)
  | .xhNotify d a y => some (word3 0x84000061 d.toNat 20 a.toNat 14 y.toNat 7)
  | .xoSeal d a y => some (word3 0x84000070 d.toNat 20 a.toNat 14 y.toNat 7)
  | .xoDirty d a b y => some (word4 0x84000071 d.toNat 20 a.toNat 14 b.toNat 8 y.toNat 7)
  | .xoStop d a y => some (word3 0x84000072 d.toNat 20 a.toNat 14 y.toNat 7)
  | .xoCtx d a y => some (word3 0x84000073 d.toNat 20 a.toNat 14 y.toNat 7)
  | _ => none

/-- The bytes of an instruction's word in memory; the steps of the hardware have no word. -/
def encode (i : Instr) : Option (List Byte) :=
  match encodeScalar i with
  | some w => some (natToBytes 4 w)
  | none => (encodeLane i).map (natToBytes 12)

end Sys2Proof
end

