-- ==== Sys2Proof/Config.lean ====
section
/-! DEFINITION. The values that the spec leaves to the implementation, and the checks that it names and does not lay out: constants
without a body, of which nothing can be proved but what holds whatever they are. -/

namespace Sys2Proof.Config

/-- The cycles that a core's clock makes between one step of the model's own clock and the next, by that clock and the core's
number. A free value (DESIGN CHOICE, entry 6). -/
opaque coreCycleSteps : Nat → Nat → Nat

/-- A core's cycle count (R146 register 0x014): 0 at power-on, and then as many cycles as its clock has made. -/
def coreCycles : Nat → Nat → Nat
  | 0, _ => 0
  | t + 1, core => coreCycles t core + coreCycleSteps t core

/-- How the 640 bytes of engine state in a context image differ from the model's own laying out of that state: the spec gives the
bytes no layout (R369). A free value (DESIGN CHOICE, entry 10). -/
opaque engineMask : Nat → Byte

/-- A candidate for a park handle (R249). A free value (DESIGN CHOICE, entry 28). -/
opaque parkHandle : Nat → Word32

/-- A candidate for a remote memory region's key (R407). A free value (DESIGN CHOICE, entry 42). -/
opaque regionKey : Nat → Word32

/-- Firmware verifies against the key that its stage names: 0 security block and 1 management core by the Lanmor root, 2 policy
by the operator's key (R415). The spec lays out neither image nor signature. Uninterpreted (DESIGN CHOICE, entry 59). -/
opaque firmwareSigned : (stage : Nat) → (key image : List Byte) → Bool

/-- Whether a row that a matrix command reads sees a copy of its own group that no `bwait` has covered, by the model's order number
of the row's read and the copy's number (R236, R298). A free value (DESIGN CHOICE, entry 66). -/
opaque operandSeesCopy : (row copy : Nat) → Bool

/-- The signer ID of the configuration record's signature, which the spec does not give (R413). A free value (DESIGN CHOICE, entry
59). -/
opaque recordSigner : String

/-- What the PUF of an I/O die gives, from which its identity key is derived (R414). A free value (DESIGN CHOICE, entry 59). -/
opaque puf : (die : Nat) → List Byte

/-- A draw of the security block's random source, by its number (R42, R416). A free value (DESIGN CHOICE, entry 59). -/
opaque randomDraw : Nat → BitVec 256

/-- A DER certificate holds a public key and is signed by the Lanmor device root (R37, R41, R414). The spec gives neither the
root key nor the certificate's fields. Uninterpreted (DESIGN CHOICE, entry 59). -/
opaque certifies : (certificate key : List Byte) → Bool

/-- How the payload of a queue-state object differs from the model's own laying out of what it carries: the spec gives it no layout
(R384). A free value (DESIGN CHOICE, entry 45). -/
opaque carriedMask : Nat → Byte

end Sys2Proof.Config
end

