-- ==== Sys2Proof/Machine/Flags.lean ====
section
/-! DEFINITION. The mode register's fields (R144, R145), the exceptions with their sticky flags and traps (R194, R195), and
the draws of stochastic rounding (R187 to R189). -/

namespace Sys2Proof.Machine

/-- The roundings (R186). -/
inductive Rnd where
  | rne | rtz | rdn | rup | rna | sto
  deriving DecidableEq, Repr

/-- The exceptions as a set of bits, in the order of the sticky flags (R144, R194). -/
def exInvalid : Nat := 1
def exDivZero : Nat := 2
def exOverflow : Nat := 4
def exUnderflow : Nat := 8
def exInexact : Nat := 16

/-- The mode slot of a destination class (R144). -/
def modeSlot : DType → Nat
  | .f64 => 0
  | .f32 => 1
  | .f16 => 2
  | .bf16 => 3
  | .e4m3 => 4
  | .e5m2 => 5
  | .i4 | .n4 => 7
  | _ => 6

/-- The rounding of a rounding code (R144); codes 6 and 7 are never in a mode register (R145). -/
def rndOfCode (n : Nat) : Rnd :=
  match n with
  | 0 => .rne | 1 => .rtz | 2 => .rdn | 3 => .rup | 4 => .rna | _ => .sto

/-- The effective rounding: the lane word's when its rs is nonzero, else the destination class's slot (R145, R185). -/
def effectiveRnd (mode : Word) (rs : RoundSel) (t : DType) : Rnd :=
  match rs with
  | .mode => rndOfCode (bits mode.toNat (4 * modeSlot t) 3)
  | .rne => .rne
  | .rtz => .rtz
  | .rdn => .rdn
  | .rup => .rup
  | .rna => .rna
  | .sto => .sto

/-- The saturate bit of a destination class (R144). -/
def saturates (mode : Word) (t : DType) : Bool := mode.getLsbD (4 * modeSlot t + 3)

/-- Mode bit 32: subnormal inputs read as zero (R193). -/
def flushesIn (mode : Word) : Bool := mode.getLsbD 32

/-- Mode bit 33: subnormal results become zero (R193). -/
def flushesOut (mode : Word) : Bool := mode.getLsbD 33

/-- The trap enables (R144). -/
def trapEnables (mode : Word) : Nat := bits mode.toNat 34 5

/-- The sticky flags (R144). -/
def stickyFlags (mode : Word) : Nat := bits mode.toNat 39 5

/-- The cause of the first enabled exception raised, in the order of R195. -/
def exceptionCause (mode : Word) (raised : Nat) : Option Nat :=
  let e := trapEnables mode &&& raised
  if e == 0 then none
  else if bitOf e 0 then some 0x04
  else if bitOf e 1 then some 0x05
  else if bitOf e 2 then some 0x06
  else if bitOf e 3 then some 0x07
  else some 0x08

/-- The mode register after the raised exceptions have set their sticky flags (R195). -/
def setSticky (mode : Word) (raised : Nat) : Word := mode ||| BitVec.ofNat 64 (raised % 32 * 2 ^ 39)

/-- A value that an `swr` of the mode register takes (R145). -/
def modeOk (v : Word) : Bool :=
  decide (v.toNat < 2 ^ 44) && (List.range 8).all fun i => decide (bits v.toNat (4 * i) 3 ≤ 5)

/-- A draw: rnd(key, counter, idx) (R189). -/
def draw (seed : Word) (idx : Nat) : Word :=
  let z0 := seed ^^^ (BitVec.ofNat 64 (idx + 1) * 0x9E3779B97F4A7C15#64)
  let z1 := (z0 ^^^ (z0 >>> 30)) * 0xBF58476D1CE4E5B9#64
  let z2 := (z1 ^^^ (z1 >>> 27)) * 0x94D049BB133111EB#64
  z2 ^^^ (z2 >>> 31)

/-- Bits [63:40] of the draw of an element (R187). -/
def drawBits (seed : Word) (idx : Nat) : Nat := (draw seed idx).toNat / 2 ^ 40

/-- The seed register after an instruction that drew: the counter advances by one modulo 2^32 (R189). -/
def advanceSeed (seed : Word) : Word :=
  BitVec.ofNat 64 (seed.toNat / 2 ^ 32 * 2 ^ 32 + (seed.toNat + 1) % 2 ^ 32)

end Sys2Proof.Machine
end

