-- ==== Sys2Proof/Machine/Floats.lean ====
section
/-! DEFINITION. Floating numbers as exact dyadics, rounded once (R182 to R187, R191 to R194, R196): the arithmetic of lanes,
conversions, atomics and the matrix engine. -/

namespace Sys2Proof.Machine

/-- A floating format (R182). -/
structure Fmt where
  width : Nat
  fbits : Nat
  bias : Nat
  e4m3 : Bool
  deriving DecidableEq, Repr

/-- The formats of R182; an integer type has none, and the entry for it is never used. -/
def fmtOf : DType → Fmt
  | .f64 => ⟨64, 52, 1023, false⟩
  | .f32 => ⟨32, 23, 127, false⟩
  | .f16 => ⟨16, 10, 15, false⟩
  | .bf16 => ⟨16, 7, 127, false⟩
  | .e4m3 => ⟨8, 3, 7, true⟩
  | .e5m2 => ⟨8, 2, 15, false⟩
  | _ => ⟨32, 23, 127, false⟩

/-- The bits of the largest finite value (R182). -/
def maxFinite (f : Fmt) : Nat :=
  if f.e4m3 then 0x7E else (2 ^ (f.width - 1 - f.fbits) - 1) * 2 ^ f.fbits - 1

/-- The bits of +∞ (R183); E4M3 has none. -/
def infBits (f : Fmt) : Nat := maxFinite f + 1

/-- The default NaN (R183). -/
def defaultNan (f : Fmt) : Nat := if f.e4m3 then 0x7F else infBits f + 2 ^ (f.fbits - 1)

/-- The sign bit at its place. -/
def signBit (f : Fmt) (neg : Bool) : Nat := if neg then 2 ^ (f.width - 1) else 0

/-- What a pattern of bits is: a NaN, an infinity, or (−1)^neg × man × 2^exp (R182, R183). -/
inductive FVal where
  | nan (signalling : Bool)
  | inf (neg : Bool)
  | num (neg : Bool) (man : Nat) (exp : Int)
  deriving DecidableEq, Repr

/-- The value of bits in a format (R182, R183). -/
def fdecode (f : Fmt) (b : Nat) : FVal :=
  let neg := bitOf b (f.width - 1)
  let m := b % 2 ^ (f.width - 1)
  let e := m / 2 ^ f.fbits
  let fr := m % 2 ^ f.fbits
  if maxFinite f < m then
    (if f.e4m3 then .nan false
     else if fr == 0 then .inf neg
     else .nan (!bitOf fr (f.fbits - 1)))
  else if e == 0 then .num neg fr (1 - (f.bias : Int) - f.fbits)
  else .num neg (fr + 2 ^ f.fbits) ((e : Int) - f.bias - f.fbits)

/-- The bits of a subnormal of a format: a zero exponent and a nonzero fraction (R182). -/
def isSubnormal (f : Fmt) (b : Nat) : Bool :=
  let m := b % 2 ^ (f.width - 1)
  m != 0 && decide (m < 2 ^ f.fbits)

/-- The value of an input, a subnormal read as zero under mode bit 32 (R193). -/
def finput (mode : Word) (f : Fmt) (b : Nat) : FVal :=
  if flushesIn mode && isSubnormal f b then .num (bitOf b (f.width - 1)) 0 0 else fdecode f b

/-- A result: its bits and the exceptions it raised. -/
structure FRes where
  bits : Nat
  ex : Nat
  deriving DecidableEq, Repr

/-- How a result is rounded: the rounding, saturation, flushing of results, and bits [63:40] of the draw (R186 to R193). -/
structure RndCtx where
  rnd : Rnd
  sat : Bool
  flush : Bool
  u : Nat
  deriving DecidableEq, Repr

/-- Round to nearest even without saturation or flushing, as the engines and atomics do (R163, R201). -/
def rneCtx : RndCtx := ⟨.rne, false, false, 0⟩

/-- Whether the bracket's larger value is chosen, for a magnitude `m` whose discarded part is `rem` of `2 ^ sh`, with more
below when `sticky` (R186, R187). -/
def roundsUp (c : RndCtx) (neg : Bool) (m rem sh : Nat) (sticky : Bool) : Bool :=
  let half := 2 ^ sh
  let inexact := rem != 0 || sticky
  match c.rnd with
  | .rne => decide (half < 2 * rem) || (2 * rem == half && (sticky || m % 2 == 1))
  | .rtz => false
  | .rdn => neg && inexact
  | .rup => !neg && inexact
  | .rna => decide (half ≤ 2 * rem)
  | .sto => decide (c.u < rem * 2 ^ 24 / 2 ^ sh)

/-- An overflowed result (R186, R191). -/
def overflowed (c : RndCtx) (f : Fmt) (neg : Bool) : FRes :=
  if c.sat then ⟨signBit f neg + maxFinite f, exOverflow + exInexact⟩
  else if f.e4m3 then ⟨defaultNan f, exOverflow + exInexact⟩
  else ⟨signBit f neg + infBits f, exOverflow + exInexact⟩

/-- The rounding never leaves the finite range: toward zero, or toward the other side of the result (R186). -/
def neverOverflows (r : Rnd) (neg : Bool) : Bool :=
  match r with
  | .rtz => true
  | .rdn => !neg
  | .rup => neg
  | _ => false

/-- The number of bits of a magnitude. -/
def bitLen (m : Nat) : Nat := if m == 0 then 0 else Nat.log2 m + 1

/-- A left shift by a nonnegative amount. -/
def shiftUp (m : Nat) (k : Int) : Nat := m * 2 ^ k.toNat

/-- The exact value (−1)^neg × (man + a little when `sticky`) × 2^exp rounded once to a format (R185 to R187, R191, R193,
R194). With `sticky`, `man` has at least 26 bits more than the format keeps. -/
def roundTo (c : RndCtx) (f : Fmt) (neg : Bool) (man : Nat) (exp : Int) (sticky : Bool) : FRes :=
  if man == 0 then ⟨signBit f neg, 0⟩
  else
    let e := exp + bitLen man - 1
    let emin : Int := 1 - (f.bias : Int)
    let q := (if e < emin then emin else e) - f.fbits
    let sh := (q - exp).toNat
    let m := if q ≤ exp then shiftUp man (exp - q) else man / 2 ^ sh
    let rem := if q ≤ exp then 0 else man % 2 ^ sh
    let m1 := if roundsUp c neg m rem sh sticky then m + 1 else m
    let b := ((q + f.fbits + f.bias).toNat * 2 ^ f.fbits + m1) - 2 ^ f.fbits
    let inexact := rem != 0 || sticky
    if maxFinite f < b then
      (if neverOverflows c.rnd neg then ⟨signBit f neg + maxFinite f, exInexact⟩ else overflowed c f neg)
    else if b != 0 && decide (b < 2 ^ f.fbits) then
      (if c.flush then ⟨signBit f neg, exUnderflow + exInexact⟩
       else ⟨signBit f neg + b, if inexact then exUnderflow + exInexact else 0⟩)
    else ⟨signBit f neg + b, if inexact then exInexact else 0⟩

/-- The default NaN of a format (R196). -/
def nanRes (f : Fmt) (ex : Nat) : FRes := ⟨defaultNan f, ex⟩

/-- An infinite result; in E4M3 it is the default NaN or ±448 (R191). -/
def infRes (c : RndCtx) (f : Fmt) (neg : Bool) (ex : Nat) : FRes :=
  if f.e4m3 then
    (if c.sat then ⟨signBit f neg + maxFinite f, ex ||| exOverflow ||| exInexact⟩ else ⟨defaultNan f, ex ||| exInvalid⟩)
  else ⟨signBit f neg + infBits f, ex⟩

/-- A signalling NaN raises invalid (R194). -/
def snan : FVal → Nat
  | .nan true => exInvalid
  | _ => 0

/-- The value with the other sign. -/
def fnegate : FVal → FVal
  | .nan q => .nan q
  | .inf n => .inf !n
  | .num n m e => .num (!n) m e

/-- A value that is a NaN. -/
def isNan : FVal → Bool
  | .nan _ => true
  | _ => false

/-- A value that is zero. -/
def isZero : FVal → Bool
  | .num _ m _ => m == 0
  | _ => false

/-- The exact sum of two finite terms as a sign, a magnitude and an exponent; an exact zero takes the sign that R213 gives. -/
def exactSum (rdn : Bool) (na : Bool) (ma : Nat) (ea : Int) (nb : Bool) (mb : Nat) (eb : Int) : Bool × Nat × Int :=
  let e := if ea < eb then ea else eb
  let a := shiftUp ma (ea - e)
  let b := shiftUp mb (eb - e)
  if na == nb then (na, a + b, e)
  else if b < a then (na, a - b, e)
  else if a < b then (nb, b - a, e)
  else (rdn, 0, e)

/-- A + B rounded once (R213). -/
def faddVal (c : RndCtx) (f : Fmt) (a b : FVal) : FRes :=
  let ex := snan a ||| snan b
  match a, b with
  | .nan _, _ => nanRes f ex
  | _, .nan _ => nanRes f ex
  | .inf x, .inf y => if x == y then infRes c f x ex else nanRes f exInvalid
  | .inf x, _ => infRes c f x ex
  | _, .inf y => infRes c f y ex
  | .num na ma ea, .num nb mb eb =>
    let r := exactSum (c.rnd == .rdn) na ma ea nb mb eb
    roundTo c f r.1 r.2.1 r.2.2 false

/-- A × B rounded once (R213). -/
def fmulVal (c : RndCtx) (f : Fmt) (a b : FVal) : FRes :=
  let ex := snan a ||| snan b
  match a, b with
  | .nan _, _ => nanRes f ex
  | _, .nan _ => nanRes f ex
  | .inf x, .inf y => infRes c f (x != y) ex
  | .inf x, .num y m _ => if m == 0 then nanRes f exInvalid else infRes c f (x != y) ex
  | .num x m _, .inf y => if m == 0 then nanRes f exInvalid else infRes c f (x != y) ex
  | .num na ma ea, .num nb mb eb => roundTo c f (na != nb) (ma * mb) (ea + eb) false

/-- The product of two values is invalid: 0 × ∞ (R194). -/
def mulInvalid (a b : FVal) : Bool :=
  match a, b with
  | .inf _, .num _ m _ => m == 0
  | .num _ m _, .inf _ => m == 0
  | _, _ => false

/-- A × B + C rounded once (R185, R213). -/
def fmaVal (c : RndCtx) (f : Fmt) (a b z : FVal) : FRes :=
  let ex := snan a ||| snan b ||| snan z ||| (if mulInvalid a b then exInvalid else 0)
  if isNan a || isNan b || isNan z || mulInvalid a b then nanRes f ex
  else
    match a, b, z with
    | .num na ma ea, .num nb mb eb, .num nz mz ez =>
      let r := exactSum (c.rnd == .rdn) (na != nb) (ma * mb) (ea + eb) nz mz ez
      roundTo c f r.1 r.2.1 r.2.2 false
    | .num .., .num .., .inf n => infRes c f n ex
    | _, _, _ =>
      let n := (match a with | .inf x => x | .num x _ _ => x | .nan _ => false) !=
               (match b with | .inf x => x | .num x _ _ => x | .nan _ => false)
      match z with
      | .inf y => if n == y then infRes c f n ex else nanRes f (ex ||| exInvalid)
      | _ => infRes c f n ex

/-- A ÷ B rounded once (R197, R213). -/
def fdivVal (c : RndCtx) (f : Fmt) (a b : FVal) : FRes :=
  let ex := snan a ||| snan b
  match a, b with
  | .nan _, _ => nanRes f ex
  | _, .nan _ => nanRes f ex
  | .inf _, .inf _ => nanRes f exInvalid
  | .inf x, .num y _ _ => infRes c f (x != y) ex
  | .num x _ _, .inf y => ⟨signBit f (x != y), ex⟩
  | .num x ma ea, .num y mb eb =>
    if mb == 0 then (if ma == 0 then nanRes f exInvalid else infRes c f (x != y) exDivZero)
    else if ma == 0 then ⟨signBit f (x != y), 0⟩
    else
      let k := bitLen mb + f.fbits + 64
      roundTo c f (x != y) (ma * 2 ^ k / mb) (ea - eb - k) (ma * 2 ^ k % mb != 0)

/-- One step of the square root's digits, `k` digits left: the root so far and the remainder's square. -/
def isqrtGo (v : Nat) : Nat → Nat → Nat
  | 0, r => r
  | k + 1, r =>
    let t := r + 2 ^ k
    isqrtGo v k (if t * t ≤ v then t else r)

/-- The integer square root. -/
def isqrt (v : Nat) : Nat := isqrtGo v (bitLen v / 2 + 1) 0

/-- √A rounded once (R197, R213). -/
def fsqrtVal (c : RndCtx) (f : Fmt) (a : FVal) : FRes :=
  match a with
  | .nan q => nanRes f (if q then exInvalid else 0)
  | .inf n => if n then nanRes f exInvalid else infRes c f false 0
  | .num n m e =>
    if m == 0 then ⟨signBit f n, 0⟩
    else if n then nanRes f exInvalid
    else
      let odd := e % 2 != 0
      let m1 := if odd then 2 * m else m
      let e1 := if odd then e - 1 else e
      let k := f.fbits + 64
      let v := m1 * 2 ^ (2 * k)
      let r := isqrt v
      roundTo c f false r (e1 / 2 - k) (r * r != v)

/-- 1 ÷ √A rounded to nearest (R197, R198). -/
def frsqVal (c : RndCtx) (f : Fmt) (a : FVal) : FRes :=
  match a with
  | .nan q => nanRes f (if q then exInvalid else 0)
  | .inf n => if n then nanRes f exInvalid else ⟨0, 0⟩
  | .num n m e =>
    if m == 0 then infRes c f n exDivZero
    else if n then nanRes f exInvalid
    else
      let odd := e % 2 != 0
      let m1 := if odd then 2 * m else m
      let e1 := if odd then e - 1 else e
      let k := bitLen m1 + f.fbits + 64
      let v := 2 ^ (2 * k) / m1
      let r := isqrt v
      roundTo { c with rnd := .rne } f false r (0 - e1 / 2 - k) (r * r * m1 != 2 ^ (2 * k))

/-- A magnitude rounded to an integer: the integer and whether it differs (R186, R192). -/
def roundInt (c : RndCtx) (neg : Bool) (man : Nat) (exp : Int) : Nat × Bool :=
  if 0 ≤ exp then (shiftUp man exp, false)
  else
    let sh := (0 - exp).toNat
    let m := man / 2 ^ sh
    let rem := man % 2 ^ sh
    (if roundsUp c neg m rem sh false then m + 1 else m, rem != 0)

/-- A rounded to an integral value of its format, its sign kept (R213). -/
def frndVal (c : RndCtx) (f : Fmt) (a : FVal) : FRes :=
  match a with
  | .nan q => nanRes f (if q then exInvalid else 0)
  | .inf n => infRes c f n 0
  | .num n m e =>
    let r := roundInt c n m e
    let x := roundTo c f n r.1 0 false
    ⟨x.bits, x.ex ||| (if r.2 then exInexact else 0)⟩

/-- The order of two finite or infinite values: −1, 0 or 1, with −0 equal to +0. -/
def fcompare (a b : FVal) : Int :=
  let key (v : FVal) : Int × Int :=
    match v with
    | .inf n => (if n then -1 else 1, 0)
    | _ => (0, 0)
  let ka := (key a).1
  let kb := (key b).1
  if ka != kb then (if ka < kb then -1 else 1)
  else
    match a, b with
    | .num na ma ea, .num nb mb eb =>
      let e := if ea < eb then ea else eb
      let x : Int := if na then -(shiftUp ma (ea - e) : Int) else shiftUp ma (ea - e)
      let y : Int := if nb then -(shiftUp mb (eb - e) : Int) else shiftUp mb (eb - e)
      if x < y then -1 else if y < x then 1 else 0
    | _, _ => 0

/-- A finite or infinite value's sign. -/
def fneg : FVal → Bool
  | .nan _ => false
  | .inf n => n
  | .num n _ _ => n

/-- A stands below B, −0 below +0 (R215). -/
def fbelow (a b : FVal) : Bool :=
  let o := fcompare a b
  o == -1 || (o == 0 && fneg a && !fneg b)

/-- A subnormal result flushed under mode bit 33 (R193). -/
def flushRes (c : RndCtx) (f : Fmt) (b ex : Nat) : FRes :=
  if c.flush && isSubnormal f b then ⟨signBit f (bitOf b (f.width - 1)), ex ||| exUnderflow ||| exInexact⟩ else ⟨b, ex⟩

/-- The bits that an input's value has: those given, or a zero of its sign if it was flushed (R193, R215). -/
def inputBits (mode : Word) (f : Fmt) (b : Nat) : Nat :=
  if flushesIn mode && isSubnormal f b then signBit f (bitOf b (f.width - 1)) else b

/-- The minimum or maximum of two elements; `strict` delivers a NaN for any NaN operand (R215). -/
def fminmax (mode : Word) (c : RndCtx) (f : Fmt) (isMax strict : Bool) (a b : Nat) : FRes :=
  let x := finput mode f a
  let y := finput mode f b
  let ex := snan x ||| snan y
  if isNan x && isNan y then nanRes f ex
  else if isNan x || isNan y then
    (if strict then nanRes f ex else flushRes c f (inputBits mode f (if isNan x then b else a)) ex)
  else flushRes c f (inputBits mode f (if fbelow x y != isMax then a else b)) ex

/-- A floating value converted to a format (R191, R218). -/
def fconvert (c : RndCtx) (f : Fmt) (a : FVal) : FRes :=
  match a with
  | .nan q => nanRes f (if q then exInvalid else 0)
  | .inf n => infRes c f n 0
  | .num n m e => roundTo c f n m e false

/-- An integer clamped to a range. -/
def clampInt (lo hi v : Int) : Int := if v < lo then lo else if hi < v then hi else v

/-- The least and the largest value of an integer type (R184). -/
def intMin (t : DType) : Int := if dtypeSigned t then -(2 ^ (dtypeWidth t - 1) : Int) else 0
def intMax (t : DType) : Int := if dtypeSigned t then 2 ^ (dtypeWidth t - 1) - 1 else 2 ^ dtypeWidth t - 1

/-- The bits of an integer modulo 2^w. -/
def intBits (w : Nat) (v : Int) : Nat := (v % (2 ^ w : Int)).toNat

/-- The integer that an element's bits stand for (R184). -/
def intOf (t : DType) (b : Nat) : Int :=
  let w := dtypeWidth t
  if dtypeSigned t && bitOf b (w - 1) then (b % 2 ^ w : Nat) - (2 ^ w : Int) else (b % 2 ^ w : Nat)

/-- A floating value converted to an integer type (R192). -/
def ftoInt (c : RndCtx) (t : DType) (a : FVal) : FRes :=
  match a with
  | .nan _ => ⟨0, exInvalid⟩
  | .inf n => ⟨intBits (dtypeWidth t) (if n then intMin t else intMax t), exInvalid⟩
  | .num n m e =>
    let r := roundInt c n m e
    let v : Int := if n then -(r.1 : Int) else r.1
    let k := clampInt (intMin t) (intMax t) v
    ⟨intBits (dtypeWidth t) k, if k != v then exInvalid else if r.2 then exInexact else 0⟩

/-- An integer converted to a format (R192). -/
def intToF (c : RndCtx) (f : Fmt) (v : Int) : FRes := roundTo c f (decide (v < 0)) v.natAbs 0 false

/-- binary32 and binary64 addition of atomics: nearest even, no flag (R163, R204). -/
def faddBits (f : Fmt) (a b : Nat) : Nat := (faddVal rneCtx f (fdecode f a) (fdecode f b)).bits

end Sys2Proof.Machine
end

