-- ==== Sys2Proof/Machine/State.lean ====
section
/-! DEFINITION. The state of one ZK8-768 package as plain data, the reasons a step can stop, and the state after reset. -/

namespace Sys2Proof.Machine

/-- Bytes by place. A place is a physical address of local HBM (R264), a byte of host memory at `hostBase` and above, or a byte of
a peer package's HBM, as this device's own units find it, at `peerBase` and above (DESIGN CHOICE, entry 54). An unlisted byte
reads 0 (DESIGN CHOICE, entry 1). -/
abbrev Memory := List Host.Cell

/-- The place of byte 0 of host memory; local HBM lies below 768 GiB (R264, R265 target 2). -/
def hostBase : Nat := 0x1000000000000000

/-- The place of byte 0 of package 0's HBM as this device's own units find it (R330). DESIGN CHOICE (entry 54). -/
def peerBase : Nat := 0x2000000000000000

/-- The place of a byte of a peer package's HBM for this device's own units and for the load caches (R330). DESIGN CHOICE (entry
54). -/
def peerPlace (pkg addr : Nat) : Nat := peerBase + pkg * 0x100000000000000 + addr

/-- Where a byte that a group, copy or engine names lies (R260): a place of memory, a window byte of a cohort's scratch
(R261), a byte of a vector register or a tile of a group (R262), or a byte of a peer package's HBM (R330). -/
inductive Loc where
  | mem (place : Nat)
  | scratch (cohort : Nat) (offset : Nat)
  | vreg (gid : Nat) (byte : Nat)
  | tile (gid : Nat) (byte : Nat)
  | peer (pkg : Nat) (addr : Nat)
  deriving DecidableEq, Repr

/-- The state of a vector register (R136). -/
inductive VState where
  | never | live | dead
  deriving DecidableEq, Repr

/-- A vector register: its state and its lanes from lane 0 on; lanes not listed read zero (R129, R136). -/
structure VReg where
  st : VState
  lanes : List Word32
  deriving DecidableEq, Repr

/-- A permutation register: the items below its size, and whether its route solve is running (R250, R257). -/
structure Perm where
  size : Nat
  items : List Nat
  solving : Bool
  deriving DecidableEq, Repr

/-- An entry of the lane queue (R99, R132): the first lane word's number, the word count, the words done, the snapshot of
the scalar registers, the scalar PC of its `lrun`, and the scalar instructions retired since (R371). -/
structure LaneBlock where
  first : Nat
  count : Nat
  done : Nat
  snap : Sparse 64
  pc : Word
  skid : Nat
  deriving DecidableEq, Repr

/-- An access entry of a fault body (R33); `note` is its first reserved byte (R271). -/
structure AccessEntry where
  addr : Word
  lane : Nat
  kind : Nat
  size : Nat
  cause : Nat
  note : Nat
  deriving DecidableEq, Repr

/-- The pending faults of a group: at most eight entries, and the count of further ones (R280); `keys` holds for each entry
the order number of its access in the program, by which a failure that a peer reports late finds its place (DESIGN CHOICE, entry
55). Of the further ones `refused` counts the refusals, and `instrs` of these the instructions, which a trap's detail tells apart
(R31). -/
structure Pending where
  entries : List AccessEntry
  further : Nat
  keys : List Nat
  refused : Nat
  instrs : Nat
  deriving DecidableEq, Repr

/-- The six matrix settings (R233). -/
structure MatrixSet where
  typeA : Nat
  typeB : Nat
  baseA : Word
  strideA : Word
  baseB : Word
  strideB : Word
  grp : Nat
  param : Word
  tileD : Nat
  acc : Bool
  tileP : Nat
  mcFirst : Nat
  mcLast : Nat
  mcOps : Nat
  deriving DecidableEq, Repr

/-- The copy settings (R285). -/
structure CopySet where
  rowBytes : Nat
  rows : Nat
  srcStride : Word
  dstStride : Word
  doneAddr : Word
  doneValue : Word
  permMode : Nat
  permReg : Nat
  deriving DecidableEq, Repr

/-- How far a matrix command has come (R243, R244). -/
inductive CmdState where
  | queued | started | completed | faulted | cancelled
  deriving DecidableEq, Repr

/-- A matrix command (R239, R240): its id, whether it is `xm.sca`, its snapshot, predecessors and batch, and, once started,
the operand rows that it has read so far and the entries of those that it could not read (R236). -/
structure Command where
  id : Nat
  scale : Bool
  set : MatrixSet
  preds : List Nat
  batch : Nat
  st : CmdState
  rows : List (List Byte)
  faults : List AccessEntry
  deriving DecidableEq, Repr

/-- How far a copy has come (R290, R291); `aborted` is a copy recorded by `xo.stop` (R384). -/
inductive CopyState where
  | issued | started | finished | faulted | aborted
  deriving DecidableEq, Repr

/-- A copy (R287, R288): its number and batch, its snapshot and register, its addresses, the fill value if it has no
source, where it was issued, whether `exit` waits for it (R171), the bytes written, whether its completion word is on the way
to a peer, and the fault that stopped it. -/
structure Copy where
  num : Nat
  batch : Nat
  set : CopySet
  perm : Perm
  src : Word
  dst : Word
  fill : Option Word
  die : Nat
  core : Nat
  own : Bool
  st : CopyState
  bytes : Nat
  word : Bool
  fault : Option AccessEntry
  deriving DecidableEq, Repr

/-- A byte of scratch that a copy of a group has written, with the byte before it: until a `bwait` covers the copy's batch, a
matrix operand row may see either (R236). -/
structure CopyTrace where
  num : Nat
  batch : Nat
  cohort : Nat
  off : Nat
  old : Byte
  deriving DecidableEq, Repr

/-- Where a group stands: bound in a slot, on the return list, waiting without a slot, saved after a trap, or ended (R86,
R93, R373, R386). -/
inductive GStatus where
  | bound (die core slot : Nat)
  | ready
  | waiting
  | trapped
  | ended
  deriving DecidableEq, Repr

/-- What an instruction that does not retire waits for (R93, R170, R169, R176, R341, R342, R384); `woken` is a
watched line that has been written, and `done` a wait that is over, so that the instruction retires when it runs
again. -/
inductive Wait where
  | none
  | word (line : Loc)
  | woken
  | bar (id : Nat)
  | launch
  | crel (ticket : Nat)
  | cacq (seq : Nat)
  | cbar (ticket : Nat)
  | stop (part : Nat)
  | done (value : Word)
  deriving DecidableEq, Repr

/-- What becomes of the body of a trapped group (R373, R374): none, waiting for the buffer, written and with the handler. -/
inductive BodyState where
  | none | waiting | handling
  deriving DecidableEq, Repr

/-- An outstanding or answered access to a peer package (R330, R335, R336): its position in the stream (R333), the bytes asked
for, the stamp of a load (R341), the count of stores that a stream release carries and their positions (R316), the number of
the copy it is made for (0: the group itself), and, once the reply is there, whether it succeeded and its data. DESIGN CHOICE
(entry 4). The count of retired instructions of its stream tells the instruction that made it, and `redone` that this
instruction makes it anew, so that the answer goes to no one. -/
structure PeerAccess where
  ticket : Nat
  pos : Nat
  pkg : Nat
  addr : Nat
  size : Nat
  op : AccessOp
  data : List Byte
  comparand : List Byte
  stamp : Nat
  release : Option Nat
  cover : List Nat
  copy : Nat
  entry : AccessEntry
  reply : Option (Bool × List Byte)
  instr : Word
  redone : Bool
  deriving DecidableEq, Repr

/-- A watchpoint at the home controller (R271): its index, kind, virtual base, place and length. -/
structure Watch where
  index : Nat
  kind : Nat
  va : Word
  place : Nat
  len : Nat
  deriving DecidableEq, Repr

/-- A region: the copy of its control block taken at activation (R44, R46), its charges (R48), its counters (R386), its
watchpoints, the places of its counter area (R53) and its activation number (R391). -/
structure Region where
  part : Nat
  id : Nat
  addr : Word
  parent : Option Nat
  flags : Nat
  prio : Nat
  opDefault : Nat
  dieMask : Nat
  slotCap : Nat
  parkCap : Nat
  scratchCap : Nat
  tileCap : Nat
  handler : Word
  bodyBuf : Word
  counterArea : Word
  consent : Word
  counterPlace : Nat
  active : Bool
  activations : Nat
  counters : Sparse 64
  slots : Nat
  parked : Nat
  scratch : Nat
  tiles : Nat
  mismatchSent : Bool
  authWritten : Bool
  watch : List Watch
  demand : Sparse 32
  deriving DecidableEq, Repr

/-- A task record and the regions of its chain, its own first, as the device has latched them for a launch that waits for a free
entry (R65, R70). -/
structure Latch where
  record : List Byte
  regions : List Region
  deriving DecidableEq, Repr

/-- A group: what it is, where it stands, and the whole of its context (R129, R369). `dirty` marks the vector registers that
have been written since the image held them (R138, R377); `rotating` that its rotation has been asked for and waits for its
commands (R259); `boundAt` is the model's clock at its last bind (R377); `stores` lists the stores to peers that no release or
message covers yet, by target and position (R316, R317); `seen` is the order number at which its release at .fab began to wait
for the stores before it (0: it does not wait; R310); `fenced` when its last instruction was `fence.mem.pkg`, so that a store
that follows is a release (R167, R316); `wraps` tells which of its numbers have wrapped: bit 0 of commands, 1 of their
batches, 2 of copies, 3 of their batches (R178, R179, R243, R290); `latch` is what its `launch` has latched while it waits for
a free entry (R65, R70); `traces` the bytes of scratch that its copies have written and no `bwait` has covered, the latest first
(R236). -/
structure Group where
  gid : Nat
  part : Nat
  auth : Nat
  task : Nat
  region : Nat
  index : Nat
  ix : Nat
  iy : Nat
  iz : Nat
  lanes : Nat
  vcount : Nat
  tcount : Nat
  die : Nat
  cohort : Nat
  status : GStatus
  level : Nat
  quantum : Nat
  bindSeq : Nat
  boundAt : Nat
  readySeq : Nat
  wait : Wait
  image : Option Nat
  saved : Bool
  pc : Word
  scalars : Sparse 64
  mode : Word
  seed : Word
  pinned : Word
  retiredS : Word
  retiredL : Word
  stamp : Nat
  live : BitVec 96
  queue : List LaneBlock
  vregs : List VReg
  perms : List Perm
  tiles : List (Sparse 32)
  pend : Pending
  mset : MatrixSet
  cset : CopySet
  cmds : List Command
  nextCmd : Nat
  cmdBatch : Nat
  copies : List Copy
  nextCopy : Nat
  copyBatch : Nat
  prov : Sparse 64
  chooseS : Nat
  chooseM : Nat
  chooseX : Nat
  body : List Byte
  bodyState : BodyState
  ordinal : Nat
  serves : Option Nat
  peers : List PeerAccess
  stores : List (Nat × Nat)
  seen : Nat
  fenced : Bool
  dirty : BitVec 128
  rotating : Bool
  wraps : Nat
  latch : Option Latch
  traces : List CopyTrace
  deriving DecidableEq, Repr

/-- A cohort (R59, R169): its partition, task and die, its frames in granule order, the contents of its window, and for
each barrier the count of the current generation and its arrivals (the group ids). -/
structure Cohort where
  id : Nat
  part : Nat
  task : Nat
  die : Nat
  size : Nat
  frames : List Nat
  bytes : Sparse 8
  barCount : Sparse 64
  barArrived : List (Nat × Nat)
  deriving DecidableEq, Repr

/-- A launch offered and not yet accepted or refused (R65, R70): its ticket, its partition, the record's address, and the
held or plain host request (function, queue, chain head, status buffer, hold), and what the device has latched while the launch
waits for a free entry (R70). -/
structure Offer where
  ticket : Nat
  part : Nat
  record : Word
  fn : Nat
  queue : Nat
  head : Nat
  status : Nat
  hold : Bool
  latch : Option Latch
  deriving DecidableEq, Repr

/-- How far a task has come (R71). -/
inductive TStatus where
  | waiting | fired | completed | failed | cancelled
  deriving DecidableEq, Repr

/-- A task: its handle and its latched record (R55), its predecessors still in flight, its firing die, the groups handed
out and ended (R73, R75), those discarded with the die of their cohort (R75, R80), the held request of a host launch (R68), the dies
on which a group of it has been bound, those on which its floor holds (R74), and of each group that has exited its core and the
model's clock at its bind and at its exit (R377). -/
structure Task where
  part : Nat
  handle : Nat
  region : Nat
  entry : Word
  laneBase : Word
  gx : Nat
  gy : Nat
  gz : Nat
  lanes : Nat
  vcount : Nat
  tcount : Nat
  restartable : Bool
  dieMask : Nat
  hint : Nat
  prio : Nat
  scratch : Nat
  ranges : List (Nat × Nat)
  doneAddr : Word
  doneValue : Word
  arg : Word
  preds : List Nat
  status : TStatus
  firing : Nat
  fireSeq : Nat
  next : Nat
  redo : List (Nat × Nat)
  ended : List Nat
  faulted : Bool
  held : Option Offer
  handler : Bool
  serves : Nat
  onDies : List Nat
  floors : List Nat
  spans : List (Nat × Nat × Nat)
  deriving DecidableEq, Repr

/-- The states of a partition (R24). -/
inductive PState where
  | free | created | owned | sealing | staged | resetting | scrubbing
  deriving DecidableEq, Repr

/-- A notice ring (R43): its base, its entries, the producer index, the lost count, and whether a notice was lost since
the last entry (R32). -/
structure Ring where
  base : Nat
  entries : Nat
  produced : Nat
  lost : Nat
  gap : Bool
  deriving DecidableEq, Repr

/-- A registered remote memory region (R407): its key, the places and lengths of its pieces, its base and length, its rights. -/
structure MemRegion where
  key : Nat
  pieces : List (Nat × Nat)
  base : Nat
  len : Nat
  rights : Nat
  deriving DecidableEq, Repr

/-- A body without a trapped group, not yet written (R271, R171): its partition, its region, its ordinal, its bytes, and whether
its writing fires a handler, as that of a watchpoint does (R171, R374). -/
structure LooseBody where
  part : Nat
  region : Nat
  ordinal : Nat
  bytes : List Byte
  fires : Bool
  deriving DecidableEq, Repr

/-- A partition's slot in the security block and what belongs to the partition: its secret, key and digest (R24, R27), its
envelope ring, root region and audit grant (R41), its context store (R369), its functions (R39), its mailbox's command and AER
count (R39), its translation roots, and whether its command that sets one waits for the invalidation (R266), its envelope
ordinal (R30), its session with the consent's sequence and uses (R36, R37), the objects sealed or installed in it with their
rounds, and of these the images and the queue state that wait for the commit (R29, R37), its stop with the contexts numbered
(R384), the pages whose dirty bits are clear (R381), the leases that its reset took (R34), and its remote memory regions and
the keys issued (R407). -/
structure Part where
  id : Nat
  st : PState
  secret : BitVec 256
  ownerKey : List Byte
  keyDigest : BitVec 256
  ring : Option Ring
  root : Word
  auditFn : Option Nat
  storeBase : Nat
  storeLen : Nat
  storePages : List Nat
  mailbox : Nat
  launchFn : Nat
  busy : Bool
  command : Nat
  unsupported : Nat
  stage1 : Nat
  stage2 : Nat
  rootBusy : Bool
  ordinal : Nat
  session : Word
  seqHigh : Nat
  usesLeft : Nat
  objects : List (Nat × Nat × Nat)
  images : List (Nat × List Byte)
  queueState : List Byte
  stopped : Bool
  stopping : Bool
  contexts : List Nat
  clean : List Nat
  leaseBack : List (Nat × Word)
  regions : List MemRegion
  issued : List Nat
  deriving DecidableEq, Repr

/-- A cached translation of one page (R263, R268): the die that holds it (8 for the units of the I/O dies), its partition,
virtual page base, guest-physical base, size, target place or peer, and rights. Kept by die (DESIGN CHOICE, entry 9). -/
structure TlbEntry where
  die : Nat
  part : Nat
  va : Nat
  gpa : Nat
  size : Nat
  target : Nat
  pkg : Nat
  base : Nat
  read : Bool
  write : Bool
  exec : Bool
  deriving DecidableEq, Repr

/-- A line of a core's load cache (R263): data or code, the place of the line, its nonzero bytes by offset, and, for a line that has
been asked of a peer and is not here yet, the ticket of the request. -/
structure CacheLine where
  die : Nat
  core : Nat
  code : Bool
  line : Nat
  bytes : Sparse 8
  asked : Option Nat
  deriving DecidableEq, Repr

/-- A page being zeroed on the fresh path (R267): its place and size, its partition, and the stage-2 entry that names it. -/
structure ZeroJob where
  base : Nat
  size : Nat
  part : Nat
  entry : Nat
  deriving DecidableEq, Repr

/-- An invalidation not yet acknowledged (R268): its ticket, which is also its Creamline message's, the partition whose
stage 2 translates its completion word (none: physical), that word and its value, the partition, the stage and the range
whose entries go (length 0: all), whether it is that of a root write, which concerns this package alone and has no word (R266),
whether they have gone here, the peer accesses through such entries that were on the way then,
and the packages that have acknowledged it. -/
structure InvalJob where
  ticket : Nat
  owner : Option Nat
  addr : Nat
  value : Word
  part : Nat
  stage : Nat
  base : Nat
  len : Nat
  root : Bool
  applied : Bool
  tickets : List Nat
  acks : List Nat
  asker : Nat
  deriving DecidableEq, Repr

/-- A parked tile or tile pair (R249). -/
structure ParkEntry where
  handle : Nat
  part : Nat
  region : Nat
  tiles : List (Sparse 32)
  deriving DecidableEq, Repr

/-- A virtqueue of a launch function (R66 to R69): its bases and, from the writes of the bases on, the places of the pages on
which each ring lies (R67); `signalled` is the used index at the last `xh.notify` (R409). PRESUMED from VIRTIO (entry 7). -/
structure VQueue where
  index : Nat
  size : Nat
  vector : Nat
  enabled : Bool
  broken : Bool
  desc : Nat
  driver : Nat
  device : Nat
  descAt : List (Option Nat)
  driverAt : List (Option Nat)
  deviceAt : List (Option Nat)
  lastAvail : Nat
  usedIdx : Nat
  signalled : Nat
  stopped : Bool
  deriving DecidableEq, Repr

/-- A launch function, or the physical function of an I/O die (R66, R69, R408): its partition, the registers of its common
configuration, its ISR status, its error record, the accesses that got an error response, and its queues. The common
configuration and the ISR status are PRESUMED from VIRTIO (entry 7). -/
structure LaunchFn where
  fn : Nat
  part : Nat
  status : Nat
  select : Nat
  devSelect : Nat
  drvSelect : Nat
  features : Nat
  configVector : Nat
  isr : Nat
  errQueue : Nat
  errCause : Nat
  errValue : Nat
  errSeen : Bool
  unsupported : Nat
  queues : List VQueue
  deriving DecidableEq, Repr

/-- An audit function (R16, R391): its selection, its ring base and ring, its error responses. -/
structure AuditFn where
  fn : Nat
  select : Word
  ringBase : Word
  ring : Option Ring
  unsupported : Nat
  deriving DecidableEq, Repr

/-- A lease write that has not taken effect (R25, R26, R34): its die, its value, the groups still to be saved, and the
partition whose reset made it. The first job of a die is carried out, the others wait. -/
structure LeaseJob where
  die : Nat
  value : Word
  waitFor : List Nat
  owner : Option Nat
  deriving DecidableEq, Repr

/-- A pre-emption request on one die (R376 to R379): the groups it affects there, whether it has arrived, whether they are
draining, the groups being saved, and its outcome bits. -/
structure PreDie where
  die : Nat
  arrived : Bool
  draining : List Nat
  saving : List Nat
  cohorts : List Nat
  drained : Bool
  saved : Bool
  discarded : Bool
  replaceFailed : Bool
  deriving DecidableEq, Repr

/-- A pre-emption request (R376): the die whose registers it came through, its value and filter, and the dies it covers. -/
structure PreReq where
  id : Nat
  die : Nat
  value : Word
  filter : Nat
  dies : List PreDie
  deriving DecidableEq, Repr

/-- A seal request accepted by `xo.seal` or `xo.ctx` (R383). -/
structure SealJob where
  ticket : Nat
  part : Nat
  kind : Nat
  round : Nat
  object : Nat
  dest : Nat
  word : Nat
  value : Word
  deriving DecidableEq, Repr

/-- One replica entry of a version's record (R351). -/
structure Replica where
  base : Nat
  pages : Nat
  die : Nat
  deriving DecidableEq, Repr

/-- A range of an arena in use (R352): its die, its first byte, its length. -/
structure ArenaUse where
  die : Nat
  base : Nat
  len : Nat
  deriving DecidableEq, Repr

/-- A switch in progress (R356, R359): its step (1 copy, 2 verify, 4 publish), the new records by expert, the ranges taken, the
new replicas and the retirements (expert and replica), the experts whose copy or frame write failed, and, once it is
published, the dies that its version notice has not reached. -/
structure Switch where
  step : Nat
  records : List (List Replica)
  taken : List ArenaUse
  gained : List (Nat × Replica)
  retired : List (Nat × Replica)
  failed : List Nat
  notices : List Nat
  deriving DecidableEq, Repr

/-- A forwarding record (R358). -/
structure Forward where
  expert : Nat
  replica : Replica
  version : Nat
  next : Nat
  deriving DecidableEq, Repr

/-- A gradient submission (R360), with the region of its group. -/
structure Grad where
  region : Nat
  version : Nat
  expert : Nat
  replica : Nat
  addr : Nat
  count : Nat
  dest : Nat
  word : Nat
  value : Word
  deriving DecidableEq, Repr

/-- A registered expert table (R350 to R360): its partition, its area and the places of the area's pages, its sizes, its
arenas by die, the current version, the versions in the frames with their records by expert, the version that each die knows,
the heat by die × 4096 + expert in this window and in the last, the arena ranges in use, the switch, the forwarding records,
the submissions pending, and the replicas that have submitted (version, expert, replica). -/
structure Table where
  part : Nat
  area : Nat
  pages : List Nat
  experts : Nat
  rowBytes : Nat
  slots : Nat
  arenas : List (Nat × Nat)
  version : Nat
  versions : List (Nat × List (List Replica))
  dieVersion : Sparse 32
  heat : Sparse 32
  lastHeat : Sparse 32
  uses : List ArenaUse
  switch : Option Switch
  forwards : List Forward
  grads : List Grad
  submitted : List (Nat × Nat × Nat)
  deriving DecidableEq, Repr

/-- A send request of a queue pair that waits for its peer, as it was sent (R405, R406). DESIGN CHOICE (entry 8). -/
structure RdmaWork where
  opcode : Nat
  signal : Bool
  wrid : Nat
  local_ : Nat
  len : Nat
  imm : Nat
  key : Nat
  remote : Nat
  data : List Byte
  deriving DecidableEq, Repr

/-- A queue pair (R402 to R406): its number, its partition and peer, its queues as the places and lengths of their pieces with
their entries, its indices, whether it is in error, the requests outstanding, oldest first, whether these are all to be flushed, the
resends of the oldest, and the send rate that the last congestion notification left. -/
structure QueuePair where
  q : Nat
  part : Nat
  mtu : Nat
  gid : List Byte
  remoteQp : Nat
  sendPsn : Nat
  recvPsn : Nat
  sendAt : List (Nat × Nat)
  sendEntries : Nat
  recvAt : List (Nat × Nat)
  recvEntries : Nat
  cqAt : List (Nat × Nat)
  cqEntries : Nat
  sendProd : Nat
  recvProd : Nat
  sendIdx : Nat
  recvIdx : Nat
  cqIdx : Nat
  cqCons : Nat
  error : Bool
  work : List RdmaWork
  flushing : Bool
  resends : Nat
  rate : Option Nat
  deriving DecidableEq, Repr

/-- A link to one peer (R329, R331 to R333, R335, R412): live fibres with their dark wavelengths, the relay, the send
allowances that it has granted to each partition here and those granted to it, dropped replies, the last position given in the
outbound stream, and of the inbound stream whether its drain marker is awaited, the requests held, and the positions arrived: all
up to `arrivedTo`, and those of `arrived` beyond. -/
structure Link where
  peer : Nat
  outDown : List Nat
  inDown : List Nat
  outLost : List (Nat × Nat)
  inLost : List (Nat × Nat)
  relay : Option Nat
  allowance : Sparse 32
  granted : Sparse 32
  dropped : Nat
  lastPos : Nat
  marker : Bool
  held : List PeerRequest
  arrivedTo : Nat
  arrived : List Nat
  parking : Word
  deriving DecidableEq, Repr

/-- A Creamline barrier of a partition (R342): its count, its arrivals, and the groups here that wait for its generation. -/
structure Barrier where
  part : Nat
  id : Nat
  count : Nat
  arrived : Nat
  joined : List Nat
  deriving DecidableEq, Repr

/-- The fabric and the Creamline (R317, R329 to R342): this package's number and group, its links, the live packages, the
ladle and the frames sent in this visit, its holder, the queue of own messages, the frame on the medium, the next sequence,
the first sequence not yet acknowledged by all, the messages received and not yet applied, the last one applied, the sequence
given to each own message, the last reply to a peer, the functions torn down (package and partition), the functions in other
packages (R336), the streams between two other packages that have failed (R333), the barriers (R342), the sequence of the latest
kind-4 message by partition (R359), and the requests of functions torn down here whose replies are still to come, each with its
peer (R336). -/
structure Fabric where
  pkg : Nat
  size : Nat
  groupId : Word
  links : List Link
  livePkgs : List Nat
  ladle : Bool
  visit : Nat
  holder : Nat
  queue : List (Nat × CreamMsg)
  flight : Option Frame
  nextSeq : Nat
  confirmed : Nat
  received : List (Nat × CreamMsg)
  applied : Nat
  sent : List (Nat × Nat)
  reply : Bool × List Byte
  tornDown : List (Nat × Nat)
  functions : List (Nat × Nat)
  farDown : List (Nat × Nat)
  barriers : List Barrier
  kind4 : Sparse 64
  late : List (Nat × Nat)
  deriving DecidableEq, Repr

/-- The operating points of the dies (R410, R411) and the floor waits of R74. -/
structure Power where
  reg : Sparse 64
  floorWait : List (Nat × Nat)
  energy : List (Nat × Nat × Nat)
  off : Bool
  deriving DecidableEq, Repr

/-- Boot and identity (R413 to R416): the flash record, the Ethernet base address that boot took from it (R402), the measurement,
whether boot has ended or stopped. -/
structure Boot where
  flash : Sparse 8
  ethernet : BitVec 48
  measure : BitVec 256
  booted : Bool
  failed : Bool
  deriving DecidableEq, Repr

/-- What the schedule may name next. DESIGN CHOICE (entry 2). -/
inductive Act where
  /-- A step of the hardware or of an outside party. -/
  | event (i : Instr)
  /-- An issue from a slot's scalar or lane stream (R90). -/
  | issue (die core slot : Nat) (lane : Bool)
  /-- A core's load cache drops a line (R263, R417). -/
  | dropLine (die core line : Nat)
  /-- An uncorrectable error of a line of SRAM or HBM comes or goes (R263). -/
  | lineError (line : Loc) (bad : Bool)
  /-- A dirty register line of a group is taken and written to its context image (R138). -/
  | writeBack (gid reg : Nat)
  /-- A management core's own access to physical memory, as an agent of partition 0 (R79). -/
  | management (op : AccessOp) (addr size : Nat) (data : List Byte)
  /-- What a peer's HBM holds where a unit of this device accesses it, and whether the peer refuses such accesses to a page
  (R330, entry 54). -/
  | peerMemory (pkg addr : Nat) (bytes : List Byte)
  | peerPage (pkg addr : Nat) (refused : Bool)
  /-- A partition has a fabric function in another package, or has none any more (R336). -/
  | peerFunction (pkg part : Nat) (present : Bool)
  /-- The stream between two other packages fails or lives again (R333). -/
  | farStream (source target : Nat) (up : Bool)
  /-- This package grants send allowances to a partition of a peer (R335). -/
  | grantAllowance (peer part units : Nat)
  /-- An auditor reads its function's window (R16, R391). -/
  | auditRead (fn offset size : Nat)
  /-- A driver reads the ISR status of a launch function, which clears it (R66). -/
  | isrRead (fn : Nat)
  /-- The operator names the audit grant of partition 0 (R16). -/
  | auditGrant (fn : Option Nat)
  /-- The operator's tool writes the flash of the configuration record (R413). -/
  | flashWrite (offset : Nat) (bytes : List Byte)
  /-- The module is powered off and on: everything but the flash is as after reset (R411, R413). -/
  | restart
  deriving DecidableEq, Repr

/-- The package. -/
structure State where
  /-- HBM and host memory (R264). -/
  mem : Memory
  /-- The page ownership table by 64 KiB page: bit 7 valid, bits [5:0] the partition (R18). -/
  owners : Sparse 8
  /-- The groups that have been bound and have not been forgotten (R369). -/
  groups : List Group
  /-- The group whose instruction is executed. The model's own field (DESIGN CHOICE, entry 2). -/
  cur : Nat
  /-- The next group id, cohort id and ticket, and the order counter of binds and of the return lists. The model's own
  field (DESIGN CHOICE, entry 2). -/
  nextId : Nat
  /-- The cohorts (R59). -/
  cohorts : List Cohort
  /-- By die × 4096 + frame: one more than the partition whose cohort vacated the frame last (R262). -/
  vacated : Sparse 8
  /-- The dependency tables (R70). -/
  tasks : List Task
  /-- The entry counter of each die (R70). -/
  entryNext : Sparse 28
  /-- Active and torn-down regions (R46, R391). -/
  regions : List Region
  /-- The partitions that are not FREE (R24). -/
  parts : List Part
  /-- The stage-2 roots of partitions that are FREE (R266). -/
  freeRoots : Sparse 64
  /-- Committed bind records by slot (R81, R82). -/
  records : Sparse 128
  /-- Staged high dwords by slot (R83). -/
  staged : Sparse 64
  /-- By slot: one more than the partition of the last group it held (R262). -/
  lastHeld : Sparse 8
  /-- The lease registers (R25) and lease writes in progress (R26). -/
  lease : Sparse 64
  leaseJobs : List LeaseJob
  /-- Pre-emption registers 0x820, 0x821 and 0x822 by die (R376), and requests in progress. -/
  pre820 : Sparse 64
  pre821 : Sparse 64
  pre822 : Sparse 64
  preempts : List PreReq
  /-- Cached translations (R268) and load caches (R263). -/
  tlb : List TlbEntry
  cache : List CacheLine
  zeroing : List ZeroJob
  /-- The lines with an uncorrectable error (R263, entry 53). -/
  badLines : List Loc
  /-- The pages of peers, by package and page, that refuse accesses of this device's units (R330, entry 54). -/
  refusedPeers : List (Nat × Nat)
  invals : List InvalJob
  /-- The park store (R249). -/
  parks : List ParkEntry
  /-- Launches offered by hosts (R65). -/
  offers : List Offer
  /-- Launch functions and the two physical functions (R66, R408), audit functions (R16). -/
  launchFns : List LaunchFn
  auditFns : List AuditFn
  /-- Bodies of watchpoint hits and of copies of ended groups that wait for their buffer (R271, R171). -/
  bodies : List LooseBody
  /-- The operator's envelope and demand rings on I/O dies 8 and 9 (R32, R80). -/
  ring8 : Option Ring
  ring9 : Option Ring
  demand8 : Option Ring
  demand9 : Option Ring
  /-- The activation notices sent to the management cores, latest first (R54): region, partition, effective slot, park,
  scratch and tile budgets, priority, die mask and operating-point default. -/
  notices : List (List Nat)
  /-- The command blocks that the management cores have submitted and that are not carried out yet, the current one first: the
  command interface is busy while there is one (R42). -/
  cmdHeld : List Nat
  /-- Seal requests in progress (R383). -/
  seals : List SealJob
  /-- The Churn's tables (R350) and the operator's settings by partition (R354). -/
  tables : List Table
  churn0 : Sparse 64
  churn1 : Sparse 64
  /-- Queue pairs (R403). -/
  qps : List QueuePair
  fabric : Fabric
  power : Power
  boot : Boot
  /-- The data that the last read of a host agent or of an RDMA peer was given (R66, R314, R402). The model's own field (DESIGN
  CHOICE, entry 3). -/
  hostRead : List Byte
  /-- What the schedule names next, the model's own clock, and whose turn it is when the schedule names nothing. The
  model's own fields (DESIGN CHOICE, entries 2 and 14). -/
  agenda : List Act
  clock : Nat
  enginesTurn : Bool
  lastIssue : Sparse 64
  deriving DecidableEq, Repr

/-- Why the machine stops. -/
inductive Fault where
  /-- Raised by the step while the module is without power (R411). Safe: nothing runs on hardware without power. -/
  | poweredOff
  /-- Raised by a group instruction when no group is there to execute it. Safe: no hardware executes an instruction that
  no group has reached. -/
  | noGroup
  deriving DecidableEq, Repr

/-- Why the model gives an instruction no meaning. -/
inductive Refusal where
  /-- Raised by the dispatch for an instruction not yet modelled. Safe: nothing is claimed of it. -/
  | notModelled (mnemonic : String)
  deriving DecidableEq, Repr

/-- The fabric after reset: a package that stands alone until boot reads its configuration record (R329, R413). The values
before boot are a DESIGN CHOICE (entry 15). -/
def Fabric.reset : Fabric :=
  { pkg := 0, size := 1, groupId := 0, links := [], livePkgs := [0], ladle := true, visit := 0, holder := 0, queue := [],
    flight := none, nextSeq := 1, confirmed := 1, received := [], applied := 0, sent := [], reply := (true, []), tornDown := [],
    functions := [], farDown := [], barriers := [], kind4 := [], late := [] }

/-- The operating-point registers after reset: cap 15, default 15, current 15, stable (R411). -/
def Power.reset : Power :=
  { reg := [(0, 0x1FFF), (1, 0x1FFF), (2, 0x1FFF), (3, 0x1FFF), (4, 0x1FFF), (5, 0x1FFF), (6, 0x1FFF), (7, 0x1FFF)],
    floorWait := [], energy := [], off := false }

/-- Boot state after reset: the measurement starts at 32 zero bytes (R415). The flash holds zeros (DESIGN CHOICE, entry
15). -/
def Boot.reset : Boot := { flash := [], ethernet := 0, measure := 0, booted := false, failed := false }

/-- The lease registers after reset: partition 0 alone on every die (R25). -/
def leaseReset : Sparse 64 := [(0, 1), (1, 1), (2, 1), (3, 1), (4, 1), (5, 1), (6, 1), (7, 1)]

/-- A partition's slot with nothing set; 0xFFFF names no function (R24, R39). The numbers of no function are the model's
(DEDUCED, entry 52). -/
def Part.empty (id : Nat) (st : PState) : Part :=
  { id := id, st := st, secret := 0, ownerKey := [], keyDigest := 0, ring := none, root := 0, auditFn := none,
    storeBase := 0, storeLen := 0, storePages := [], mailbox := 0xFFFF, launchFn := 0xFFFF, busy := false, command := 0,
    unsupported := 0, stage1 := 0, stage2 := 0, rootBusy := false, ordinal := 0, session := 0, seqHigh := 0, usesLeft := 0, objects := [],
    images := [], queueState := [], stopped := false, stopping := false, contexts := [], clean := [], leaseBack := [],
    regions := [], issued := [] }

/-- Partition 0, the operator's service partition, which always exists (R13). Its secret is zero (DESIGN CHOICE, entry 15). -/
def Part.operator : Part := Part.empty 0 .owned

/-- The package right after reset: every register at the reset value of its own table, every table empty, memory with
nothing listed. No page is tagged, and each die's entry counter of R70 starts at 0 (DESIGN CHOICE, entry 15). -/
def State.reset : State :=
  { mem := [], owners := [], groups := [], cur := 0, nextId := 1, cohorts := [], vacated := [], tasks := [],
    entryNext := [], regions := [], parts := [Part.operator], freeRoots := [], records := [], staged := [], lastHeld := [],
    lease := leaseReset, leaseJobs := [], pre820 := [], pre821 := [], pre822 := [], preempts := [], tlb := [],
    cache := [], zeroing := [], badLines := [], refusedPeers := [], invals := [], parks := [], offers := [], launchFns := [], auditFns := [],
    bodies := [], ring8 := none, ring9 := none, demand8 := none, demand9 := none, notices := [], cmdHeld := [],
    seals := [], tables := [], churn0 := [], churn1 := [], qps := [], fabric := Fabric.reset, power := Power.reset,
    boot := Boot.reset, hostRead := [], agenda := [], clock := 0, enginesTurn := false, lastIssue := [] }

end Sys2Proof.Machine
end

