-- ==== Sys2Proof/Machine/Access.lean ====
section
/-! DEFINITION. Where an address leads and what an access does there: the address map (R260), the two-stage translation
(R265 to R267), page ownership (R18), scratch and the on-chip map (R261, R262), load caches (R263), the watchers, the
watchpoints and the dirty bits that a write meets (R170, R271, R381), and the rings of notices (R43). -/

namespace Sys2Proof.Machine

/-- Memory is in canonical form: addresses rise strictly, and no listed byte is zero, which is what an unlisted address reads as.
DESIGN CHOICE (entry 1). -/
def Memory.wf (m : Memory) : Bool := Sparse.wf m

/-! ### Looking things up -/

/-- The group with this number. -/
def group? (s : State) (gid : Nat) : Option Group := s.groups.find? fun g => g.gid == gid

/-- The state with a group's record replaced. -/
def putGroup (s : State) (g : Group) : State :=
  { s with groups := s.groups.map fun x => if x.gid == g.gid then g else x }

/-- The state with a function applied to a group's record. -/
def modGroup (s : State) (gid : Nat) (f : Group → Group) : State :=
  { s with groups := s.groups.map fun x => if x.gid == gid then f x else x }

/-- The partition with this number, if it is not FREE (R24). -/
def part? (s : State) (p : Nat) : Option Part := s.parts.find? fun x => x.id == p

/-- The state with a partition's record replaced. -/
def putPart (s : State) (p : Part) : State :=
  { s with parts := s.parts.map fun x => if x.id == p.id then p else x }

/-- The active region with this id in a partition (R46). -/
def region? (s : State) (part id : Nat) : Option Region :=
  s.regions.find? fun r => r.active && r.part == part && r.id == id

/-- The state with an active region's record changed. -/
def modRegion (s : State) (part id : Nat) (f : Region → Region) : State :=
  { s with regions := s.regions.map fun r => if r.active && r.part == part && r.id == id then f r else r }

/-- The task with this handle in a partition (R70). -/
def task? (s : State) (part handle : Nat) : Option Task :=
  s.tasks.find? fun t => t.part == part && t.handle == handle

/-- The state with a task's record replaced. -/
def putTask (s : State) (t : Task) : State :=
  { s with tasks := s.tasks.map fun x => if x.part == t.part && x.handle == t.handle then t else x }

/-- The cohort with this number (R59). -/
def cohort? (s : State) (id : Nat) : Option Cohort := s.cohorts.find? fun c => c.id == id

/-- The state with a cohort's record changed. -/
def modCohort (s : State) (id : Nat) (f : Cohort → Cohort) : State :=
  { s with cohorts := s.cohorts.map fun c => if c.id == id then f c else c }

/-- The number of a slot of the package. -/
def slotIx (die core slot : Nat) : Nat := (die * 192 + core) * 16 + slot

/-- The group bound in a slot. -/
def groupIn (s : State) (die core slot : Nat) : Option Group :=
  s.groups.find? fun g => g.status == .bound die core slot

/-- The regions from `id` up the tree, the region itself first, at most `n` of them (R45). -/
def ancestry (s : State) (part : Nat) : Nat → Nat → List Region
  | 0, _ => []
  | n + 1, id =>
    match region? s part id with
    | none => []
    | some r =>
      r :: (match r.parent with
            | none => []
            | some p => ancestry s part n p)

/-- A region and its ancestors. -/
def chain (s : State) (part id : Nat) : List Region := ancestry s part 8 id

/-- The flag bits of a region control block (R44). -/
def regionFlag (r : Region) (bit : Nat) : Bool := bitOf r.flags bit

/-- The effective value of a field: the own value of the nearest region whose inherit bit is clear (R47). -/
def effective (rs : List Region) (bit : Nat) (f : Region → Nat) : Nat :=
  match rs.find? fun r => !regionFlag r bit with
  | some r => f r
  | none => 0

/-- The effective die mask: the AND of the own masks from here to the root (R47). -/
def effectiveDies (rs : List Region) : Nat :=
  rs.foldr (fun r m => if regionFlag r 4 then m else r.dieMask &&& m) 0xFF

/-- The fault domain of a region: the nearest with flag bit 0, else the root (R52). -/
def faultDomain (rs : List Region) : Option Region :=
  match rs.find? fun r => regionFlag r 0 with
  | some r => some r
  | none => rs.getLast?

/-- The effective restartable bit: of the region or of any ancestor (R61). -/
def restartable (rs : List Region) : Bool := rs.any fun r => regionFlag r 1

/-! ### Envelopes -/

/-- The place fields of an envelope (R418). -/
structure EnvPlace where
  part : Nat
  die : Nat
  core : Nat
  slot : Nat
  region : Nat
  task : Nat
  deriving DecidableEq, Repr

/-- The place of an event that names none (R418). -/
def noPlace (part region task : Nat) : EnvPlace := ⟨part, 0xFF, 0xFFFF, 0xFF, region, task⟩

/-- The first byte of the 128-byte line of a place (R263). -/
def lineOf (l : Loc) : Loc :=
  match l with
  | .mem p => .mem (alignDown p 128)
  | .scratch c o => .scratch c (alignDown o 128)
  | .vreg g o => .vreg g (alignDown o 128)
  | .tile g o => .tile g (alignDown o 128)
  | .peer k a => .peer k (alignDown a 128)

/-- The line of a place has an uncorrectable error (R263). DESIGN CHOICE (entry 53). -/
def lineBad (s : State) (l : Loc) : Bool := s.badLines.contains (lineOf l)

/-- Bytes of local HBM: 768 GiB (R264). -/
def hbmSize : Nat := 0xC000000000

/-- The home die of a physical address (R264). -/
def homeDie (pa : Nat) : Nat := pa / 0x1800000000

/-- The tag of the page of a physical address names this partition and is valid (R18). -/
def pageOwned (s : State) (part pa : Nat) : Bool :=
  decide (pa < hbmSize) && Sparse.get s.owners (pa / 0x10000) == BitVec.ofNat 8 (0x80 + part)

/-- The partition that governs a page: its tag's, or partition 0 when the tag is not valid (R21). -/
def pageGovernor (s : State) (pa : Nat) : Nat :=
  let t := (Sparse.get s.owners (pa / 0x10000)).toNat
  if t < 128 then 0 else t % 64

/-- The envelope place of a page of HBM (R418). -/
def pagePlace (s : State) (pa : Nat) : EnvPlace := ⟨pageGovernor s pa, homeDie pa, 0xFFFF, 0xFF, 0, 0⟩

/-- The zeroing of the page that holds this address, if it is under way (R267). -/
def zeroJobOf (s : State) (pa : Nat) : Option ZeroJob :=
  s.zeroing.find? fun j => decide (j.base ≤ pa) && decide (pa < j.base + j.size)

/-- A page that is being zeroed holds this address (R267). -/
def beingZeroed (s : State) (pa : Nat) : Bool := (zeroJobOf s pa).isSome

/-- Pages of HBM given to a partition, or taken from all: `tag` is what their entries of the ownership table become (R18). -/
def tagPages (s : State) (base size : Nat) (tag : Byte) : State :=
  { s with owners := Sparse.setRange s.owners (base / 0x10000) (List.replicate (size / 0x10000) tag) }

/-- The groups that watch a line of memory which a write of `n` bytes touches are marked as woken (R170). -/
def wakeMem (s : State) (place n : Nat) : State :=
  { s with groups := s.groups.map fun g =>
      match g.wait with
      | .word (.mem p) => if 0 < n ∧ p < place + n ∧ place < p + 128 then { g with wait := .woken } else g
      | _ => g }

/-- A range of HBM zeroed, in memory and in every load cache, as its watchers see it (R35, R170, R267). -/
def zeroRange (s : State) (base size : Nat) : State :=
  wakeMem { s with
    mem := Sparse.clearRange s.mem base size
    cache := s.cache.filter fun c => decide (c.line < base) || decide (base + size ≤ c.line) } base size

/-- A fresh page is zero, belongs to its partition, and its entry is no longer fresh (R267). -/
def zeroDone (s : State) (j : ZeroJob) : State :=
  let s1 := tagPages (zeroRange s j.base j.size) j.base j.size (BitVec.ofNat 8 (0x80 + j.part))
  let e := Sparse.readLE s1.mem j.entry 8
  wakeMem { s1 with
    zeroing := s1.zeroing.filter fun x => x.base != j.base
    mem := Sparse.setRange s1.mem j.entry (natToBytes 8 (e - bits e 5 1 * 32)) } j.entry 8

/-- The state in which the page that holds an address is not being zeroed any more (R267). -/
def finishPage (s : State) (pa : Nat) : State :=
  match zeroJobOf s pa with
  | some j => zeroDone s j
  | none => s

/-- Some line of `n` bytes of memory has an uncorrectable error (R263). -/
def rangeBad (s : State) (place n : Nat) : Bool :=
  s.badLines.any fun l =>
    match l with
    | .mem p => decide (p < place + n) && decide (place < p + 128)
    | _ => false

/-! ### Paths to peers -/

/-- The number of point-to-point fibres toward each peer, per direction (R329). -/
def fibresPerPeer (s : State) : Nat := Nat.min 8 (60 / (s.fabric.size - 1))

/-- A fibre toward the peer is live (R331, R332). -/
def outLive (s : State) (l : Link) : Bool := decide (l.outDown.length < fibresPerPeer s)

/-- A fibre from the peer is live (R331, R332). -/
def inLive (s : State) (l : Link) : Bool := decide (l.inDown.length < fibresPerPeer s)

/-- A live path leads from a peer to this package: both are in the group, and there are the direct fibres, or a relay with live
streams from the peer and to here (R331 to R333, R340). -/
def inboundLive (s : State) (l : Link) : Bool :=
  s.fabric.livePkgs.contains s.fabric.pkg && s.fabric.livePkgs.contains l.peer &&
    (inLive s l || s.fabric.links.any fun c =>
      c.peer != l.peer && s.fabric.livePkgs.contains c.peer && inLive s c && !s.fabric.farDown.contains (l.peer, c.peer))

/-- A live path leads to a peer and back: the direct fibres or a relay in each direction (R331 to R333). -/
def pathLive (s : State) (l : Link) : Bool := (outLive s l || l.relay.isSome) && inboundLive s l

/-- A partition's accesses reach a peer package: a path leads there and back, and its function there is not torn down (R331 to
R333, R336). -/
def reachable (s : State) (pkg part : Nat) : Bool :=
  !s.fabric.tornDown.contains (pkg, part) && s.fabric.links.any fun l => l.peer == pkg && pathLive s l

/-! ### Translation -/

/-- What a read of a table entry gives: its value; a failure, with the place that an envelope names if it is a refusal (R21);
or a page that has to be zeroed first (R267). -/
inductive TableRead where
  | val (e : Nat)
  | fail (cause : Nat) (gov : Option EnvPlace)
  | zero (job : ZeroJob)
  deriving DecidableEq, Repr

/-- What a walk gives: a leaf, the place of its entry and its level's shift; a failure; a page to be zeroed. -/
inductive WalkResult where
  | leaf (e at_ shift : Nat)
  | fail (cause : Nat) (gov : Option EnvPlace)
  | zero (job : ZeroJob)
  deriving DecidableEq, Repr

/-- The shift and the index bits of the four levels (R265). -/
def walkLevels : List (Nat × Nat) := [(39, 13), (30, 9), (21, 9), (16, 5)]

/-- The size of the table that a pointer at this level names: 4 KiB, or 256 bytes at the last level (R265). -/
def nextTableSize (shift : Nat) : Nat := if shift == 21 then 256 else 4096

/-- A table entry is valid and holds zero wherever R265 requires it; `two` for stage 2. -/
def entryOk (two : Bool) (shift e : Nat) : Bool :=
  bitOf e 0 && bits e 56 4 == 0 &&
    (if bitOf e 1 then
      shift != 39 && bits e 8 4 == 0 && bits e 12 44 * 4096 % 2 ^ shift == 0 &&
        (if two then bits e 6 2 != 3 && (bits e 60 4 == 0 || bits e 6 2 == 1)
         else bits e 5 3 == 0 && bits e 60 4 == 0)
     else shift != 16 && bits e 2 6 == 0 && bits e 60 4 == 0 && bits e 8 48 * 256 % nextTableSize shift == 0)

/-- A walk from a level-0 table (R265); `bad` is the cause of an entry that breaks the format. -/
def walk (rd : Nat → TableRead) (two : Bool) (bad va : Nat) : Nat → List (Nat × Nat) → WalkResult
  | _, [] => .fail bad none
  | table, (shift, n) :: rest =>
    let a := table + 8 * bits va shift n
    match rd a with
    | .fail c gov => .fail c gov
    | .zero j => .zero j
    | .val e =>
      if entryOk two shift e then
        (if bitOf e 1 then .leaf e a shift else walk rd two bad va (bits e 8 48 * 256) rest)
      else .fail bad none

/-- A translated stage-2 page: target (0 local, 1 peer, 2 host), package, page base, size and rights (R265). -/
structure Page2 where
  target : Nat
  pkg : Nat
  base : Nat
  size : Nat
  read : Bool
  write : Bool
  exec : Bool
  deriving DecidableEq, Repr

/-- What stage 2 gives for a guest-physical address. -/
inductive Stage2 where
  | ok (p : Page2)
  | fail (cause : Nat)
  | zero (job : ZeroJob)
  deriving DecidableEq, Repr

/-- A stage-2 table entry, read at its physical address (R265, R266). No tag is looked at (DEDUCED, entry 20). -/
def readEntry2 (s : State) (a : Nat) : TableRead :=
  if hbmSize < a + 8 then .fail 0x11 none
  else if lineBad s (.mem a) then .fail 0x12 none
  else .val (Sparse.readLE s.mem a 8)

/-- Stage 2: guest-physical to physical (R265, R266, R267). -/
def stage2 (s : State) (p : Part) (gpa : Nat) : Stage2 :=
  if p.stage2 == 0 || decide (2 ^ 52 ≤ gpa) then .fail 0x11
  else
    match walk (readEntry2 s) true 0x11 gpa p.stage2 walkLevels with
    | .fail c _ => .fail c
    | .zero j => .zero j
    | .leaf e a shift =>
      let base := bits e 12 44 * 4096
      let target := bits e 6 2
      if target == 0 && decide (hbmSize < base + 2 ^ shift) then .fail 0x11
      else if target == 0 && bitOf e 5 then .zero ⟨base, 2 ^ shift, p.id, a⟩
      else .ok ⟨target, bits e 60 4, base, 2 ^ shift, bitOf e 2, bitOf e 3, bitOf e 4⟩

/-- A path leads to a peer for a partition's accesses, and the peer takes those of this device's units to the page (R330). DESIGN
CHOICE (entry 54). -/
def peerTakes (s : State) (pkg part addr : Nat) : Except Nat Nat :=
  if !reachable s pkg part then .error 0x15
  else if s.refusedPeers.contains (pkg, addr / 0x10000) then .error 0x13
  else .ok (peerPlace pkg addr)

/-- No page of a partition is readable while it is being reset (R34). That a read then fails with 0x12 is DEDUCED (entry 43). -/
def readBarred (s : State) (part : Nat) : Bool := s.parts.any fun p => p.id == part && p.st == .resetting

/-- The place that a stage-2 page gives for an address, for the device's own reads and writes: local HBM of the partition, host
memory, or a peer's HBM (R18, R39, R330). A fresh page has no place before it is zeroed (R267). -/
def placeOf2 (s : State) (p : Part) (gpa : Nat) (write : Bool) : Except Nat Nat :=
  match stage2 s p gpa with
  | .fail c => .error c
  | .zero _ => .error 0x11
  | .ok pg =>
    let a := pg.base + gpa % pg.size
    if (if write then !pg.write else !pg.read || readBarred s p.id) then .error 0x12
    else if pg.target == 2 then .ok (hostBase + a)
    else if pg.target == 1 then peerTakes s pg.pkg p.id a
    else if beingZeroed s a then .error 0x11
    else if !pageOwned s p.id a then .error 0x13
    else .ok a

/-- A place that an earlier translation gave, accessed again by a unit of this device: its page must still be the partition's
(R18). -/
def keptPlace (s : State) (part place : Nat) : Except Nat Nat :=
  if readBarred s part then .error 0x12
  else if place < hbmSize then (if pageOwned s part place then .ok place else .error 0x13)
  else if place < peerBase then .ok place
  else peerTakes s ((place - peerBase) / 0x100000000000000) part ((place - peerBase) % 0x100000000000000)

/-- A stage-1 table entry, read at its guest-physical address through stage 2 (R265). It takes the read right of stage 2
and the tag (DEDUCED, entry 20). -/
def readEntry1 (s : State) (p : Part) (gpa : Nat) : TableRead :=
  match stage2 s p gpa with
  | .zero j => .zero j
  | .fail c => .fail c none
  | .ok pg =>
    let a := pg.base + gpa % pg.size
    match (if pg.target == 0 then zeroJobOf s a else none), placeOf2 s p gpa false with
    | some j, _ => .zero j
    | none, .error c => .fail c (if c == 0x13 && pg.target == 0 then some (pagePlace s a) else none)
    | none, .ok place => if rangeBad s place 8 then .fail 0x12 none else .val (Sparse.readLE s.mem place 8)

/-- What the two stages give for a virtual address. -/
inductive Xlat where
  | ok (e : TlbEntry)
  | fail (cause : Nat) (gov : Option EnvPlace)
  | zero (job : ZeroJob)
  deriving DecidableEq, Repr

/-- The two-stage walk (R265). The entry it gives covers the smaller of the two pages. -/
def walkBoth (s : State) (p : Part) (die va : Nat) : Xlat :=
  if p.stage1 == 0 then .fail 0x10 none
  else
    match walk (readEntry1 s p) false 0x10 va p.stage1 walkLevels with
    | .fail c gov => .fail c gov
    | .zero j => .zero j
    | .leaf e _ shift =>
      let gpa := bits e 12 44 * 4096 + va % 2 ^ shift
      match stage2 s p gpa with
      | .fail c => .fail c none
      | .zero j => .zero j
      | .ok pg =>
        let size := Nat.min (2 ^ shift) pg.size
        .ok { die := die, part := p.id, va := alignDown va size, gpa := alignDown gpa size, size := size, target := pg.target,
              pkg := pg.pkg, base := pg.base + alignDown (gpa % pg.size) size, read := bitOf e 2 && pg.read,
              write := bitOf e 3 && pg.write, exec := bitOf e 4 && pg.exec }

/-- A translation of an address that a die has cached (R268). -/
def tlbFind (s : State) (die part va : Nat) : Option TlbEntry :=
  s.tlb.find? fun e => e.die == die && e.part == part && decide (e.va ≤ va) && decide (va < e.va + e.size)

/-- The translation of an address: a cached one, or the walk's (R265, R268). -/
def translate (s : State) (die part va : Nat) : Xlat :=
  match tlbFind s die part va with
  | some e => .ok e
  | none =>
    match part? s part with
    | none => .fail 0x10 none
    | some p => walkBoth s p die va

/-- The state with a translation cached (R268). DESIGN CHOICE (entry 9). -/
def tlbAdd (s : State) (e : TlbEntry) : State := if s.tlb.contains e then s else { s with tlb := e :: s.tlb }

/-- The state with the zeroing of a fresh page begun, once for each page (R267, R272). -/
def zeroBegin (s : State) (j : ZeroJob) : State :=
  if s.zeroing.any (fun x => x.base == j.base) then s else { s with zeroing := s.zeroing ++ [j] }

/-- The state in which no page that a unit's access meets at an address is fresh: the access waits for the zeroing, which is over
here at once, since when it ends is open (R267, R417). DESIGN CHOICE (entry 54). -/
def readyVa : Nat → State → Nat → Nat → Nat → State
  | 0, s, _, _, _ => s
  | n + 1, s, die, part, va =>
    match translate s die part va with
    | .fail _ _ => s
    | .zero j => readyVa n (zeroDone s j) die part va
    | .ok e => if e.target == 0 then finishPage s (e.base + (va - e.va)) else s

/-- The same for a guest-physical address (R267). DESIGN CHOICE (entry 54). -/
def pageReady (s : State) (p : Part) (gpa : Nat) : State :=
  match stage2 s p gpa with
  | .fail _ => s
  | .zero j => zeroDone s j
  | .ok pg => if pg.target == 0 then finishPage s (pg.base + gpa % pg.size) else s

/-- The same for the pages of a guest-physical range (R267). DESIGN CHOICE (entry 54). -/
def pagesReady (s : State) (p : Part) (gpa len : Nat) : State :=
  (List.range ((gpa + len - 1) / 0x10000 + 1 - gpa / 0x10000)).foldl
    (fun s k => pageReady s p (gpa / 0x10000 * 0x10000 + k * 0x10000)) s

/-! ### The address map -/

/-- What an access is for, which decides the right it needs (R98, R265); `home` is a load that is made at home, past the load cache
(R170). -/
inductive Acc where
  | load | store | atomic | exec | home
  deriving DecidableEq, Repr

/-- Who makes an access (R23): the partition it serves, whether a unit of this device makes it for itself and not for a group, the
group's cohort, and the die and core where it is made. -/
structure Agent where
  part : Nat
  unit : Bool
  cohort : Nat
  die : Nat
  core : Nat
  deriving DecidableEq, Repr

/-- A unit of this device that works for a partition, with the translations of die 0. -/
def partUnit (part : Nat) : Agent := ⟨part, true, 0, 0, 0⟩

/-- Where an address leads: a place, a failure with the place that an envelope names if it is a refusal (R21), or a wait
for the zeroing of a fresh page. -/
inductive Res where
  | ok (l : Loc)
  | fail (cause : Nat) (gov : Option EnvPlace)
  | wait
  deriving DecidableEq, Repr

/-- The right that an access needs (R265). -/
def rightOk (e : TlbEntry) : Acc → Bool
  | .load | .home => e.read
  | .store => e.write
  | .atomic => e.read && e.write
  | .exec => e.exec

/-- The place of a counter area that is not there: no place of memory. DESIGN CHOICE (entry 56). -/
def noCounters : Nat := 0x8000000000000000

/-- The active region whose counter area holds a place (R53). -/
def counterAreaOf (s : State) (place : Nat) : Option Region :=
  s.regions.find? fun r => r.active && decide (r.counterPlace ≤ place) && decide (place < r.counterPlace + 2048)

/-- The place lies in the counter area of an active region, which no group may write (R53). -/
def inCounterArea (s : State) (place : Nat) : Bool := (counterAreaOf s place).isSome

/-- The envelope place of counters (R418). -/
def countersPlace (part : Nat) : EnvPlace := ⟨part, 0xFF, 0xFFFF, 0xFF, 0, 0⟩

/-- The place lies in the area of a registered expert table, which no group may write (R351). -/
def inTableArea (s : State) (place : Nat) : Bool :=
  s.tables.any fun t => t.pages.contains (alignDown place 0x10000)

/-- A line of a core's load cache of data or code (R263). -/
def cacheFind (s : State) (die core : Nat) (code : Bool) (place : Nat) : Option CacheLine :=
  s.cache.find? fun c => c.die == die && c.core == core && c.code == code && c.line == alignDown place 128 && c.asked.isNone

/-- The place by which a load cache knows an address of a peer's HBM as a partition reads it: the lines of one partition serve no
other, since the peer checks each access against its page's tag (R18, R330). -/
def peerKey (part pkg a : Nat) : Nat := part * 0x4000000000000000 + peerPlace pkg a

/-- An access of a peer's HBM: a unit of this device finds it at its place, and a group asks the peer (R330). DESIGN CHOICE (entry
54). -/
def resolvePeer (s : State) (ag : Agent) (pkg a : Nat) : Res :=
  if ag.unit then
    match peerTakes s pkg ag.part a with
    | .ok place => .ok (.mem place)
    | .error c => .fail c none
  else .ok (.peer pkg a)

/-- An access of translated memory, its translation given (R18, R21, R53, R260, R265, R351). Rights come before the tag (DEDUCED,
entry 26). -/
def resolveEntry (s : State) (ag : Agent) (e : TlbEntry) (x : Nat) (acc : Acc) : Res :=
  let a := e.base + (x - e.va)
  if !rightOk e acc || (acc != .store && readBarred s ag.part) then .fail 0x12 none
  else if e.target == 1 then resolvePeer s ag e.pkg a
  else if e.target == 2 then .ok (.mem (hostBase + a))
  else if beingZeroed s a then .wait
  else if !pageOwned s ag.part a then .fail 0x13 (some (pagePlace s a))
  else if (acc == .store || acc == .atomic) && !ag.unit && inCounterArea s a then .fail 0x12 (some (countersPlace ag.part))
  else if (acc == .store || acc == .atomic) && !ag.unit && inTableArea s a then .fail 0x12 none
  else .ok (.mem a)

/-- The core of a window byte and its offset in that core's SRAM (R261); `f` is the frame of the byte's granule. -/
def windowPlace (f o : Nat) : Nat × Nat :=
  let c := f * 24576 + o % 24576
  let l := c / 128
  (l % 192, l / 192 * 128 + c % 128)

/-- The scratch window (R260, R261). -/
def resolveWindow (s : State) (ag : Agent) (o : Nat) : Res :=
  match cohort? s ag.cohort with
  | none => .fail 0x16 none
  | some c => if o < c.size then .ok (.scratch c.id o) else .fail 0x16 none

/-- Kind 0 of the on-chip map: the byte of the cohort that holds the SRAM line (R261, R262 step 2). -/
def resolveSram (s : State) (ag : Agent) (die core off : Nat) : Res :=
  let f := off / 128
  match s.cohorts.find? fun c => c.die == die && c.frames.contains f with
  | some c =>
    if c.part == ag.part then .ok (.scratch c.id (c.frames.idxOf f * 24576 + core * 128 + off % 128))
    else .fail 0x13 (some ⟨c.part, die, core, 0, 0, 0⟩)
  | none =>
    let v := (Sparse.get s.vacated (die * 4096 + f)).toNat
    if v == ag.part + 1 then .fail 0x17 none else .fail 0x13 (some ⟨v - 1, die, core, 0, 0, 0⟩)

/-- Kinds 1 and 2 of the on-chip map: the group bound in the slot (R262 steps 3 to 5). -/
def resolveSlot (s : State) (ag : Agent) (die core kind off : Nat) : Res :=
  let slot := off / 0x100000
  let o := off % 0x100000
  match groupIn s die core slot with
  | none =>
    let v := (Sparse.get s.lastHeld (slotIx die core slot)).toNat
    if v == ag.part + 1 then .fail 0x17 none else .fail 0x13 (some ⟨v - 1, die, core, slot, 0, 0⟩)
  | some g =>
    let gov : EnvPlace := ⟨g.part, die, core, slot, g.region, g.task⟩
    if g.part != ag.part then .fail 0x13 (some gov)
    else if kind == 1 then
      (match g.vregs[o / 384]? with
       | none => .fail 0x12 none
       | some v => if v.st == .dead then .fail 0x13 (some gov) else .ok (.vreg g.gid o))
    else if o / 0x4000 < g.tcount then .ok (.tile g.gid o)
    else .fail 0x12 none

/-- The on-chip map (R262). -/
def resolveChip (s : State) (ag : Agent) (x : Nat) : Res :=
  let die := bits x 36 4
  let core := bits x 28 8
  let kind := bits x 24 4
  let off := bits x 0 24
  if decide (8 ≤ die) || decide (192 ≤ core) || decide (3 ≤ kind) || (kind == 0 && decide (0x80000 ≤ off)) ||
      (kind == 1 && decide (128 ≤ off % 0x100000 / 384)) || (kind == 2 && decide (8 ≤ off % 0x100000 / 0x4000)) then
    .fail 0x12 none
  else if kind == 0 then resolveSram s ag die core off
  else resolveSlot s ag die core kind off

/-- A place with an uncorrectable error fails the access with 0x12 (R263). -/
def resGood (s : State) (r : Res) : Res :=
  match r with
  | .ok l => if lineBad s l then .fail 0x12 none else r
  | _ => r

/-- Where an address leads by the maps, with the translation it caches and the zeroing it begins (R260, R267). -/
def resolveMap (s : State) (ag : Agent) (x : Nat) (acc : Acc) : State × Res :=
  if x < 2 ^ 52 then
    (if acc == .exec && decide (x < 0x10000) then (s, .fail 0x12 none)
     else
      match translate s ag.die ag.part x with
      | .fail c gov => (s, .fail c gov)
      | .zero j => (zeroBegin s j, .wait)
      | .ok e => (tlbAdd s e, resolveEntry s ag e x acc))
  else if acc == .exec then (s, .fail 0x12 none)
  else if x / 2 ^ 32 == 0xFFFFF000 then (s, resolveWindow s ag (x % 2 ^ 32))
  else if x / 2 ^ 40 == 0xFFFFE0 then (s, resolveChip s ag x)
  else (s, .fail 0x12 none)

/-- Where an address leads, with the translation it caches and the zeroing it begins, which a unit of the device finds over (R260,
R263, R267). -/
def resolve (s : State) (ag : Agent) (x : Nat) (acc : Acc) : State × Res :=
  let r := resolveMap (if ag.unit && decide (x < 2 ^ 52) then readyVa 6 s ag.die ag.part x else s) ag x acc
  (r.1, resGood s r.2)

/-- An access of a naturally sized unit: misaligned is 0x14, before the range is decoded (R260). -/
def resolveAligned (s : State) (ag : Agent) (x size : Nat) (acc : Acc) : State × Res :=
  if x % size == 0 then resolve s ag x acc else (s, .fail 0x14 none)

/-- The address is an on-chip-map address of kind 1 or 2 (R280). -/
def chipKind12 (x : Nat) : Bool := x / 2 ^ 40 == 0xFFFFE0 && (bits x 24 4 == 1 || bits x 24 4 == 2)

/-- The address lies in the on-chip map and is not of kind 0: no atomic is accepted there (R162, R274). -/
def chipNoAtomic (x : Nat) : Bool := x / 2 ^ 40 == 0xFFFFE0 && bits x 24 4 != 0

/-! ### Bytes of a place -/

/-- Byte `i` of the 32-bit words of a register or tile (R7, R262). -/
def wordByte (w : Word32) (i : Nat) : Byte := BitVec.ofNat 8 (w.toNat / 2 ^ (8 * i))

/-- A word with byte `i` replaced. -/
def setWordByte (w : Word32) (i : Nat) (b : Byte) : Word32 :=
  BitVec.ofNat 32 (w.toNat - bits w.toNat (8 * i) 8 * 2 ^ (8 * i) + b.toNat * 2 ^ (8 * i))

/-- Lane `l` of a vector register; zero where nothing is listed (R136). -/
def laneOf (v : VReg) (l : Nat) : Word32 := v.lanes.getD l 0#32

/-- The lanes of a register with lane `l` written; the register becomes live (R136, R262). -/
def setLane (v : VReg) (l : Nat) (x : Word32) : VReg :=
  { st := .live, lanes := listSet (v.lanes ++ List.replicate (l + 1 - v.lanes.length) 0#32) l x }

/-- The byte at a place. A peer's byte is not here; an absent group, cohort or register reads zero, and so does a lane that is not
live (R143). -/
def readByte (s : State) (l : Loc) : Byte :=
  match l with
  | .mem p => Sparse.get s.mem p
  | .scratch c o =>
    match cohort? s c with
    | some c => Sparse.get c.bytes o
    | none => 0
  | .vreg gid o =>
    match group? s gid with
    | some g =>
      if g.live.getLsbD (o % 384 / 4) then wordByte (laneOf (g.vregs.getD (o / 384) ⟨.never, []⟩) (o % 384 / 4)) (o % 4) else 0
    | none => 0
  | .tile gid o =>
    match group? s gid with
    | some g => wordByte (Sparse.get (g.tiles.getD (o / 0x4000) []) (o % 0x4000 / 4)) (o % 4)
    | none => 0
  | .peer _ _ => 0

/-- The place `n` bytes on. -/
def Loc.plus (l : Loc) (n : Nat) : Loc :=
  match l with
  | .mem p => .mem (p + n)
  | .scratch c o => .scratch c (o + n)
  | .vreg g o => .vreg g (o + n)
  | .tile g o => .tile g (o + n)
  | .peer k a => .peer k (a + n)

/-- `n` bytes from a place on. -/
def readBytes (s : State) (l : Loc) : Nat → List Byte
  | 0 => []
  | n + 1 => readByte s l :: readBytes s (l.plus 1) n

/-- The groups that watch a line are marked as woken (R170). -/
def wakeWatchers (s : State) (l : Loc) : State :=
  { s with groups := s.groups.map fun g => if g.wait == .word (lineOf l) then { g with wait := .woken } else g }

/-- The groups that watch a line which some vector registers of a group, or some tiles, lie in are marked as woken (R170, R262). -/
def wakeRegs (s : State) (gid : Nat) (regs tiles : List Nat) : State :=
  { s with groups := s.groups.map fun g =>
      match g.wait with
      | .word (.vreg h p) =>
        if h == gid && regs.any (fun r => decide (p < 384 * (r + 1)) && decide (384 * r < p + 128)) then { g with wait := .woken }
        else g
      | .word (.tile h p) => if h == gid && tiles.contains (p / 0x4000) then { g with wait := .woken } else g
      | _ => g }

/-- The guest-physical page maps to the page of a place (R381). -/
def gpaMapsTo (s : State) (p : Part) (place gpaPage : Nat) : Bool :=
  match stage2 s p (gpaPage * 0x10000) with
  | .ok pg => pg.target == 0 && pg.base + gpaPage * 0x10000 % pg.size == alignDown place 0x10000
  | _ => false

/-- The dirty bits that a write to a place sets again, in a partition that is SEALING (R381). -/
def markDirty (s : State) (place : Nat) : State :=
  { s with parts := s.parts.map fun p =>
      if p.st == .sealing && pageOwned s p.id place then
        { p with clean := p.clean.filter fun n => !gpaMapsTo s p place n }
      else p }

/-- A write performed at home, as every watcher sees it; the watchpoints come on top (R170, R263, R381). -/
def putBytes (s : State) (place : Nat) (bs : List Byte) : State :=
  wakeMem (markDirty { s with mem := Sparse.setRange s.mem place bs } place) place bs.length

/-- Bytes written line by line; a line with an uncorrectable error takes nothing (R263). -/
def putGood : Nat → State → Nat → List Byte → State
  | 0, s, _, _ => s
  | fuel + 1, s, place, bs =>
    let k := 128 - place % 128
    putGood fuel (if lineBad s (.mem place) then s else putBytes s place (bs.take k)) (place + k) (bs.drop k)

/-- Bytes that the hardware writes for a partition to a page which it keeps: one that is being zeroed is zero first, one that
is another partition's by now takes nothing, and neither does a line with an uncorrectable error (R18, R263, R267). -/
def putKept (s : State) (part place : Nat) (bs : List Byte) : State :=
  let s1 := finishPage s place
  if !pageOwned s1 part place then s1
  else if rangeBad s1 place bs.length then putGood (bs.length / 128 + 2) s1 place bs else putBytes s1 place bs

/-- The bytes of a group's vector registers from byte `o` on, written in the lanes that are live (R143, R262). -/
def setVregBytes (live : BitVec 96) (vs : List VReg) (o : Nat) : List Byte → List VReg
  | [] => vs
  | b :: bs =>
    let v := vs.getD (o / 384) ⟨.never, []⟩
    let l := o % 384 / 4
    setVregBytes live
      (if live.getLsbD l then listSet vs (o / 384) (setLane v l (setWordByte (laneOf v l) (o % 4) b)) else vs) (o + 1) bs

/-- The vector registers that `n` bytes from byte `o` on lie in, marked as written since the image held them (R138). -/
def dirtyBytes (d : BitVec 128) (o n : Nat) : BitVec 128 :=
  (List.range ((o + n - 1) / 384 + 1 - o / 384)).foldl (fun d k => d ||| BitVec.ofNat 128 (2 ^ (o / 384 + k))) d

/-- The bytes of tiles from byte `o` on, written (R262). -/
def setTileBytes (ts : List (Sparse 32)) (o : Nat) : List Byte → List (Sparse 32)
  | [] => ts
  | b :: bs =>
    let t := ts.getD (o / 0x4000) []
    let e := o % 0x4000 / 4
    setTileBytes (listSet ts (o / 0x4000) (Sparse.set t e (setWordByte (Sparse.get t e) (o % 4) b))) (o + 1) bs

/-! ### The load cache -/

/-- The state with the line of a place in a core's load cache (R263). DESIGN CHOICE (entry 9). -/
def cacheFill (s : State) (die core : Nat) (code : Bool) (place : Nat) : State :=
  match cacheFind s die core code place with
  | some _ => s
  | none =>
    let b := alignDown place 128
    let bytes := (Sparse.window s.mem b 128).map fun x => (x.1 - b, x.2)
    { s with cache := ⟨die, core, code, b, bytes, none⟩ :: s.cache }

/-- The bytes of the pieces of a range. -/
def placesRead (s : State) (ps : List (Nat × Nat)) : List Byte := (ps.map fun p => Sparse.getRange s.mem p.1 p.2).flatten

/-- Bytes written to the pieces of a range, without watchpoints. -/
def placesPut : State → List (Nat × Nat) → List Byte → State
  | s, [], _ => s
  | s, (p, k) :: rest, bs => placesPut (putBytes s p (bs.take k)) rest (bs.drop k)

/-- `n` bytes of a line that a core's load cache holds, or else of memory (R263). -/
def cacheRead (s : State) (die core : Nat) (code : Bool) (place n : Nat) : List Byte :=
  match cacheFind s die core code place with
  | some c => Sparse.getRange c.bytes (place - c.line) n
  | none => Sparse.getRange s.mem place n

/-- A store updates the lines of its own core's load cache that it hits, fetched code among them (R263). -/
def cacheUpdate (s : State) (die core place : Nat) (bs : List Byte) : State :=
  { s with cache := s.cache.map fun c =>
      if c.die == die && c.core == core && c.line == alignDown place 128 then
        { c with bytes := Sparse.setBytes c.bytes (place - c.line) bs }
      else c }

/-- The data lines of a core's load cache dropped: a memory fence or acquire at .die or wider (R263). -/
def dropData (s : State) (die core : Nat) : State :=
  { s with cache := s.cache.filter fun c => c.code || c.die != die || c.core != core }

/-- One data line of a core's load cache dropped: an atomic is performed at its home (R269, R307). -/
def dropLineAt (s : State) (die core place : Nat) : State :=
  { s with cache := s.cache.filter fun c => c.code || c.die != die || c.core != core || c.line != alignDown place 128 }

/-- The code lines of the cores within a scope dropped (R102, R263). -/
def dropCode (s : State) (die core scope : Nat) : State :=
  { s with cache := s.cache.filter fun c =>
      !(c.code && (decide (3 ≤ scope) || (c.die == die && (scope == 2 || c.core == core)))) }

/-- A load of `n` bytes at a place by a group on a core: memory through the load cache, everything else where it lies
(R263, R277). -/
def loadBytes (s : State) (die core : Nat) (l : Loc) (n : Nat) : State × List Byte :=
  match l with
  | .mem p => (cacheFill s die core false p, cacheRead s die core false p n)
  | _ => (s, readBytes s l n)

/-! ### Rings of notices -/

/-- What became of a notice: the ring and the memory after it (R43). -/
structure RingWrite where
  s : State
  ring : Ring

/-- The address of the next entry of a ring (R43). -/
def ringEntry (r : Ring) (size : Nat) : Nat := r.base + 0x40 + r.produced % r.entries * size

/-- An entry offered to a ring whose fields lie at places of memory given by `at_`: the first 64 bytes of a ring lie in one
page, and the place of the entry is looked up when the ring is not full (R32, R43). -/
def ringOffer (s : State) (r : Ring) (at_ : Nat → Bool → Option Nat) (size : Nat) (mk : Bool → List Byte) : RingWrite :=
  match at_ (r.base + 8) false, at_ r.base true with
  | some ca, some pa =>
    let c := Sparse.readLE s.mem ca 8
    if decide (r.produced - c ≥ r.entries) || decide (c > r.produced) then
      ⟨putBytes s (pa + 16) (natToBytes 8 (r.lost + 1)), { r with lost := r.lost + 1, gap := true }⟩
    else
      (match at_ (ringEntry r size) true with
       | some ea =>
         ⟨putBytes (putBytes s ea (mk r.gap)) pa (natToBytes 8 (r.produced + 1)),
           { r with produced := r.produced + 1, gap := false }⟩
       | none => ⟨s, r⟩)
  | _, _ => ⟨s, r⟩

/-- Physical addresses of partition 0, where the operator's rings lie (R43). -/
def atOperator (s : State) (a : Nat) (_ : Bool) : Option Nat :=
  if pageOwned s 0 a && !beingZeroed s a && !lineBad s (.mem a) then some a else none

/-- An entry offered to a ring of the operator, whose pages are fresh no longer (R43, R267). -/
def ringAtOperator (s : State) (r : Ring) (size : Nat) (mk : Bool → List Byte) : RingWrite :=
  let s1 := finishPage (finishPage s r.base) (ringEntry r size)
  ringOffer s1 r (atOperator s1) size mk

/-- Guest-physical addresses of a partition, where an owner's ring lies (R39, R43). A refused page takes no notice, as one that
does not translate; no envelope tells of it (DEDUCED, entry 21). -/
def atOwner (s : State) (p : Part) (a : Nat) (write : Bool) : Option Nat :=
  match placeOf2 s p a write with
  | .ok place => if lineBad s (.mem place) then none else some place
  | .error _ => none

/-- Bus addresses of an audit function, which lie in host memory (R43). -/
def atBus (a : Nat) (_ : Bool) : Option Nat := some (hostBase + a)

/-- The authority an envelope goes to (R32). -/
inductive EnvTo where
  | operator
  | owner (part : Nat)
  | auditor (fn : Nat)
  deriving DecidableEq, Repr

/-- The 32 bytes of an envelope (R30). -/
def envelopeBytes (ordinal cls flags detail : Nat) (p : EnvPlace) (lost : Bool) : List Byte :=
  natToBytes 8 ordinal ++ natToBytes 4 p.region ++ natToBytes 1 p.part ++ natToBytes 1 cls ++ natToBytes 1 p.die ++
    natToBytes 1 (flags + if lost then 2 else 0) ++ natToBytes 4 p.task ++ natToBytes 2 p.core ++ natToBytes 1 p.slot ++
    natToBytes 1 0 ++ natToBytes 8 detail

/-- An entry put into the ring of an authority (R32, R43). -/
def ringPut (s : State) (whom : EnvTo) (mk : Bool → List Byte) : State :=
  match whom with
  | .operator =>
    match s.ring8 with
    | some r =>
      let w := ringAtOperator s r 32 mk
      { w.s with ring8 := some w.ring }
    | none =>
      match s.ring9 with
      | some r =>
        let w := ringAtOperator s r 32 mk
        { w.s with ring9 := some w.ring }
      | none => s
  | .owner p =>
    match part? s p with
    | none => s
    | some pt =>
      match pt.ring with
      | none => s
      | some r =>
        let s1 := pageReady (pageReady s pt r.base) pt (ringEntry r 32)
        let w := ringOffer s1 r (atOwner s1 pt) 32 mk
        { w.s with parts := w.s.parts.map fun x => if x.id == p then { x with ring := some w.ring } else x }
  | .auditor f =>
    match s.auditFns.find? fun a => a.fn == f with
    | none => s
    | some a =>
      match a.ring with
      | none => s
      | some r =>
        let w := ringOffer s r atBus 32 mk
        { w.s with auditFns := w.s.auditFns.map fun x => if x.fn == f then { x with ring := some w.ring } else x }

/-- A region counter advanced (R386). -/
def countRegion (s : State) (part region n amount : Nat) : State :=
  modRegion s part region fun r =>
    { r with counters := Sparse.set r.counters n (Sparse.get r.counters n + BitVec.ofNat 64 amount) }

/-- The ordinal that the next envelope of a partition takes (R30). -/
def nextOrdinal (s : State) (part : Nat) : Nat :=
  match part? s part with
  | some p => p.ordinal + 1
  | none => 1

/-- An envelope sent that no region counts: the partition's next ordinal, the ring (R30, R32, R418). -/
def envelopePlain (s : State) (whom : EnvTo) (cls flags detail : Nat) (p : EnvPlace) : State :=
  let n := nextOrdinal s p.part
  let s1 := { s with parts := s.parts.map fun x => if x.id == p.part then { x with ordinal := n } else x }
  ringPut s1 whom (envelopeBytes n cls flags detail p)

/-- An envelope sent, and counted by the region whose id it carries (R30, R32, R386, R418). -/
def envelope (s : State) (whom : EnvTo) (cls flags detail : Nat) (p : EnvPlace) : State :=
  envelopePlain (countRegion s p.part p.region (0x20 + cls) 1) whom cls flags detail p

/-- The authority that governs a partition's resources: the operator for partition 0, else the owner (R21, R22). -/
def governor (part : Nat) : EnvTo := if part == 0 then .operator else .owner part

/-- The envelope of a refusal, to the authority that governs the resource; for counters the auditor that holds the partition's
grant, and no one where there is none (R21, R22, R418). DEDUCED (entry 21). -/
def refusalEnvelope (s : State) (gov : Option EnvPlace) : State :=
  match gov with
  | none => s
  | some p =>
    if p == countersPlace p.part then
      (match (part? s p.part).bind fun x => x.auditFn with
       | some fn => envelope s (.auditor fn) 4 0 1 p
       | none => s)
    else envelope s (governor p.part) 4 0 1 p

/-- An envelope to the operator and to the partition's owner (R63, R77). -/
def envelopeBoth (s : State) (cls detail : Nat) (p : EnvPlace) : State :=
  let s1 := envelope s .operator cls 0 detail p
  if p.part == 0 then s1 else envelope s1 (.owner p.part) cls 0 detail p

/-! ### Fault bodies -/

/-- What a body says of the trapped group (R33). -/
structure BodyInfo where
  ordinal : Nat
  cause : Nat
  cls : Nat
  entries : List AccessEntry
  further : Nat
  scalarPc : Nat
  lanePc : Nat
  skid : Nat
  ix : Nat
  iy : Nat
  iz : Nat
  task : Nat
  region : Nat
  image : Nat

/-- The 16 bytes of an access entry (R33); the first reserved byte holds the package of R271. -/
def entryBytes (e : AccessEntry) : List Byte :=
  natToBytes 8 e.addr.toNat ++ natToBytes 1 e.lane ++ natToBytes 1 e.kind ++ natToBytes 1 e.size ++ natToBytes 1 e.cause ++
    natToBytes 1 e.note ++ natToBytes 3 0

/-- The 256 bytes of a body (R33). -/
def bodyBytes (b : BodyInfo) : List Byte :=
  natToBytes 8 b.ordinal ++ natToBytes 1 b.cause ++ natToBytes 1 b.cls ++ natToBytes 1 b.entries.length ++ natToBytes 1 0 ++
    natToBytes 4 b.further ++ natToBytes 8 b.scalarPc ++ natToBytes 8 b.lanePc ++ natToBytes 4 b.skid ++ natToBytes 4 b.ix ++
    natToBytes 2 b.iy ++ natToBytes 2 b.iz ++ natToBytes 4 0 ++ natToBytes 4 b.task ++ natToBytes 4 b.region ++
    natToBytes 8 b.image ++
    ((b.entries.map entryBytes).flatten ++ natToBytes ((8 - b.entries.length) * 16) 0) ++ natToBytes 64 0

/-- The envelope class of a cause (R31). -/
def causeClass (c : Nat) : Nat :=
  if c == 0x13 then 4
  else if c == 0x22 || c == 0x23 then 5
  else if decide (4 ≤ c) && decide (c ≤ 8) then 1
  else if c == 9 || c == 0x0A then 2
  else if (decide (0x10 ≤ c) && decide (c ≤ 0x17)) || c == 0x21 then 3
  else 0

/-- The effective fault body buffer and handler entry of a region's fault domain (R47, R52). -/
def domainOf (s : State) (part region : Nat) : Option (Region × Nat × Nat) :=
  let rs := chain s part region
  match faultDomain rs with
  | none => none
  | some d =>
    let ds := chain s part d.id
    some (d, effective ds 6 (fun r => r.bodyBuf.toNat), effective ds 6 (fun r => r.handler.toNat))

/-- A trapped group's body is with its handler in a buffer, whose disposition has not been taken yet (R374). -/
def bufferHandled (s : State) (part buf : Nat) : Bool :=
  s.groups.any fun g => g.part == part && g.bodyState == .handling &&
    (match domainOf s part g.region with
     | some (_, b, _) => b == buf
     | none => false)

/-- The place of a fault body buffer, read or written for a partition; none when it cannot be reached (R33, R373). -/
def bufferPlace (s : State) (part buf : Nat) (acc : Acc) : Option Nat :=
  if buf == 0 then none
  else
    match (resolve s (partUnit part) buf acc).2 with
    | .ok (.mem p) => some p
    | _ => none

/-- The buffer is free: its first dword reads 0 or all ones (R373). -/
def bufferFree (s : State) (part buf : Nat) : Bool :=
  match bufferPlace s part buf .load with
  | none => false
  | some p =>
    let v := Sparse.readLE s.mem p 8
    v == 0 || v == 2 ^ 64 - 1

/-- The buffer's page is not being zeroed (R267). -/
def bufferReady (s : State) (part buf : Nat) : State := if buf == 0 then s else readyVa 6 s 0 part buf

/-- A body written to a buffer that is found free, once the disposition of the body before it has been taken; whether it was written
(R373, R374). A buffer page that is refused takes no body, as
one that does not translate; no envelope tells of it (DEDUCED, entry 21). -/
def tryBody (s : State) (part buf : Nat) (bs : List Byte) : State × Bool :=
  let s1 := bufferReady s part buf
  if bufferFree s1 part buf && !bufferHandled s1 part buf then
    (match bufferPlace s1 part buf .store with
     | some p => if rangeBad s1 p bs.length then (s1, false) else (putBytes s1 p bs, true)
     | none => (s1, false))
  else (s1, false)

/-! ### The dependency table's entries (R70) -/

/-- The entries of a die's dependency table in use. -/
def entriesUsed (s : State) (die : Nat) : Nat := (s.tasks.filter fun t => t.handle / 2 ^ 28 == die).length

/-- The next entry number of a die from `n` on: in use is skipped, and 0 on die 0 (R58, R70). -/
def nextEntry (s : State) (die : Nat) : Nat → Nat → Nat
  | 0, n => n
  | fuel + 1, n =>
    let h := die * 2 ^ 28 + n
    if h == 0 || s.tasks.any (fun t => t.handle == h) then nextEntry s die fuel ((n + 1) % 2 ^ 28) else n

/-- A handle on the first die of a list with a free entry, and the state after its allocation (R70). -/
def allocHandle (s : State) : List Nat → Option (State × Nat)
  | [] => none
  | d :: ds =>
    if entriesUsed s d < 65536 then
      let n := nextEntry s d 65538 (Sparse.get s.entryNext d).toNat
      some ({ s with entryNext := Sparse.set s.entryNext d (BitVec.ofNat 28 (n + 1)) }, d * 2 ^ 28 + n)
    else allocHandle s ds

/-- The dies of a mask, ascending. -/
def diesOf (mask : Nat) : List Nat := (List.range 8).filter fun d => bitOf mask d

/-- The lease bit of a partition on a die (R25). -/
def leased (s : State) (die part : Nat) : Bool := (Sparse.get s.lease die).getLsbD part

/-- The eligible dies of a task (R50). -/
def eligibleDies (s : State) (t : Task) : List Nat :=
  (diesOf (t.dieMask &&& effectiveDies (chain s t.part t.region))).filter fun d => leased s d t.part

/-! ### Handlers -/

/-- The handler task of a fault domain, in its region (R374). Lane code base 0 is DEDUCED (entry 23). -/
def handlerTask (s : State) (d : Region) (handle buf handler gid : Nat) : Task :=
  let rs := chain s d.part d.id
  { part := d.part, handle := handle, region := d.id, entry := BitVec.ofNat 64 handler, laneBase := 0, gx := 1, gy := 1,
    gz := 1, lanes := 1, vcount := 0, tcount := 0, restartable := false, dieMask := effectiveDies rs, hint := 0,
    prio := effective rs 3 (fun r => r.prio), scratch := 0, ranges := [], doneAddr := 0, doneValue := 0,
    arg := BitVec.ofNat 64 buf, preds := [], status := .waiting, firing := 0, fireSeq := 0, next := 0, redo := [],
    ended := [], faulted := false, held := none, handler := true, serves := gid, onDies := [], floors := [], spans := [] }

/-- A handler task fires on the lowest eligible die, or waits for one (R50, R72, R374). -/
def fireHandler (s : State) (d : Region) (buf handler gid : Nat) : Option State :=
  match allocHandle s (diesOf (effectiveDies (chain s d.part d.id))) with
  | none => none
  | some (s1, h) =>
    let t := handlerTask s1 d h buf handler gid
    let t1 :=
      match eligibleDies s1 t with
      | [] => t
      | e :: _ => { t with status := .fired, firing := e, fireSeq := s1.nextId }
    some { s1 with tasks := s1.tasks ++ [t1], nextId := s1.nextId + 1 }

/-- The trapped groups whose bodies wait for a buffer (R373). -/
def bodiesWaiting (s : State) (part buf : Nat) : List Nat :=
  (s.groups.filter fun g =>
      g.part == part && g.bodyState == .waiting &&
        (match domainOf s part g.region with
         | some (_, b, _) => b == buf
         | none => false)).map (fun g => g.ordinal) ++
    (s.bodies.filter fun b =>
      b.part == part &&
        (match domainOf s part b.region with
         | some (_, x, _) => x == buf
         | none => false)).map fun b => b.ordinal

/-- A body written to the buffer of a fault domain, with its handler if it fires one (R373, R374); `gid` is the trapped group (0:
none). A body whose handler finds no free entry is not written yet. -/
def writeBody (s : State) (d : Region) (buf handler gid : Nat) (fires : Bool) (bs : List Byte) : State × Bool :=
  let w := tryBody s d.part buf bs
  if !w.2 then (s, false)
  else if handler == 0 || !fires then w
  else
    match fireHandler w.1 d buf handler gid with
    | none => (s, false)
    | some s1 => (s1, true)

/-- A body of a region with no trapped group: written at once if the buffer is free and no earlier body waits for it; else kept, or
dropped where the fault domain has no handler; with the operator's envelope of class 3. The body of a watchpoint fires the handler,
that of an ended group's copy does not (R171, R271, R373 to R375). -/
def looseBody (s : State) (place : EnvPlace) (region : Nat) (fires : Bool) (b : BodyInfo) : State :=
  let n := nextOrdinal s place.part
  let bs := bodyBytes { b with ordinal := n }
  match domainOf s place.part region with
  | none => envelope s .operator b.cls 0 (b.entries.length + b.further) place
  | some (d, buf, handler) =>
    let w := if (bodiesWaiting s place.part buf).isEmpty then writeBody s d buf handler 0 fires bs else (s, false)
    let s1 := envelope w.1 .operator b.cls (if w.2 then 1 else 0) (b.entries.length + b.further) place
    if w.2 || buf == 0 || handler == 0 then s1 else { s1 with bodies := s1.bodies ++ [⟨place.part, region, n, bs, fires⟩] }

/-! ### Pending faults -/

/-- A group's pending faults with one more, of an access with order number `key`, behind those of accesses that are not later:
eight entries at most, and a count (R280). -/
def pendAdd (p : Pending) (key : Nat) (e : AccessEntry) : Pending :=
  let n := (p.keys.filter fun k => decide (k ≤ key)).length
  let es := p.entries.take n ++ e :: p.entries.drop n
  let ks := p.keys.take n ++ key :: p.keys.drop n
  let more (f : AccessEntry → Bool) : Nat := ((es.drop 8).filter f).length
  { entries := es.take 8, keys := ks.take 8, further := p.further + (es.length - 8)
    refused := p.refused + more fun x => x.cause == 0x13, instrs := p.instrs + more fun x => x.kind == 5 }

/-- The group is fault-pending (R280). -/
def faultPending (g : Group) : Bool := !g.pend.entries.isEmpty

/-- A failure of an access made now, recorded in a group, and the envelope if it is a refusal (R21, R280). -/
def notePending (s : State) (gid : Nat) (e : AccessEntry) (gov : Option EnvPlace) : State :=
  refusalEnvelope (modGroup s gid fun g => { g with pend := pendAdd g.pend s.nextId e }) gov

/-! ### Writes -/

/-- The writer of a store (R271): its class, the partition and region of the group it serves, the group, the core whose
load cache it updates, and the package number for class 7. -/
structure Writer where
  cls : Nat
  part : Nat
  region : Nat
  gid : Nat
  die : Nat
  core : Nat
  pkg : Nat
  deriving DecidableEq, Repr

/-- The watchpoint's kind takes a writer class: 1 stores and atomics, 2 copies and engine writes, 3 both (R271). DEDUCED
(entry 22). -/
def watchTakes (kind cls : Nat) : Bool :=
  kind == 3 || (if cls == 2 || cls == 3 || cls == 5 then kind == 2 else kind == 1)

/-- The watchpoints of active regions that a write of `n` bytes at a place hits (R271). -/
def watchHits (s : State) (w : Writer) (place n : Nat) : List (Region × Watch) :=
  (s.regions.filter fun r => r.active).flatMap fun r =>
    (r.watch.filter fun x => watchTakes x.kind w.cls && decide (x.place < place + n) && decide (place < x.place + x.len)).map
      fun x => (r, x)

/-- The writer class that a region sees: 0 its own group, 1 another group of the partition (R271). DEDUCED (entry 22). -/
def classSeen (w : Writer) (r : Region) : Nat :=
  if w.cls == 0 && !(w.part == r.part && w.region == r.id) then 1 else w.cls

/-- One hit of a watchpoint (R271). -/
def watchHit (w : Writer) (place n : Nat) (s : State) (h : Region × Watch) : State :=
  let cls := classSeen w h.1
  let addr := h.2.va + BitVec.ofNat 64 (place - h.2.place)
  let e : AccessEntry :=
    ⟨addr, cls, if cls == 4 then 2 else if cls == 2 then 3 else 1, n, 0x21, if cls == 7 then w.pkg else 0⟩
  if cls == 0 then notePending s w.gid e none
  else
    looseBody s (noPlace h.1.part h.1.id 0) h.1.id true
      ⟨0, 0x21, 3, [e], 0, 0, 0, 0, 0, 0, 0, 0, h.1.id, 0⟩

/-- The pieces of `n` bytes at a place that lie in one line each, as the home performs them (R263, R271). -/
def linePieces : Nat → Nat → Nat → List (Nat × Nat)
  | 0, _, _ => []
  | fuel + 1, place, n =>
    let k := 128 - place % 128
    if n ≤ k then [(place, n)] else (place, k) :: linePieces fuel (place + k) (n - k)

/-- The watchpoint hits of a write, line by line (R271). -/
def watchWrite (s : State) (w : Writer) (place n : Nat) : State :=
  (linePieces (n / 128 + 2) place n).foldl (fun s x => (watchHits s w x.1 x.2).foldl (watchHit w x.1 x.2) s) s

/-- Bytes of scratch that another writer than the copies of group `gid` has written show what they were before those copies to no
one any more (R236). -/
def dropTraces (s : State) (gid : Option Nat) (cohort off n : Nat) : State :=
  { s with groups := s.groups.map fun g =>
      if g.traces.isEmpty || gid == some g.gid then g
      else { g with traces := g.traces.filter fun x => x.cohort != cohort || decide (x.off < off) || decide (off + n ≤ x.off) } }

/-- A write of bytes at a place, with everything it sets off: the own core's load cache, watchers, watchpoints, dirty bits
(R170, R263, R271, R381). A peer's bytes are not written here (R330). Performed at once (DESIGN CHOICE, entry 3). -/
def storeBytes (s : State) (w : Writer) (l : Loc) (bs : List Byte) : State :=
  match l with
  | .mem p => watchWrite (putBytes (cacheUpdate s w.die w.core p bs) p bs) w p bs.length
  | .scratch c o =>
    wakeWatchers (modCohort (dropTraces s (if w.cls == 2 then some w.gid else none) c o bs.length) c fun x =>
      { x with bytes := Sparse.setBytes x.bytes o bs }) l
  | .vreg gid o => wakeWatchers (modGroup s gid fun g =>
      { g with vregs := setVregBytes g.live g.vregs o bs, dirty := dirtyBytes g.dirty o bs.length }) l
  | .tile gid o => wakeWatchers (modGroup s gid fun g => { g with tiles := setTileBytes g.tiles o bs }) l
  | .peer _ _ => s

end Sys2Proof.Machine
end

