-- ==== Sys2Proof/Machine/Ops.lean ====
section
/-! DEFINITION. The operations that instructions and steps share: a group's registers, retirement and its counts, giving
up and leaving a slot, context images, taking a trap and returning from one (R371 to R375), and the end of a group. -/

namespace Sys2Proof.Machine

/-! ### The executing group -/

/-- The state after a group's instruction that always goes on; a fault where no group executes. -/
def onGroup (s : State) (f : Group → State) : Host.Outcome State Fault Refusal :=
  match group? s s.cur with
  | none => .fault .noGroup
  | some g => .next (f g)

/-- The state after a group's scalar instruction that comes after every queued lane instruction: it waits while the lane
queue holds words (R132, R372). DESIGN CHOICE (entry 13). -/
def onDrained (s : State) (f : Group → State) : Host.Outcome State Fault Refusal :=
  onGroup s fun g => if g.queue.isEmpty then f g else s

/-- Scalar register `r` of a file of scalar registers; s0 reads zero (R130). -/
def sregIn (m : Sparse 64) (r : Nat) : Word := if r == 0 then 0 else Sparse.get m r

/-- Scalar register `r` of a group (R130). -/
def sreg (g : Group) (r : Reg) : Word := sregIn g.scalars r.toNat

/-- Word `k` of the live mask: lanes 32k to 32k + 31 (R131, R146). -/
def liveWord (live : BitVec 96) (k : Nat) : Word := BitVec.ofNat 64 (bits live.toNat (32 * k) 32)

/-- A file of scalar registers after a write: s0 discards it, s61 to s63 keep only live lanes' bits (R130, R131). -/
def setSregIn (m : Sparse 64) (live : BitVec 96) (r : Nat) (v : Word) : Sparse 64 :=
  if r == 0 then m
  else if 61 ≤ r then Sparse.set m r (v &&& liveWord live (r - 61))
  else Sparse.set m r v

/-- A group after a write of scalar register `r` by its scalar stream. -/
def setSreg (g : Group) (r : Reg) (v : Word) : Group := { g with scalars := setSregIn g.scalars g.live r.toNat v }

/-- A group after a write of scalar register `r` by a lane instruction: the queued blocks, which come later in program
order, read it too (R132). -/
def setSregLane (g : Group) (r : Nat) (v : Word) : Group :=
  { g with scalars := setSregIn g.scalars g.live r v,
           queue := g.queue.map fun b => { b with snap := setSregIn b.snap g.live r v } }

/-- The 96 lane bits of a triple (R161). -/
def tripleIn (m : Sparse 64) (t : Nat) : Nat :=
  bits (sregIn m t).toNat 0 32 + 2 ^ 32 * bits (sregIn m (t + 1)).toNat 0 32 + 2 ^ 64 * bits (sregIn m (t + 2)).toNat 0 32

/-- A triple of a group as its scalar stream reads it (R161). -/
def triple (g : Group) (t : Reg) : Nat := tripleIn g.scalars t.toNat

/-- A group after a write of 96 lane bits to a triple (R161). -/
def setTriple (g : Group) (t : Reg) (v : Nat) : Group :=
  let m1 := setSregIn g.scalars g.live t.toNat (BitVec.ofNat 64 (bits v 0 32))
  let m2 := setSregIn m1 g.live (t.toNat + 1) (BitVec.ofNat 64 (bits v 32 32))
  { g with scalars := setSregIn m2 g.live (t.toNat + 2) (BitVec.ofNat 64 (bits v 64 32)) }

/-- A group after a lane instruction's write of a triple (R132, R161). -/
def setTripleLane (g : Group) (t v : Nat) : Group :=
  setSregLane (setSregLane (setSregLane g t (BitVec.ofNat 64 (bits v 0 32))) (t + 1) (BitVec.ofNat 64 (bits v 32 32)))
    (t + 2) (BitVec.ofNat 64 (bits v 64 32))

/-- Where a group's accesses are made (R23, R306). -/
def agentOf (g : Group) : Agent :=
  match g.status with
  | .bound d c _ => ⟨g.part, false, g.cohort, d, c⟩
  | _ => ⟨g.part, false, g.cohort, g.die, 0⟩

/-- The die, core and slot of a group; core 0 and slot 0 where it is not bound. -/
def seatOf (g : Group) : Nat × Nat × Nat :=
  match g.status with
  | .bound d c n => (d, c, n)
  | _ => (g.die, 0, 0)

/-- The group holds a slot. -/
def isBound (g : Group) : Bool :=
  match g.status with
  | .bound _ _ _ => true
  | _ => false

/-- A group as the writer of a store of class `cls` (R271). -/
def writerOf (g : Group) (cls : Nat) : Writer :=
  let a := agentOf g
  ⟨cls, g.part, g.region, g.gid, a.die, a.core, 0⟩

/-- A group as the place of an envelope (R418). -/
def groupPlace (g : Group) : EnvPlace :=
  let a := seatOf g
  ⟨g.part, a.1, a.2.1, a.2.2, g.region, g.task⟩

/-- A group comes before another in the order of R90: the higher issue priority, the earlier bind, the lower slot. -/
def keyBefore (a b : Group) : Bool :=
  if a.level != b.level then decide (b.level < a.level)
  else if a.bindSeq != b.bindSeq then decide (a.bindSeq < b.bindSeq)
  else decide ((seatOf a).2.2 < (seatOf b).2.2)

/-! ### Numbers that wrap -/

/-- The number after `n`, from 1 to 2^32 − 1 and again 1 (R241, R243, R287, R289). -/
def nextNumber (n : Nat) : Nat := if n == 2 ^ 32 - 1 then 1 else n + 1

/-- How many numbers before `latest` the number `n` was given out. -/
def numberAge (latest n : Nat) : Nat := (latest + (2 ^ 32 - 1) - n) % (2 ^ 32 - 1)

/-- Which numbers have wrapped, after number `n` of kind `bit` has been given out. -/
def wrapsAfter (wraps bit n : Nat) : Nat := if n == 2 ^ 32 - 1 then wraps ||| 2 ^ bit else wraps

/-- `n` is one of the most recent 65,536 numbers given out before `next`; the numbers of this kind have `wrapped`, or not (R243,
R290). -/
def recentNumber (wrapped : Bool) (next n : Nat) : Bool :=
  decide (1 ≤ n) && decide (n < 2 ^ 32) && decide (1 ≤ numberAge next n) && decide (numberAge next n ≤ 65536) &&
    (wrapped || decide (n < next))

/-- A wait on number `v` covers sealed batch `b`; `latest` is the last sealed. A number above it covers every batch, and after
a wrap numbers compare within the most recent 2^31 (R178, R179, R241, R289). -/
def batchCovered (wrapped : Bool) (latest : Nat) (v : Word) (b : Nat) : Bool :=
  v != 0 && b != 0 &&
    (decide (2 ^ 32 ≤ v.toNat) ||
      (if wrapped then decide (2 ^ 31 ≤ numberAge latest v.toNat) || decide (numberAge latest v.toNat ≤ numberAge latest b)
       else decide (b ≤ v.toNat)))

/-! ### Retirement and counts -/

/-- The group may be discarded, and so counts its work provisionally (R61, R388). -/
def discardable (s : State) (g : Group) : Bool :=
  match task? s g.part g.task with
  | some t => t.restartable && restartable (chain s g.part g.region)
  | none => false

/-- Work of a group counted in counter `n`, one of 0x00 to 0x0A (R386, R388). -/
def countWork (s : State) (g : Group) (n amount : Nat) : State :=
  if discardable s g then
    modGroup s g.gid fun x => { x with prov := Sparse.set x.prov n (Sparse.get x.prov n + BitVec.ofNat 64 amount) }
  else countRegion s g.part g.region n amount

/-- A scalar instruction retires and the scalar stream goes on at `pc` (R150, R386). -/
def retireTo (s : State) (g : Group) (pc : Word) : State :=
  let g1 := { g with pc := pc, retiredS := g.retiredS + 1, wait := .none, fenced := false, seen := 0,
                     queue := g.queue.map fun b => { b with skid := b.skid + 1 } }
  countWork (putGroup s g1) g1 0x00 1

/-- A scalar instruction retires and the scalar stream goes on at the next word (R97, R150). -/
def retire (s : State) (g : Group) : State := retireTo s g (g.pc + 4)

/-- The scalar instruction of a group, its record looked up after other effects, retires with a result (R150). -/
def retireIn (s : State) (gid : Nat) (f : Group → Group) : State :=
  match group? s gid with
  | none => s
  | some g => retire s (f g)

/-- The lane code base of a group (R96, R146). -/
def laneBase (s : State) (g : Group) : Word :=
  match task? s g.part g.task with
  | some t => t.laneBase
  | none => 0

/-- The address of lane word `k` (R96). -/
def laneWordAt (s : State) (g : Group) (k : Nat) : Word := laneBase s g + BitVec.ofNat 64 (12 * k)

/-- The lane PC: the next word of the head queue entry, or 0 (R97, R369). -/
def lanePc (s : State) (g : Group) : Word :=
  match g.queue with
  | [] => 0
  | b :: _ => laneWordAt s g (b.first + b.done)

/-- The lane queue after its head word (R99, R100). -/
def laneAdvance : List LaneBlock → List LaneBlock
  | [] => []
  | b :: q => if b.done + 1 < b.count then { b with done := b.done + 1 } :: q else q

/-- A lane instruction retires, with `active` lanes active (R207, R386). -/
def retireLane (s : State) (g : Group) (active : Nat) : State :=
  let g1 := { g with queue := laneAdvance g.queue, retiredL := g.retiredL + 1, wait := .none }
  countWork (countWork (putGroup s g1) g1 0x01 1) g1 0x02 active

/-! ### Waiting -/

/-- Every matrix command that the group has issued has completed or been cancelled (R246). -/
def cmdsDone (g : Group) : Bool := g.cmds.all fun c => c.st != .queued && c.st != .started

/-- Every access of the group itself to a peer package has been answered; its copies' are not waited for (R165, R166, R168). -/
def peersDone (g : Group) : Bool := g.peers.all fun p => p.reply.isSome || p.copy != 0 || p.redone

/-- A group's requests to peers when it gives up its core: a read of an instruction that has not retired is made anew, so its answer
is forgotten or will go to no one; stores, answered atomics and the requests of copies stay (R306, R334). -/
def readsAgain (ps : List PeerAccess) : List PeerAccess :=
  (ps.filter fun p => p.op != .read || p.copy != 0 || p.reply.isNone).map fun p =>
    if p.op == .read && p.copy == 0 then { p with redone := true } else p

/-- Every store to a peer that another group of the package had sent when this group's release at .fab began, and which the
group may have observed, has been acknowledged: a release is cumulative (R310). That it waits for those it has not observed
too is a DESIGN CHOICE (entry 63). -/
def othersDone (s : State) (g : Group) : Bool :=
  let since := if g.seen == 0 then s.nextId else g.seen
  s.groups.all fun x => x.gid == g.gid ||
    x.peers.all fun p => p.op != .write || p.copy != 0 || p.reply.isSome || decide (since ≤ p.ticket)

/-- The state in which a group's release at .fab has begun to wait (R310). -/
def releaseBegun (s : State) (g : Group) : State := putGroup s { g with seen := if g.seen == 0 then s.nextId else g.seen }

/-- The copy has finished or stopped (R289, R290). -/
def copyOver (c : Copy) : Bool := c.st != .issued && c.st != .started

/-- Every copy that the group has issued has finished or stopped. -/
def copiesDone (g : Group) : Bool := g.copies.all copyOver

/-! ### Slots -/

/-- The charges of a region and of its ancestors changed (R48). -/
def chargeUp (s : State) (part region : Nat) (f : Region → Region) : State :=
  let ids := (chain s part region).map fun r => r.id
  { s with regions := s.regions.map fun r => if r.active && r.part == part && ids.contains r.id then f r else r }

/-- A use stays within every cap met on the way to the root (R47, R48). -/
def withinCaps (rs : List Region) (used cap : Region → Nat) (more : Nat) : Bool :=
  rs.all fun r => regionFlag r 2 || decide (used r + more ≤ cap r)

/-- Slots and tiles charged to a region and its ancestors, or released (R48). -/
def charge (s : State) (part region slots tiles : Nat) (up : Bool) : State :=
  chargeUp s part region fun r =>
    if up then { r with slots := r.slots + slots, tiles := r.tiles + tiles }
    else { r with slots := r.slots - slots, tiles := r.tiles - tiles }

/-- One die of a pre-emption request after a group has left its slot (R377): a draining group that ends has drained, any
other counts as saved. -/
def dieLeft (gid : Nat) (next : GStatus) (x : PreDie) : PreDie :=
  let d := x.draining.contains gid
  { x with
    draining := x.draining.filter fun n => n != gid
    saving := x.saving.filter fun n => n != gid
    drained := x.drained || (d && next == .ended)
    saved := x.saved || ((d || x.saving.contains gid) && next != .ended) }

/-- A group that leaves its slot is drained or saved for every request that waits for it, and counted: a drain, or a save
when it gave up the slot (R26, R377, R386). -/
def leftSlot (s : State) (g : Group) (next : GStatus) : State :=
  let d := s.preempts.any fun q => q.dies.any fun x => x.draining.contains g.gid
  let s1 := { s with
    preempts := s.preempts.map fun q => { q with dies := q.dies.map (dieLeft g.gid next) }
    leaseJobs := s.leaseJobs.map fun j => { j with waitFor := j.waitFor.filter fun n => n != g.gid } }
  if d && next == .ended then countRegion s1 g.part g.region 0x10 1
  else if d && next == .waiting then countRegion s1 g.part g.region 0x11 1
  else s1

/-- The number of groups of a task (R56). -/
def groupTotal (t : Task) : Nat := t.gx * t.gy * t.gz

/-- A group of a task is bound on a die or ready there; one that has never been bound is ready on the firing die (R74, R80). -/
def floorLives (s : State) (t : Task) (die : Nat) : Bool :=
  (s.groups.any fun g => g.part == t.part && g.task == t.handle &&
    (match g.status with
     | .bound d _ _ => d == die
     | .ready => g.die == die
     | _ => false)) ||
    (t.status == .fired && !t.faulted && ((t.firing == die && decide (t.next < groupTotal t)) || t.redo.any fun x => x.2 == die))

/-- A task's floor on a die ends when the task has no group bound or ready there (R74). -/
def floorEnd (s : State) (part task die : Nat) : State :=
  match task? s part task with
  | none => s
  | some t =>
    if t.floors.contains die && !floorLives s t die then putTask s { t with floors := t.floors.filter fun d => d != die } else s

/-- The floors of a task end on every die where it has no group bound or ready (R74). -/
def floorsEnd (s : State) (part task : Nat) : State :=
  match task? s part task with
  | none => s
  | some t => t.floors.foldl (fun s d => floorEnd s part task d) s

/-- A group leaves its slot: the charges are released, the slot remembers the partition, and its task's floor may end (R48,
R74, R86, R262). -/
def unbind (s : State) (gid : Nat) (next : GStatus) : State :=
  match group? s gid with
  | none => s
  | some g =>
    let s1 := putGroup s { g with status := next }
    match g.status with
    | .bound d c n =>
      let s2 := leftSlot { charge s1 g.part g.region 1 g.tcount false with
        lastHeld := Sparse.set s1.lastHeld (slotIx d c n) (BitVec.ofNat 8 (g.part + 1)) } g next
      if next == .ready then s2 else floorEnd s2 g.part g.task d
    | _ => s1

/-- A group joins the tail of its die's return list (R86). -/
def joinReady (s : State) (gid : Nat) : State :=
  let s1 := unbind s gid .ready
  { modGroup s1 gid (fun g => { g with readySeq := s1.nextId }) with nextId := s1.nextId + 1 }

/-- A group gives up its slot and sleeps (R93). -/
def sleep (s : State) (g : Group) (w : Wait) : State := unbind (putGroup s { g with wait := w }) g.gid .waiting

/-- A sleeping group's wait ends with a value: it joins the return list, and its instruction retires when it runs (R93). -/
def wake (s : State) (gid : Nat) (v : Word) : State :=
  joinReady (modGroup s gid fun g => { g with wait := .done v }) gid

/-! ### Context images (R369, R370) -/

/-- The physical place of byte `o` of a partition's context store (R369). -/
def storePlace (p : Part) (o : Nat) : Nat := p.storePages.getD (o / 0x10000) 0 + o % 0x10000

/-- Bytes written into a context store from `o` on, no more than a page's worth at a time. -/
def putStore (s : State) (p : Part) (o : Nat) (bs : List Byte) : State :=
  let room := 0x10000 - o % 0x10000
  if bs.length ≤ room then putKept s p.id (storePlace p o) bs
  else putKept (putKept s p.id (storePlace p o) (bs.take room)) p.id (storePlace p (o + room)) (bs.drop room)

/-- The state in which no page of a partition's context store is being zeroed (R267). DESIGN CHOICE (entry 54). -/
def storeReady (s : State) (part : Nat) : State :=
  match part? s part with
  | some p => p.storePages.foldl finishPage s
  | none => s

/-- `n` bytes of a context store from `o` on. -/
def getStore (s : State) (p : Part) (o : Nat) : Nat → List Byte
  | 0 => []
  | n + 1 => Sparse.get s.mem (storePlace p o) :: getStore s p (o + 1) n

/-- The size of an image: rounded up to a multiple of 4096 bytes (R369). -/
def imageSize (vcount tcount : Nat) : Nat := divUp (0x2080 + 384 * vcount + 16384 * tcount) 4096 * 4096

/-- The 512 bytes of 64 scalar registers (R369). -/
def scalarBytes (m : Sparse 64) : List Byte := ((List.range 64).map fun r => natToBytes 8 (sregIn m r).toNat).flatten

/-- The 528 bytes of a lane queue entry (R369). -/
def blockBytes (s : State) (g : Group) (b : LaneBlock) : List Byte :=
  natToBytes 8 (laneWordAt s g b.first).toNat ++ natToBytes 4 b.count ++ natToBytes 4 b.done ++ scalarBytes b.snap

/-- The state code of an image: 0 ready, 1 in `wwait`, 2 in `bar`, 3 in `launch`, 4 in a Creamline wait, 5 trapped (R369). -/
def imageState (g : Group) : Nat :=
  match g.status with
  | .trapped => 5
  | _ =>
    match g.wait with
    | .word _ | .woken => 1
    | .bar _ => 2
    | .launch => 3
    | .crel _ | .cacq _ | .cbar _ => 4
    | _ => 0

/-- The 136 bytes of a permutation register (R369). -/
def permBytes (q : Perm) : List Byte :=
  natToBytes 1 q.size ++ ((List.range 128).map fun i => BitVec.ofNat 8 (q.items.getD i i)) ++ natToBytes 7 0

/-- The 384 bytes of a vector register; lanes that are not live are zero (R143, R369). -/
def vregBytes (live : BitVec 96) (v : VReg) : List Byte :=
  ((List.range 96).map fun l => natToBytes 4 (if live.getLsbD l then (laneOf v l).toNat else 0)).flatten

/-- The 16,384 bytes of a tile (R369). -/
def tileBytes (t : Sparse 32) : List Byte := ((List.range 4096).map fun e => natToBytes 4 (Sparse.get t e).toNat).flatten

/-- The 128 bytes of a group's rename map (R139, R369). -/
def renameMap (g : Group) : List Byte :=
  (List.range 128).map fun i =>
    match (g.vregs.getD i ⟨.never, []⟩).st with
    | .never => 0#8
    | .live => 1#8
    | .dead => 2#8

/-- The pending faults of a group as an image body lays them out (R33, R369). -/
def pendingBytes (p : Pending) : List Byte :=
  bodyBytes ⟨0, (p.entries.map fun e => e.cause).headD 0, 0, p.entries, p.further, 0, 0, 0, 0, 0, 0, 0, 0, 0⟩

/-- A place as three numbers. -/
def locValues (l : Loc) : List Nat :=
  match l with
  | .mem p => [0, p, 0]
  | .scratch c o => [1, c, o]
  | .vreg g o => [2, g, o]
  | .tile g o => [3, g, o]
  | .peer k a => [4, k, a]

/-- The place that three numbers name. -/
def locOfValues (kind x y : Nat) : Loc :=
  match kind with
  | 0 => .mem x
  | 1 => .scratch x y
  | 2 => .vreg x y
  | 3 => .tile x y
  | _ => .peer x y

/-- A wait as four numbers (R369). -/
def waitValues (w : Wait) : List Nat :=
  match w with
  | .none => [0, 0, 0, 0]
  | .word l => 1 :: locValues l
  | .woken => [2, 0, 0, 0]
  | .bar id => [3, 0, id, 0]
  | .launch => [4, 0, 0, 0]
  | .crel t => [5, 0, t, 0]
  | .cacq n => [6, 0, n, 0]
  | .cbar t => [7, 0, t, 0]
  | .stop p => [8, 0, p, 0]
  | .done v => [9, 0, v.toNat, 0]

/-- The wait that four numbers name. -/
def waitOfValues (kind k x y : Nat) : Wait :=
  match kind with
  | 1 => .word (locOfValues k x y)
  | 2 => .woken
  | 3 => .bar x
  | 4 => .launch
  | 5 => .crel x
  | 6 => .cacq x
  | 7 => .cbar x
  | 8 => .stop x
  | 9 => .done (BitVec.ofNat 64 x)
  | _ => .none

/-- The engine state of a group as numbers: matrix and copy settings, ids and batch numbers, the wait, and of each block of the lane
queue the scalar PC and the skid that a lane trap reports (R369, R371). -/
def engineValues (g : Group) : List Nat :=
  let m := g.mset
  let c := g.cset
  [m.typeA, m.typeB, m.baseA.toNat, m.strideA.toNat, m.baseB.toNat, m.strideB.toNat, m.grp, m.param.toNat, m.tileD,
    if m.acc then 1 else 0, m.tileP, m.mcFirst, m.mcLast, m.mcOps,
    c.rowBytes, c.rows, c.srcStride.toNat, c.dstStride.toNat, c.doneAddr.toNat, c.doneValue.toNat, c.permMode, c.permReg,
    g.nextCmd, g.cmdBatch, g.nextCopy, g.copyBatch, (if g.fenced then 1 else 0) + 2 * g.wraps] ++
  waitValues g.wait ++
  (List.range 8).flatMap fun i =>
    match g.queue[i]? with
    | some b => [b.pc.toNat, b.skid]
    | none => [0, 0]

/-- The engine state of an image: each number in eight bytes, under the mask of the spec's unknown layout. DESIGN CHOICE (entry
10). -/
def engineBytes (g : Group) : List Byte :=
  let bs := ((engineValues g).map (natToBytes 8)).flatten
  (List.range 640).map fun i => bs.getD i 0 ^^^ Config.engineMask i

/-- The numbers of an image's engine state. -/
def engineOf (bs : List Byte) : List Nat :=
  let plain := (List.range 640).map fun i => bs.getD i 0 ^^^ Config.engineMask i
  (List.range 47).map fun i => bytesAt plain (8 * i) 8

/-- Every number of an engine state lies in its range (R233, R285, R370). -/
def engineOk (v : List Nat) : Bool :=
  let x (i : Nat) : Nat := v.getD i 0
  decide (x 0 < 16) && decide (x 1 < 16) && ([2, 3, 4, 5, 7].all fun i => x i % 64 == 0) && decide (x 6 < 4) && decide (x 8 < 8) &&
    decide (x 9 < 2) && decide (x 10 < 8) && decide (x 11 ≤ x 12) && decide (x 12 < 192) && decide (x 13 < 4) &&
    decide (x 14 ≤ 1048576) && decide (x 15 ≤ 65536) && x 18 % 8 == 0 &&
    decide (x 20 ≤ 2) && decide (x 21 < 16) && decide (1 ≤ x 22) && decide (x 22 < 2 ^ 32) && decide (x 23 < 2 ^ 32) &&
    decide (1 ≤ x 24) && decide (x 24 < 2 ^ 32) && decide (x 25 < 2 ^ 32) && decide (x 26 < 32) && decide (x 27 ≤ 9) && decide (x 28 ≤ 4)

/-- The matrix settings of an engine state (R233). -/
def engineMatrix (v : List Nat) : MatrixSet :=
  let x (i : Nat) : Nat := v.getD i 0
  let w (i : Nat) : Word := BitVec.ofNat 64 (x i)
  { typeA := x 0, typeB := x 1, baseA := w 2, strideA := w 3, baseB := w 4, strideB := w 5, grp := x 6, param := w 7, tileD := x 8,
    acc := x 9 == 1, tileP := x 10, mcFirst := x 11, mcLast := x 12, mcOps := x 13 }

/-- The copy settings of an engine state (R285). -/
def engineCopy (v : List Nat) : CopySet :=
  let x (i : Nat) : Nat := v.getD i 0
  let w (i : Nat) : Word := BitVec.ofNat 64 (x i)
  { rowBytes := x 14, rows := x 15, srcStride := w 16, dstStride := w 17, doneAddr := w 18, doneValue := w 19, permMode := x 20,
    permReg := x 21 }

/-- The wait that a group has when it is restored: one that has ended meanwhile has ended; else the image's, as far as its state
byte says that the group waits and, for what the package keeps, the package knows of it (R369, R370). DEDUCED (entry 27). -/
def engineWait (now : Wait) (state : Nat) (v : List Nat) : Wait :=
  let w := waitOfValues (v.getD 27 0) (v.getD 28 0) (v.getD 29 0) (v.getD 30 0)
  match now with
  | .done _ | .woken => now
  | _ =>
    if state == 5 then .none
    else if state == 0 then
      match w with
      | .done _ | .stop _ => w
      | _ => .none
    else
      match w with
      | .launch | .crel _ | .cacq _ | .cbar _ => if now == w then w else .none
      | _ => w

/-- The first 0x2080 bytes of an image (R369). DESIGN CHOICE (entry 10). -/
def imageHead (s : State) (g : Group) (body : List Byte) : List Byte :=
  natToBytes 4 g.task ++ natToBytes 4 g.index ++ natToBytes 8 g.pc.toNat ++ natToBytes 8 (lanePc s g).toNat ++
    natToBytes 1 g.queue.length ++ natToBytes 1 (imageState g) ++ natToBytes 6 0 ++
    natToBytes 8 g.mode.toNat ++ natToBytes 8 g.seed.toNat ++ natToBytes 8 g.pinned.toNat ++ natToBytes 8 g.retiredS.toNat ++
    natToBytes 8 g.retiredL.toNat ++ natToBytes 8 g.stamp ++ natToBytes 12 g.live.toNat ++ natToBytes 164 0 ++
    scalarBytes g.scalars ++
    ((List.range 8).map fun i =>
      match g.queue[i]? with
      | some b => blockBytes s g b
      | none => natToBytes 528 0).flatten ++
    ((List.range 16).map fun i => permBytes (g.perms.getD i ⟨128, [], false⟩)).flatten ++ body ++ engineBytes g ++
    ((List.range 11).map fun n => natToBytes 8 (Sparse.get g.prov n).toNat).flatten ++
    natToBytes 4 g.chooseS ++ natToBytes 4 g.chooseM ++ natToBytes 4 g.chooseX ++ natToBytes 28 0 ++ renameMap g

/-- The pieces of an image without the vector registers, with their offsets (R369). -/
def imageCore (s : State) (g : Group) (body : List Byte) : List (Nat × List Byte) :=
  (0, imageHead s g body) ::
    (List.range g.tcount).map fun i => (0x2080 + 384 * g.vcount + 16384 * i, tileBytes (g.tiles.getD i []))

/-- The pieces of an image with their offsets (R369); of the registers, those that are live and dirty are written (R139). -/
def imagePieces (s : State) (g : Group) (body : List Byte) : List (Nat × List Byte) :=
  imageCore s g body ++ (List.range g.vcount).filterMap fun i =>
    match g.vregs[i]? with
    | some v => if v.st == .live && g.dirty.getLsbD i then some (0x2080 + 384 * i, vregBytes g.live v) else none
    | none => none

/-- The image of a group written to its place in the context store (R369, R378). -/
def saveImage (s : State) (gid : Nat) (body : List Byte) : State :=
  match group? s gid with
  | none => s
  | some g =>
    match part? s g.part, g.image with
    | some p, some o =>
      modGroup ((imagePieces s g body).foldl (fun s x => putStore s p (o + x.1) x.2) s) gid fun g =>
        { g with saved := true, dirty := 0 }
    | _, _ => s

/-- Bytes of a group's image written, where the group has one (R138, R139). -/
def putImage (s : State) (gid off : Nat) (bs : List Byte) : State :=
  match group? s gid with
  | none => s
  | some g =>
    match part? s g.part, g.image with
    | some p, some o => putStore s p (o + off) bs
    | _, _ => s

/-- A group that is rotated: its context goes into its image but for its vector registers, whose lines are only marked
evictable, and it joins its die's return list (R92, R95, R139, R246). -/
def rotateOut (s : State) (gid : Nat) : State :=
  match group? s gid with
  | none => s
  | some g => joinReady ((imageCore s g (pendingBytes g.pend)).foldl (fun s x => putImage s gid x.1 x.2) s) gid

/-- A dirty register line of a group is taken and written to its owner's image (R138). -/
def writeBack (s : State) (gid reg : Nat) : State :=
  match group? s gid with
  | none => s
  | some g =>
    match g.vregs[reg]? with
    | some v =>
      if v.st == .live && g.dirty.getLsbD reg && g.image.isSome then
        modGroup (putImage s gid (0x2080 + 384 * reg) (vregBytes g.live v)) gid fun g =>
          { g with dirty := g.dirty &&& ~~~(BitVec.ofNat 128 (2 ^ reg)) }
      else s
    | none => s

/-- Where a group's image lies, as a body names it (R33). -/
def imageAddr (s : State) (g : Group) : Nat :=
  match part? s g.part, g.image with
  | some p, some o => p.storeBase + o
  | _, _ => 0

/-- The mode value is one that an `swr` may write (R145). -/
def modeRoundsOk (v : Nat) : Bool := (List.range 8).all fun i => decide (bits v (4 * i) 3 ≤ 5)

/-- The items of an image's permutation register name each of its `n` items once (R250, R369). -/
def isPermutation (n : Nat) (items : List Nat) : Bool :=
  items.length == n && (List.range n).all fun i => items.contains i

/-- An image as bytes, field by field (R369). -/
structure ImageView where
  head : List Byte
  vregs : List (List Byte)
  tiles : List (List Byte)

/-- The `n`-byte words of a list of bytes. -/
def wordsOf (n : Nat) (bs : List Byte) (count : Nat) : List Nat := (List.range count).map fun i => bytesAt bs (n * i) n

/-- The scalar registers of 512 bytes. -/
def scalarsOf (bs : List Byte) : Sparse 64 := Sparse.ofList 0 ((wordsOf 8 bs 64).map (BitVec.ofNat 64))

/-- An image read back (R370). -/
def readImage (s : State) (p : Part) (g : Group) (o : Nat) : ImageView :=
  { head := getStore s p o 0x2080
    vregs := (List.range g.vcount).map fun i => getStore s p (o + 0x2080 + 384 * i) 384
    tiles := (List.range g.tcount).map fun i => getStore s p (o + 0x2080 + 384 * g.vcount + 16384 * i) 16384 }

/-- An image's lane queue entry `i` (R369); the first lane word is one of the task's lane code. -/
def viewBlock (s : State) (g : Group) (h : List Byte) (i : Nat) : LaneBlock :=
  let b := h.drop (0x300 + 528 * i)
  let e := engineOf (h.drop 0x1D00)
  ⟨((BitVec.ofNat 64 (bytesAt b 0 8)) - laneBase s g).toNat / 12, bytesAt b 8 4, bytesAt b 12 4, scalarsOf (b.drop 16),
    BitVec.ofNat 64 (e.getD (31 + 2 * i) 0), e.getD (32 + 2 * i) 0⟩

/-- An image's permutation register `i` (R369). -/
def viewPerm (h : List Byte) (i : Nat) : Perm :=
  let b := h.drop (0x1380 + 136 * i)
  let n := bytesAt b 0 1
  ⟨n, (wordsOf 1 (b.drop 1) 128).take n, false⟩

/-- An image's pending faults (R33, R369). -/
def viewPending (h : List Byte) : Pending :=
  let b := h.drop 0x1C00
  ⟨(List.range (bytesAt b 0x0A 1)).map fun i =>
      let e := b.drop (0x40 + 16 * i)
      ⟨BitVec.ofNat 64 (bytesAt e 0 8), bytesAt e 8 1, bytesAt e 9 1, bytesAt e 10 1, bytesAt e 11 1, bytesAt e 12 1⟩,
    bytesAt b 0x0C 4, List.replicate (bytesAt b 0x0A 1) 0, 0, 0⟩

/-- Every field of an image lies in its range (R370). The fields checked are DEDUCED (entry 27). -/
def imageOk (s : State) (g : Group) (v : ImageView) : Bool :=
  let h := v.head
  let q := bytesAt h 0x18 1
  bytesAt h 0 4 == g.task && bytesAt h 4 4 == g.index && bytesAt h 8 8 % 4 == 0 && decide (q ≤ 8) &&
    decide (bytesAt h 0x19 1 ≤ 5) && bytesAt h 0x1A 6 == 0 && decide (bytesAt h 0x20 8 < 2 ^ 44) &&
    modeRoundsOk (bytesAt h 0x20 8) && decide (bytesAt h 0x50 12 < 2 ^ g.lanes) && bytesAt h 0x5C 164 == 0 &&
    ((List.range q).all fun i =>
      let b := viewBlock s g h i
      ((BitVec.ofNat 64 (bytesAt (h.drop (0x300 + 528 * i)) 0 8)) - laneBase s g).toNat % 12 == 0 &&
        decide (1 ≤ b.count) && decide (b.count ≤ 256) && decide (b.done < b.count)) &&
    (q == 0 || bytesAt h 0x10 8 == (laneWordAt s g ((viewBlock s g h 0).first + (viewBlock s g h 0).done)).toNat) &&
    ((List.range 16).all fun i =>
      let p := viewPerm h i
      let b := h.drop (0x1380 + 136 * i)
      decide (2 ≤ p.size) && decide (p.size ≤ 128) && isPermutation p.size p.items && bytesAt b 129 7 == 0 &&
        (List.range 128).all fun k => decide (k < p.size) || bytesAt b (1 + k) 1 == k) &&
    engineOk (engineOf (h.drop 0x1D00)) &&
    decide (bytesAt h 0x1C0A 1 ≤ 8) && bytesAt h 0x1FE4 28 == 0 &&
    ((List.range 128).all fun i =>
      decide (bytesAt h (0x2000 + i) 1 ≤ (if i < g.vcount then 2 else 0)))

/-- The group that an image describes; a trapped group's faults have been reported, but those of copies that stopped since (R291,
R369 to R371). An image does not tell of what kind the faults are that it only counts: the group's record does. -/
def groupOfView (s : State) (g : Group) (v : ImageView) : Group :=
  let h := v.head
  let live : BitVec 96 := BitVec.ofNat 96 (bytesAt h 0x50 12)
  let mask (m : Sparse 64) : Sparse 64 :=
    [61, 62, 63].foldl (fun m r => setSregIn m live r (sregIn m r)) (Sparse.set m 0 0)
  let e := engineOf (h.drop 0x1D00)
  { g with
    saved := false
    dirty := 0
    mset := engineMatrix e
    cset := engineCopy e
    nextCmd := e.getD 22 0
    cmdBatch := e.getD 23 0
    nextCopy := e.getD 24 0
    copyBatch := e.getD 25 0
    fenced := e.getD 26 0 % 2 == 1
    wraps := e.getD 26 0 / 2
    wait := engineWait g.wait (bytesAt h 0x19 1) e
    pc := BitVec.ofNat 64 (bytesAt h 8 8)
    mode := BitVec.ofNat 64 (bytesAt h 0x20 8)
    seed := BitVec.ofNat 64 (bytesAt h 0x28 8)
    pinned := BitVec.ofNat 64 (bytesAt h 0x30 8)
    retiredS := BitVec.ofNat 64 (bytesAt h 0x38 8)
    retiredL := BitVec.ofNat 64 (bytesAt h 0x40 8)
    stamp := bytesAt h 0x48 8
    live := live
    scalars := mask (scalarsOf (h.drop 0x100))
    queue := (List.range (bytesAt h 0x18 1)).map fun i => viewBlock s g h i
    perms := (List.range 16).map fun i => viewPerm h i
    pend := if bytesAt h 0x19 1 == 5 then g.pend else { viewPending h with refused := g.pend.refused, instrs := g.pend.instrs }
    prov := Sparse.ofList 0 ((wordsOf 8 (h.drop 0x1F80) 11).map (BitVec.ofNat 64))
    chooseS := bytesAt h 0x1FD8 4
    chooseM := bytesAt h 0x1FDC 4
    chooseX := bytesAt h 0x1FE0 4
    vregs := (List.range g.vcount).map fun i =>
      match bytesAt h (0x2000 + i) 1 with
      | 1 => ⟨.live, (wordsOf 4 (v.vregs.getD i []) 96).map (BitVec.ofNat 32)⟩
      | 2 => ⟨.dead, []⟩
      | _ => ⟨.never, []⟩
    tiles := (List.range g.tcount).map fun i => Sparse.ofList 0 ((wordsOf 4 (v.tiles.getD i []) 4096).map (BitVec.ofNat 32)) }

/-- The image can be read: its pages are the partition's still, and no line of it has an uncorrectable error (R18, R263). -/
def imageReadable (s : State) (p : Part) (o n : Nat) : Bool :=
  (List.range ((o + n - 1) / 0x10000 + 1 - o / 0x10000)).all fun k =>
    let lo := Nat.max o ((o / 0x10000 + k) * 0x10000)
    let hi := Nat.min (o + n) ((o / 0x10000 + k + 1) * 0x10000)
    pageOwned s p.id (storePlace p lo) && !rangeBad s (storePlace p lo) (hi - lo)

/-- A saved group restored from its image; none when a field lies outside its range, or cannot be read (R370). That an image which
cannot be read ends the group is DEDUCED (entry 27). -/
def restoreImage (s : State) (g : Group) : Option Group :=
  match part? s g.part, g.image with
  | some p, some o =>
    let v := readImage s p g o
    if imageReadable s p o (imageSize g.vcount g.tcount) && imageOk s g v then some (groupOfView s g v) else none
  | _, _ => some g

/-! ### The end of a group -/

/-- The provisional counts of a group added to its region's counters from `base` on, and cleared (R388). -/
def flushProv (s : State) (gid base : Nat) : State :=
  match group? s gid with
  | none => s
  | some g =>
    modGroup (g.prov.foldl (fun s x => countRegion s g.part g.region (base + x.1) x.2.toNat) s) gid
      fun g => { g with prov := [] }

/-- Of a group that exits: its core, and the model's clock at its bind and now (R377). -/
def spanOf (s : State) (g : Group) : List (Nat × Nat × Nat) :=
  match g.status with
  | .bound d c _ => [(d * 192 + c, g.boundAt, s.clock)]
  | _ => []

/-- A group ends: it leaves its slot, its image and its lines are freed, its work is counted, and its task is told (R171,
R371, R388). -/
def endGroup (s : State) (gid : Nat) (faulted : Bool) : State :=
  match group? s gid with
  | none => s
  | some g =>
    let s1 := flushProv (unbind s gid .ended) gid 0
    let s2 := countRegion s1 g.part g.region (if faulted then 0x16 else 0x15) 1
    let s3 := modGroup s2 gid fun g =>
      { g with image := none, saved := false, wait := .none, vregs := [], tiles := [], queue := [], bodyState := .none, traces := [] }
    match task? s3 g.part g.task with
    | none => s3
    | some t =>
      let s4 := putTask s3 { t with
        ended := t.ended ++ [g.index], faulted := t.faulted || faulted, spans := if faulted then t.spans else t.spans ++ spanOf s g }
      if faulted then floorsEnd s4 g.part g.task else s4

/-- A group ends after a fault with no handler; if it was a handler's group, so does the group it served, if that still waits
for its disposition (R374, R375). -/
def endFaulted (s : State) (gid : Nat) : State :=
  match group? s gid with
  | none => s
  | some g =>
    let s1 := endGroup s gid true
    match task? s g.part g.task with
    | some t =>
      if t.handler && ((group? s1 t.serves).any fun h => h.status == .trapped && h.bodyState == .handling) then
        endGroup s1 t.serves true
      else s1
    | none => s1

/-! ### Taking a trap (R371 to R375) -/

/-- The body of a trapped group goes to the buffer of its fault domain if that is free and no earlier body waits, and its
handler fires; whether it was written (R373, R374). -/
def deliverBody (s : State) (gid : Nat) (d : Region) (buf handler : Nat) (bs : List Byte) : State × Bool :=
  let w := writeBody s d buf handler gid true bs
  (if w.2 then modGroup w.1 gid fun g => { g with bodyState := .handling, body := bs } else s, w.2)

/-- What a trap says: its own cause, whether it is a lane trap, and the access entry of a fetch that failed (R98, R371). -/
structure Trap where
  cause : Nat
  lane : Bool
  entry : Option AccessEntry

/-- The cause that the body carries: `trap` takes a pending memory cause (R174, R371). -/
def trapCause (g : Group) (t : Trap) : Nat :=
  if t.cause == 0x20 then (g.pend.entries.map fun e => e.cause).headD 0x20 else t.cause

/-- The pending faults and the trap's own entry, as the body lists them (R98, R371). -/
def trapPending (g : Group) (t : Trap) : Pending :=
  match t.entry with
  | none => g.pend
  | some e => pendAdd g.pend (g.pend.keys.foldl Nat.max 0) e

/-- The body of a trap (R33, R371). -/
def trapBody (s : State) (g : Group) (t : Trap) : BodyInfo :=
  let p := trapPending g t
  let c := trapCause g t
  let head := g.queue.headD ⟨0, 0, 0, [], g.pc, 0⟩
  { ordinal := nextOrdinal s g.part, cause := c, cls := causeClass c, entries := p.entries, further := p.further,
    scalarPc := (if t.lane then head.pc else g.pc).toNat, lanePc := if t.lane then (lanePc s g).toNat else 0,
    skid := if t.lane then head.skid else 0, ix := g.ix, iy := g.iy, iz := g.iz, task := g.task, region := g.region,
    image := imageAddr s g }

/-- The envelope's detail of a trap of a class with its pending faults: the faulting accesses, or those and the instructions
that were refused (R22, R31). -/
def trapDetail (cls : Nat) (p : Pending) : Nat :=
  if cls == 3 then (p.entries.filter fun e => e.kind != 5).length + (p.further - p.instrs)
  else if cls == 4 then (p.entries.filter fun e => e.cause == 0x13).length + p.refused
  else 0

/-- Taking a trap: it waits for the group's commands and for its answers from peers; then the pending faults go into the
body and are cleared, the image is saved with the body, the slot is released, the envelope is sent, and the body goes to
the fault domain's buffer and its handler, or the group ends (R371, R373, R374, R375). The wait is DEDUCED (entry 19). -/
def takeTrap (s : State) (g : Group) (t : Trap) : State :=
  if !cmdsDone g || !peersDone g then s
  else
    let b := trapBody s g t
    let bs := bodyBytes b
    let detail := trapDetail b.cls (trapPending g t)
    let isHandler := (task? s g.part g.task).any fun x => x.handler
    let place := groupPlace g
    let s1 := unbind (putGroup s { g with
        pend := ⟨[], 0, [], 0, 0⟩, peers := readsAgain g.peers, wait := .none, body := bs, ordinal := b.ordinal, bodyState := .none }) g.gid .trapped
    let s2 := saveImage s1 g.gid bs
    match domainOf s2 g.part g.region with
    | none => endFaulted (envelope s2 .operator b.cls (if isHandler then 4 else 0) detail place) g.gid
    | some (d, buf, handler) =>
      if isHandler then
        let w := tryBody s2 g.part buf bs
        endFaulted (envelope w.1 .operator b.cls (if w.2 then 5 else 4) detail place) g.gid
      else if handler == 0 then
        let w := tryBody s2 g.part buf bs
        endFaulted (envelope w.1 .operator b.cls (if w.2 then 1 else 0) detail place) g.gid
      else
        let w := if (bodiesWaiting s2 g.part buf).isEmpty then deliverBody s2 g.gid d buf handler bs else (s2, false)
        let s3 := envelope w.1 .operator b.cls (if w.2 then 1 else 0) detail place
        if w.2 then s3 else modGroup s3 g.gid fun g => { g with bodyState := .waiting }

/-- A precise trap of the scalar stream, at its own instruction with skid 0 (R371). -/
def trapScalar (s : State) (g : Group) (cause : Nat) : State := takeTrap s g ⟨cause, false, none⟩

/-- A precise trap of the lane stream, at the trapping lane word (R371). -/
def trapLane (s : State) (g : Group) (cause : Nat) : State := takeTrap s g ⟨cause, true, none⟩

/-- The return from a trap: the disposition in the buffer's first dword resumes the group from its image, or ends it; any
other value does nothing (R374). -/
def trapReturn (s : State) (g : Group) (disposition : Nat) : State :=
  if disposition == 0 then joinReady (modGroup s g.gid fun g => { g with bodyState := .none, body := [] }) g.gid
  else if disposition == 2 ^ 64 - 1 then endFaulted s g.gid
  else s

/-- What acts as `xfence`: the group waits for its answers from peers, traps on its first pending cause, or goes on (R168). -/
def xfenceThen (s : State) (g : Group) (k : State) : State :=
  if !peersDone g then s
  else
    match g.pend.entries with
    | [] => k
    | e :: _ => trapScalar s g e.cause

/-- A refused instruction: a pending entry of kind 5 and the envelope of its governing authority, whose place is the executing
group's; a region counts it if the envelope is of the group's own partition (R22, R386, R418). DEDUCED (entry 21). -/
def refuse (s : State) (g : Group) (govPart : Nat) : State :=
  let s1 := notePending s g.gid ⟨g.pc, 0xFB, 5, 4, 0x13, 0⟩ none
  let p := { groupPlace g with part := govPart }
  if govPart == g.part then envelope s1 (governor govPart) 4 0 1 p else envelopePlain s1 (governor govPart) 4 0 1 p

/-- A precise trap of the scalar stream on a field that R120 does not allow; else the instruction goes on. -/
def scalarOk (ok : Bool) (s : State) (g : Group) (k : State) : State := if ok then k else trapScalar s g 0x01

end Sys2Proof.Machine
end

