-- ==== Sys2Proof/Machine/Operands.lean ====
section
/-! DEFINITION. The operands of lane instructions: what a source supplies to a lane (R114 to R117, R136, R141, R142, R419),
which registers a word names (R57, R118, R120), and how its results are written and its last-read bits take effect (R137,
R143). -/

namespace Sys2Proof.Machine

/-- What a lane instruction reads with: its group, the scalar registers as its place in program order gives them (R132),
the lanes per group, the active and the live lanes (R131). -/
structure LaneCtx where
  g : Group
  sc : Sparse 64
  n : Nat
  act : Nat
  live : Nat

/-- The scalar registers that the next lane word reads: its block's snapshot (R100, R132). -/
def laneScalars (g : Group) : Sparse 64 :=
  match g.queue with
  | [] => g.scalars
  | b :: _ => b.snap

/-- The context of a group's next lane word. -/
def laneCtx (g : Group) : LaneCtx :=
  let sc := laneScalars g
  let live := g.live.toNat % 2 ^ g.lanes
  ⟨g, sc, g.lanes, tripleIn sc 61 &&& live, live⟩

/-- Lane `i` is active (R131). -/
def LaneCtx.active (c : LaneCtx) (i : Nat) : Bool := bitOf c.act i

/-- Lane `i` is live (R131). -/
def LaneCtx.isLive (c : LaneCtx) (i : Nat) : Bool := bitOf c.live i

/-- The active lanes, ascending. -/
def LaneCtx.lanes (c : LaneCtx) : List Nat := (List.range c.n).filter fun i => c.active i

/-- The number of active lanes (R386). -/
def LaneCtx.count (c : LaneCtx) : Nat := c.lanes.length

/-- The lane that lane `i` reads under a pattern; none where the table of R141 gives a negative number. -/
def patternLane (p : Pattern) (n i : Nat) : Option Nat :=
  let k := p.param.toNat
  match p.code with
  | .identity => some i
  | .butterfly => some (i ^^^ 2 ^ k)
  | .rotate => some (i / 8 * 8 + (i + k) % 8)
  | .reverse => if k == 7 then some (n - 1 - i) else some (i ^^^ (2 ^ k - 1))
  | .replicate => some k
  | .up => if i < k then none else some (i - k)
  | .down => some (i + k)

/-- Lane `j` of vector register `r` as another lane reads it: zero out of range, exited or never written (R142). -/
def regLane (c : LaneCtx) (r j : Nat) : Nat :=
  if j < c.n && c.isLive j then
    match c.g.vregs[r]? with
    | some v => (laneOf v j).toNat
    | none => 0
  else 0

/-- Lane `j` of a register, or of a pair for a 64-bit type (R184). -/
def regValue (c : LaneCtx) (wide : Bool) (r j : Nat) : Nat :=
  if wide then regLane c r j + 2 ^ 32 * regLane c (r + 1) j else regLane c r j

/-- The number of elements of a type in a lane (R184). -/
def elemCount (t : DType) : Nat := if 32 ≤ dtypeWidth t then 1 else 32 / dtypeWidth t

/-- Element `j` of a lane's value (R184). -/
def elem (t : DType) (v j : Nat) : Nat := bits v (j * dtypeWidth t) (dtypeWidth t)

/-- The lane value with the given elements. -/
def packElems (t : DType) (es : List Nat) : Nat := es.foldr (fun e acc => acc * 2 ^ dtypeWidth t + e % 2 ^ dtypeWidth t) 0

/-- A value in every element of a lane (R115, R116). -/
def splat (t : DType) (v : Nat) : Nat := packElems t (List.replicate (elemCount t) v)

/-- The value of an immediate source in one element (R115). -/
def immElem (t : DType) (imm : BitVec 21) : Nat :=
  if dtypeFloat t then
    (if t == .f32 then imm.toNat * 2 ^ 11
     else (fconvert rneCtx (fmtOf t) (fdecode (fmtOf .f32) (imm.toNat * 2 ^ 11))).bits)
  else intBits (dtypeWidth t) imm.toInt

/-- The value of a special source: lane index, group index x, zero, live bit (R114). -/
def specialSource (c : LaneCtx) (sel i : Nat) : Nat :=
  match sel with
  | 0 => i
  | 1 => c.g.ix
  | 3 => if c.isLive i then 1 else 0
  | _ => 0

/-- What lane `i` reads from a source that is read as type `t` (R114 to R116, R141, R142, R419). -/
def srcLane (c : LaneCtx) (x : LaneSrc) (p : Pattern) (imm : BitVec 21) (t : DType) (i : Nat) : Nat :=
  match x.kind with
  | .vector =>
    match patternLane p c.n i with
    | some j => regValue c (dtypeWide t) x.field.toNat j
    | none => 0
  | .scalar =>
    let v := (sregIn c.sc (x.field.toNat % 64)).toNat
    if dtypeWide t then v else v % 2 ^ 32
  | .imm => splat t (immElem t imm)
  | .special => splat t (specialSource c x.field.toNat i)

/-- The identity pattern, which source C always has (R114). -/
def noPattern : Pattern := ⟨.identity, 0#7⟩

/-- Sources A, B and C of a word, read as type `t`. -/
def srcA (c : LaneCtx) (w : LaneOps) (t : DType) (i : Nat) : Nat := srcLane c w.a w.patA w.imm t i
def srcB (c : LaneCtx) (w : LaneOps) (t : DType) (i : Nat) : Nat := srcLane c w.b w.patB w.imm t i
def srcC (c : LaneCtx) (w : LaneOps) (t : DType) (i : Nat) : Nat := srcLane c w.c noPattern w.imm t i

/-! ### Registers named -/

/-- The vector registers that a field names: how many from the field's number on, and whether the number must be even. A
count of 0 is a field that names none. -/
structure RegUse where
  count : Nat
  even : Bool
  deriving DecidableEq, Repr

/-- No register. -/
def useNone : RegUse := ⟨0, false⟩

/-- A value of a type: one register, or an even pair (R118). -/
def useOf (t : DType) : RegUse := if dtypeWide t then ⟨2, true⟩ else ⟨1, false⟩

/-- A 32-bit index or offset of an instruction of type `t`: the even register of a pair (R136). -/
def useIndex (t : DType) : RegUse := ⟨1, dtypeWide t⟩

/-- `n` consecutive registers (R219). -/
def useMany (n : Nat) : RegUse := ⟨n, false⟩

/-- The uses of A, B, C and of the destination. -/
structure RegUses where
  a : RegUse
  b : RegUse
  c : RegUse
  d : RegUse
  deriving DecidableEq, Repr

/-- A source's use, none unless its kind is a vector register. -/
def useSrc (x : LaneSrc) (u : RegUse) : RegUse := if x.kind == .vector then u else useNone

/-- The tiles that a word names: the first, how many from it on, and whether the first must be even (R231). -/
structure TileUse where
  first : Nat
  count : Nat
  even : Bool
  deriving DecidableEq, Repr

/-- No tile. -/
def noTiles : TileUse := ⟨0, 0, false⟩

/-- Steps 4, 5 and 6 of R120: a register or tile at or above the declared count, an odd register or tile of a pair, a dead
source. -/
def regCheck (g : Group) (w : LaneOps) (u : RegUses) (t : TileUse) : Option Nat :=
  let srcs := [(w.a.field.toNat, useSrc w.a u.a), (w.b.field.toNat, useSrc w.b u.b), (w.c.field.toNat, useSrc w.c u.c)]
  let all := (w.vd.toNat, u.d) :: srcs
  if (all.any fun x => x.2.count != 0 && decide (g.vcount < x.1 + x.2.count)) ||
      (t.count != 0 && decide (g.tcount < t.first + t.count)) then some 0x01
  else if (all.any fun x => x.2.even && x.2.count != 0 && x.1 % 2 == 1) || (t.even && t.first % 2 == 1) then some 0x0B
  else if srcs.any fun x => (List.range x.2.count).any fun k => (g.vregs.getD (x.1 + k) ⟨.never, []⟩).st == .dead then
    some 0x03
  else none

/-- The registers that the last-read bits of a word make dead (R137). -/
def lastRead (w : LaneOps) (u : RegUses) : List Nat :=
  let one (x : LaneSrc) (y : RegUse) : List Nat :=
    if x.last then (List.range (useSrc x y).count).map fun k => x.field.toNat + k else []
  one w.a u.a ++ one w.b u.b ++ one w.c u.c

/-! ### Results -/

/-- What a lane instruction has computed: for each destination register the words of its lanes, the triple's bits, the
scalar result, the exceptions of its active lanes, whether it draws, its effect on permutation registers and tiles, and the tiles
that it writes. -/
structure LaneOut where
  vec : List (Nat × List Nat)
  triple : Option Nat
  scalar : Option Word
  ex : Nat
  draws : Bool
  eff : Group → Group
  tiles : List Nat

/-- No result. -/
def laneNothing : LaneOut := ⟨[], none, none, 0, false, id, []⟩

/-- The words of one register after a write: active lanes take the result, inactive live lanes keep or are cleared, lanes
that are not live hold zero (R143). -/
def mergeLanes (c : LaneCtx) (mz : Bool) (r : Nat) (new : List Nat) : List Word32 :=
  let old := (c.g.vregs.getD r ⟨.never, []⟩)
  (List.range c.n).map fun i =>
    if c.active i then BitVec.ofNat 32 (new.getD i 0)
    else if mz || !c.isLive i then 0
    else laneOf old i

/-- The registers after the last-read bits and the writes, in that order (R137). DEDUCED (entry 51). -/
def writeRegs (c : LaneCtx) (w : LaneOps) (u : RegUses) (vec : List (Nat × List Nat)) : List VReg :=
  let killed := (lastRead w u).foldl (fun vs r => listSet vs r ⟨.dead, []⟩) c.g.vregs
  vec.foldl (fun vs x => listSet vs x.1 ⟨.live, mergeLanes c w.mz x.1 x.2⟩) killed

/-- Vector registers marked as written since the image held them (R138). -/
def dirtyRegs (d : BitVec 128) (regs : List Nat) : BitVec 128 := regs.foldl (fun d r => d ||| BitVec.ofNat 128 (2 ^ r)) d

/-- A lane instruction's results take effect, or the word traps on an enabled exception; then it retires (R137, R143, R189,
R195, R207); groups that watch a register or tile that it writes are woken (R170). -/
def laneCommit (s : State) (c : LaneCtx) (w : LaneOps) (u : RegUses) (o : LaneOut) : State :=
  match exceptionCause c.g.mode o.ex with
  | some cause => trapLane s c.g cause
  | none =>
    let g1 := { o.eff c.g with vregs := writeRegs c w u o.vec, dirty := dirtyRegs c.g.dirty (o.vec.map fun x => x.1),
                               mode := setSticky c.g.mode o.ex,
                               seed := if o.draws then advanceSeed c.g.seed else c.g.seed }
    let g2 := match o.triple with
      | some v => setTripleLane g1 (w.vd.toNat % 64) v
      | none => g1
    let g3 := match o.scalar with
      | some v => setSregLane g2 (w.vd.toNat % 64) v
      | none => g2
    wakeRegs (retireLane s g3 c.count) c.g.gid (o.vec.map fun x => x.1) o.tiles

/-- A lane word is checked by R120, and goes on as `k` says. -/
def laneThen (s : State) (op : Nat) (w : LaneOps) (u : RegUses) (t : TileUse) (k : LaneCtx → State) :
    Host.Outcome State Fault Refusal :=
  onGroup s fun g =>
    match laneCheck (rawLane op w) with
    | some e => trapLane s g e.cause
    | none =>
      match regCheck g w u t with
      | some cause => trapLane s g cause
      | none => k (laneCtx g)

/-- A lane word is checked by R120, computes, and takes effect. -/
def laneOp (s : State) (op : Nat) (w : LaneOps) (u : RegUses) (f : LaneCtx → LaneOut) :
    Host.Outcome State Fault Refusal :=
  laneThen s op w u noTiles fun c => laneCommit s c w u (f c)

/-- The words of the destination, or of the pair, that hold the lanes' values (R184). -/
def vecOf (t : DType) (vd : Nat) (vals : List Nat) : List (Nat × List Nat) :=
  if dtypeWide t then [(vd, vals.map fun v => v % 2 ^ 32), (vd + 1, vals.map fun v => v / 2 ^ 32)] else [(vd, vals)]

/-- The union of the exceptions of a list of results. -/
def exUnion (rs : List FRes) : Nat := rs.foldl (fun a r => a ||| r.ex) 0

/-- The elements of one lane computed and packed. -/
def packRes (t : DType) (rs : List FRes) : FRes := ⟨packElems t (rs.map fun r => r.bits), exUnion rs⟩

/-- A result for each lane, of which only the active lanes' exceptions count (R195). -/
def elementwise (c : LaneCtx) (t : DType) (vd : Nat) (draws : Bool) (f : Nat → FRes) : LaneOut :=
  let rs := (List.range c.n).map fun i => if c.active i then f i else ⟨0, 0⟩
  { laneNothing with vec := vecOf t vd (rs.map fun r => r.bits), ex := exUnion rs, draws := draws }

/-- The bits of the lanes that are active and pass (R212). -/
def laneBits (c : LaneCtx) (f : Nat → Bool) : Nat :=
  (List.range c.n).foldl (fun a i => if c.active i && f i then a + 2 ^ i else a) 0

end Sys2Proof.Machine
end

