-- ==== Sys2Proof/Machine/LaneInt.lean ====
section
/-! DEFINITION. The integer lane instructions, 0x00 to 0x16 (R209 to R212). -/

namespace Sys2Proof.Machine

/-- An exact integer result wrapped, or clamped while the class saturates (R192, R210). -/
def intResult (mode : Word) (t : DType) (v : Int) : Nat :=
  intBits (dtypeWidth t) (if saturates mode t then clampInt (intMin t) (intMax t) v else v)

/-- Each element of A put through `f`. -/
def intUnary (s : State) (op : Nat) (w : LaneOps) (f : Word → DType → Nat → Nat) : Host.Outcome State Fault Refusal :=
  laneOp s op w ⟨useOf w.dt, useNone, useNone, useOf w.dt⟩ fun c =>
    elementwise c w.dt w.vd.toNat false fun i =>
      let a := srcA c w w.dt i
      ⟨packElems w.dt ((List.range (elemCount w.dt)).map fun j => f c.g.mode w.dt (elem w.dt a j)), 0⟩

/-- Each pair of elements of A and B put through `f`. -/
def intBinary (s : State) (op : Nat) (w : LaneOps) (f : Word → DType → Nat → Nat → Nat) :
    Host.Outcome State Fault Refusal :=
  laneOp s op w ⟨useOf w.dt, useOf w.dt, useNone, useOf w.dt⟩ fun c =>
    elementwise c w.dt w.vd.toNat false fun i =>
      let a := srcA c w w.dt i
      let b := srcB c w w.dt i
      ⟨packElems w.dt ((List.range (elemCount w.dt)).map fun j => f c.g.mode w.dt (elem w.dt a j) (elem w.dt b j)), 0⟩

/-- The elements' bits reversed. -/
def reverseBits (w v : Nat) : Nat := (List.range w).foldl (fun a k => a * 2 + bits v k 1) 0

/-- The number of set bits below bit `w`. -/
def popBits (w v : Nat) : Nat := (List.range w).foldl (fun a k => a + bits v k 1) 0

/-- An element shifted right arithmetically (R209). -/
def sraBits (w v n : Nat) : Nat :=
  intBits w ((if bitOf v (w - 1) then (v : Int) - 2 ^ w else v) / 2 ^ n)

/-- VADD (R209). -/
def execVadd (w : LaneOps) (s : State) : Host.Outcome State Fault Refusal :=
  intBinary s 0x00 w fun m t a b => intResult m t (intOf t a + intOf t b)

/-- VSUB (R209). -/
def execVsub (w : LaneOps) (s : State) : Host.Outcome State Fault Refusal :=
  intBinary s 0x01 w fun m t a b => intResult m t (intOf t a - intOf t b)

/-- VMUL (R209). -/
def execVmul (w : LaneOps) (s : State) : Host.Outcome State Fault Refusal :=
  intBinary s 0x02 w fun m t a b => intResult m t (intOf t a * intOf t b)

/-- VMULH: bits [2w − 1 : w] of the exact product (R209). -/
def execVmulh (w : LaneOps) (s : State) : Host.Outcome State Fault Refusal :=
  intBinary s 0x03 w fun _ t a b => intBits (dtypeWidth t) (intOf t a * intOf t b / 2 ^ dtypeWidth t)

/-- VMAD: A × B + C wrapped or clamped once (R209). -/
def execVmad (w : LaneOps) (s : State) : Host.Outcome State Fault Refusal :=
  laneOp s 0x04 w ⟨useOf w.dt, useOf w.dt, useOf w.dt, useOf w.dt⟩ fun c =>
    elementwise c w.dt w.vd.toNat false fun i =>
      let a := srcA c w w.dt i
      let b := srcB c w w.dt i
      let z := srcC c w w.dt i
      ⟨packElems w.dt ((List.range (elemCount w.dt)).map fun j =>
        intResult c.g.mode w.dt (intOf w.dt (elem w.dt a j) * intOf w.dt (elem w.dt b j) + intOf w.dt (elem w.dt z j))), 0⟩

/-- VMIN (R209). -/
def execVmin (w : LaneOps) (s : State) : Host.Outcome State Fault Refusal :=
  intBinary s 0x05 w fun _ t a b => if intOf t b < intOf t a then b else a

/-- VMAX (R209). -/
def execVmax (w : LaneOps) (s : State) : Host.Outcome State Fault Refusal :=
  intBinary s 0x06 w fun _ t a b => if intOf t a < intOf t b then b else a

/-- VABS (R209, R192). -/
def execVabs (w : LaneOps) (s : State) : Host.Outcome State Fault Refusal :=
  intUnary s 0x07 w fun m t a => intResult m t (intOf t a).natAbs

/-- VNEG (R209, R192). -/
def execVneg (w : LaneOps) (s : State) : Host.Outcome State Fault Refusal :=
  intUnary s 0x08 w fun m t a => intResult m t (-(intOf t a))

/-- VAND (R209). -/
def execVand (w : LaneOps) (s : State) : Host.Outcome State Fault Refusal := intBinary s 0x09 w fun _ _ a b => a &&& b

/-- VOR (R209). -/
def execVor (w : LaneOps) (s : State) : Host.Outcome State Fault Refusal := intBinary s 0x0A w fun _ _ a b => a ||| b

/-- VXOR (R209). -/
def execVxor (w : LaneOps) (s : State) : Host.Outcome State Fault Refusal := intBinary s 0x0B w fun _ _ a b => a ^^^ b

/-- VANDN: A & ~B (R209). -/
def execVandn (w : LaneOps) (s : State) : Host.Outcome State Fault Refusal :=
  intBinary s 0x0C w fun _ t a b => a &&& (b ^^^ (2 ^ dtypeWidth t - 1))

/-- VNOT (R209). -/
def execVnot (w : LaneOps) (s : State) : Host.Outcome State Fault Refusal :=
  intUnary s 0x0D w fun _ t a => a ^^^ (2 ^ dtypeWidth t - 1)

/-- VSHL: by B mod w (R209, R210). -/
def execVshl (w : LaneOps) (s : State) : Host.Outcome State Fault Refusal :=
  intBinary s 0x0E w fun _ t a b => a * 2 ^ (b % dtypeWidth t)

/-- VSHR: by B mod w (R209, R210). -/
def execVshr (w : LaneOps) (s : State) : Host.Outcome State Fault Refusal :=
  intBinary s 0x0F w fun _ t a b => a / 2 ^ (b % dtypeWidth t)

/-- VSRA: by B mod w (R209, R210). -/
def execVsra (w : LaneOps) (s : State) : Host.Outcome State Fault Refusal :=
  intBinary s 0x10 w fun _ t a b => sraBits (dtypeWidth t) a (b % dtypeWidth t)

/-- VCLZ: w for zero (R209). -/
def execVclz (w : LaneOps) (s : State) : Host.Outcome State Fault Refusal :=
  intUnary s 0x11 w fun _ t a => dtypeWidth t - bitLen a

/-- VPOP (R209). -/
def execVpop (w : LaneOps) (s : State) : Host.Outcome State Fault Refusal :=
  intUnary s 0x12 w fun _ t a => popBits (dtypeWidth t) a

/-- VBREV (R209). -/
def execVbrev (w : LaneOps) (s : State) : Host.Outcome State Fault Refusal :=
  intUnary s 0x13 w fun _ t a => reverseBits (dtypeWidth t) a

/-- VSEL: the whole lane value by the triple's bit (R211). -/
def execVsel (w : LaneOps) (s : State) : Host.Outcome State Fault Refusal :=
  laneOp s 0x14 w ⟨useOf w.dt, useOf w.dt, useNone, useOf w.dt⟩ fun c =>
    let t := tripleIn c.sc (bits w.imm.toNat 0 6)
    elementwise c w.dt w.vd.toNat false fun i => ⟨if bitOf t i then srcA c w w.dt i else srcB c w w.dt i, 0⟩

/-- A comparison of two integers (R212). -/
def intCond (cond : Nat) (a b : Int) : Bool :=
  match cond with
  | 0 => a == b
  | 1 => a != b
  | 2 => decide (a < b)
  | 3 => decide (a ≤ b)
  | 4 => decide (b < a)
  | _ => decide (b ≤ a)

/-- The elements' outcomes combined: all, or any under imm21[3] (R212). -/
def combine (imm : Nat) (bs : List Bool) : Bool := if bitOf imm 3 then bs.any id else bs.all id

/-- VCMP (R212). -/
def execVcmp (w : LaneOps) (s : State) : Host.Outcome State Fault Refusal :=
  laneOp s 0x15 w ⟨useOf w.dt, useOf w.dt, useNone, useNone⟩ fun c =>
    { laneNothing with triple := some (laneBits c fun i =>
        let a := srcA c w w.dt i
        let b := srcB c w w.dt i
        combine w.imm.toNat ((List.range (elemCount w.dt)).map fun j =>
          intCond (bits w.imm.toNat 0 3) (intOf w.dt (elem w.dt a j)) (intOf w.dt (elem w.dt b j)))) }

/-- VMOV (R209). -/
def execVmov (w : LaneOps) (s : State) : Host.Outcome State Fault Refusal := intUnary s 0x16 w fun _ _ a => a

end Sys2Proof.Machine
end

