-- ==== Sys2Proof/Machine/Special.lean ====
section
/-! DEFINITION. The functions of R197 that are rounded to nearest: `vfexp2`, `vflog2`, `vfsin`, `vfcos` and `vftanh`. The
exact result is enclosed between two fixed-point numbers of growing precision until both round to the same value. -/

namespace Sys2Proof.Machine

/-- Terms of a power series: `t` the current term, `sq` the factor of each next one, all scaled by 2^p; term `k` is divided
by `d k`, and `alt` makes the signs alternate. -/
def seriesGo (p : Nat) (sq : Int) (d : Nat → Int) : Nat → Nat → Int → Int → Int
  | 0, _, _, acc => acc
  | fuel + 1, k, t, acc =>
    if t == 0 || t == -1 then acc
    else
      let t1 := t * sq / 2 ^ p / d k
      seriesGo p sq d fuel (k + 1) t1 (acc + t1)

/-- The sum of z^(2k+1) / (2k+1) with the sign `sg` of each step, scaled by 2^p: atanh for 1, atan for −1. -/
def oddSeriesGo (p : Nat) (zz : Int) (sg : Int) : Nat → Nat → Int → Int → Int
  | 0, _, _, acc => acc
  | fuel + 1, k, t, acc =>
    if t == 0 || t == -1 then acc
    else
      let t1 := sg * t * zz / 2 ^ p
      oddSeriesGo p zz sg fuel (k + 1) t1 (acc + t1 / (2 * (k : Int) + 3))

/-- atanh(z) for |z| ≤ 1/3, scaled by 2^p. -/
def atanhFix (p : Nat) (z : Int) : Int := oddSeriesGo p (z * z / 2 ^ p) 1 p 0 z z

/-- atan(1/n), scaled by 2^p. -/
def atanInv (p n : Nat) : Int :=
  let z : Int := 2 ^ p / n
  oddSeriesGo p (z * z / 2 ^ p) (-1) p 0 z z

/-- π scaled by 2^p, by Machin's formula. -/
def piFix (p : Nat) : Int := 16 * atanInv p 5 - 4 * atanInv p 239

/-- ln 2 scaled by 2^p: 2 atanh(1/3). -/
def ln2Fix (p : Nat) : Int := 2 * atanhFix p (2 ^ p / 3)

/-- e^y for |y| < 2, scaled by 2^p. -/
def expFix (p : Nat) (y : Int) : Int := seriesGo p y (fun k => (k : Int) + 1) p 0 (2 ^ p) (2 ^ p)

/-- sin r and cos r for |r| < 1, scaled by 2^p. -/
def sinFix (p : Nat) (r : Int) : Int :=
  seriesGo p (-(r * r / 2 ^ p)) (fun k => (2 * (k : Int) + 2) * (2 * k + 3)) p 0 r r
def cosFix (p : Nat) (r : Int) : Int :=
  seriesGo p (-(r * r / 2 ^ p)) (fun k => (2 * (k : Int) + 1) * (2 * k + 2)) p 0 (2 ^ p) (2 ^ p)

/-- man × 2^exp scaled by 2^p, rounded down. -/
def scaleTo (p : Nat) (neg : Bool) (man : Nat) (exp : Int) : Int :=
  let k := exp + p
  let v : Int := if 0 ≤ k then (shiftUp man k : Int) else (man / 2 ^ (0 - k).toNat : Nat)
  if neg then -v else v

/-- sin x (quarter 0) or cos x (quarter 1) scaled by 2^p: x less the nearest multiple of π/2, and the quarter that leaves. -/
def circFix (p : Nat) (quarter : Nat) (neg : Bool) (man : Nat) (exp : Int) : Int :=
  let big := (exp + bitLen man).toNat + 8
  let w := p + big
  let h := piFix w / 2
  let x := scaleTo w neg man exp
  let k := (2 * x + h) / (2 * h)
  let r := (x - k * h) / 2 ^ big
  match ((k + quarter) % 4).toNat with
  | 0 => sinFix p r
  | 1 => cosFix p r
  | 2 => -(sinFix p r)
  | _ => -(cosFix p r)

/-- 2^(x − floor x) scaled by 2^p. -/
def exp2Fix (p : Nat) (neg : Bool) (man : Nat) (exp : Int) : Int :=
  let x := scaleTo p neg man exp
  expFix p (x % 2 ^ p * ln2Fix p / 2 ^ p)

/-- log2 of man × 2^exp scaled by 2^p. -/
def log2Fix (p : Nat) (man : Nat) (exp : Int) : Int :=
  let n := bitLen man - 1
  let m : Int := shiftUp man ((p : Int) - n)
  let z := (m - 2 ^ p) * 2 ^ p / (m + 2 ^ p)
  (exp + n) * 2 ^ p + 2 * atanhFix p z * 2 ^ p / ln2Fix p

/-- tanh |x| scaled by 2^p, for |x| < 64: (1 − t) / (1 + t) with t = e^(−2|x|). -/
def tanhFix (p : Nat) (man : Nat) (exp : Int) : Int :=
  let w := p + 16
  let y := -(2 * scaleTo w false man exp)
  let l := ln2Fix w
  let k := y / l
  let t := expFix w (y - k * l) / 2 ^ (0 - k).toNat
  (2 ^ w - t) * 2 ^ p / (2 ^ w + t)

/-- A fixed-point value rounded to nearest; it is never exact. -/
def fixRound (c : RndCtx) (f : Fmt) (p : Nat) (v : Int) (scale : Int) : FRes :=
  roundTo { c with rnd := .rne } f (decide (v < 0)) v.natAbs (scale - p) true

/-- The precision doubled until both ends of the enclosure round alike (R197); the last precision's value if they never do.
DESIGN CHOICE (entry 17). -/
def zivGo (c : RndCtx) (f : Fmt) (scale : Int) (fn : Nat → Int) : Nat → Nat → FRes
  | 0, p => fixRound c f p (fn p) scale
  | fuel + 1, p =>
    let v := fn p
    let a := fixRound c f p (v - 2 ^ 20) scale
    let b := fixRound c f p (v + 2 ^ 20) scale
    if a == b then a else zivGo c f scale fn fuel (2 * p)

/-- The rounded result of a function given to every precision, in units of 2^scale. -/
def ziv (c : RndCtx) (f : Fmt) (scale : Int) (fn : Nat → Int) : FRes := zivGo c f scale fn 5 256

/-- A magnitude a little below man × 2^exp, rounded to nearest. -/
def justBelow (c : RndCtx) (f : Fmt) (neg : Bool) (man : Nat) (exp : Int) : FRes :=
  roundTo { c with rnd := .rne } f neg (man * 2 ^ 100 - 1) (exp - 100) true

/-- The floor of (−1)^neg × man × 2^exp, held within ±16384, and whether the value is an integer. -/
def floorOf (neg : Bool) (man : Nat) (exp : Int) : Int × Bool :=
  if 0 ≤ exp then
    let v := if 14 < exp + bitLen man then 16384 else shiftUp man exp
    (if neg then -(v : Int) else v, true)
  else
    let d := 2 ^ (Nat.min (0 - exp).toNat 4096)
    let v := Nat.min (man / d) 16384
    let whole := man % d == 0 && decide ((0 - exp).toNat ≤ 4096)
    (if neg then (if whole then -(v : Int) else -(v : Int) - 1) else v, whole)

/-- `vfexp2` (R197, R198). -/
def fexp2Val (c : RndCtx) (f : Fmt) (a : FVal) : FRes :=
  match a with
  | .nan q => nanRes f (if q then exInvalid else 0)
  | .inf n => if n then ⟨0, 0⟩ else infRes c f false 0
  | .num n m e =>
    let k := floorOf n m e
    if m == 0 then roundTo { c with rnd := .rne } f false 1 0 false
    else if k.2 || decide (k.1 ≤ -16384) || decide (16384 ≤ k.1) then
      roundTo { c with rnd := .rne } f false (if k.2 then 1 else 3) k.1 false
    else if e + bitLen m < -90 then
      (if n then justBelow c f false 1 0 else roundTo { c with rnd := .rne } f false (2 ^ 90) (-90) true)
    else ziv c f k.1 fun p => exp2Fix p n m e

/-- `vflog2` (R197, R198). -/
def flog2Val (c : RndCtx) (f : Fmt) (a : FVal) : FRes :=
  match a with
  | .nan q => nanRes f (if q then exInvalid else 0)
  | .inf n => if n then nanRes f exInvalid else infRes c f false 0
  | .num n m e =>
    if m == 0 then infRes c f true exDivZero
    else if n then nanRes f exInvalid
    else if m == 2 ^ (bitLen m - 1) then intToF { c with rnd := .rne } f (e + bitLen m - 1)
    else ziv c f 0 fun p => log2Fix p m e

/-- `vfsin` (R197, R198). -/
def fsinVal (c : RndCtx) (f : Fmt) (a : FVal) : FRes :=
  match a with
  | .nan q => nanRes f (if q then exInvalid else 0)
  | .inf _ => nanRes f exInvalid
  | .num n m e =>
    if m == 0 then ⟨signBit f n, 0⟩
    else if e + bitLen m < -90 then justBelow c f n m e
    else ziv c f 0 fun p => circFix p 0 n m e

/-- `vfcos` (R197, R198). -/
def fcosVal (c : RndCtx) (f : Fmt) (a : FVal) : FRes :=
  match a with
  | .nan q => nanRes f (if q then exInvalid else 0)
  | .inf _ => nanRes f exInvalid
  | .num n m e =>
    if m == 0 then roundTo { c with rnd := .rne } f false 1 0 false
    else if e + bitLen m < -90 then justBelow c f false 1 0
    else ziv c f 0 fun p => circFix p 1 n m e

/-- `vftanh` (R197, R198). -/
def ftanhVal (c : RndCtx) (f : Fmt) (a : FVal) : FRes :=
  match a with
  | .nan q => nanRes f (if q then exInvalid else 0)
  | .inf n => roundTo { c with rnd := .rne } f n 1 0 false
  | .num n m e =>
    if m == 0 then ⟨signBit f n, 0⟩
    else if e + bitLen m < -90 then justBelow c f n m e
    else if 6 < e + bitLen m then justBelow c f n 1 0
    else ziv c f 0 fun p => let v := tanhFix p m e; if n then -v else v

end Sys2Proof.Machine
end

