-- ==== Sys2Proof/Machine/LaneFloat.lean ====
section
/-! DEFINITION. The floating lane instructions, 0x30 to 0x49 (R213 to R217). -/

namespace Sys2Proof.Machine

/-- How an element is rounded: the effective rounding, saturation and flushing of the destination class, and the draw of
lane `i`'s element `j` (R145, R190, R191, R193). -/
def laneRnd (c : LaneCtx) (rs : RoundSel) (t : DType) (idx : Nat) : RndCtx :=
  let r := effectiveRnd c.g.mode rs t
  ⟨r, saturates c.g.mode t, flushesOut c.g.mode, if r == .sto then drawBits c.g.seed idx else 0⟩

/-- The instruction takes draws (R189). -/
def laneDraws (c : LaneCtx) (rs : RoundSel) (t : DType) : Bool := effectiveRnd c.g.mode rs t == .sto

/-- An element as a floating value, flushed under mode bit 32 (R193). -/
def floatElem (c : LaneCtx) (t : DType) (v j : Nat) : FVal := finput c.g.mode (fmtOf t) (elem t v j)

/-- Each element of A put through `f`, which rounds. -/
def floatUnary (s : State) (op : Nat) (w : LaneOps) (draws : Bool) (f : RndCtx → Fmt → FVal → FRes) :
    Host.Outcome State Fault Refusal :=
  laneOp s op w ⟨useOf w.dt, useNone, useNone, useOf w.dt⟩ fun c =>
    elementwise c w.dt w.vd.toNat (draws && laneDraws c w.rs w.dt) fun i =>
      let a := srcA c w w.dt i
      packRes w.dt ((List.range (elemCount w.dt)).map fun j =>
        f (laneRnd c w.rs w.dt (i * 8 + j)) (fmtOf w.dt) (floatElem c w.dt a j))

/-- Each pair of elements of A and B put through `f`, which rounds. -/
def floatBinary (s : State) (op : Nat) (w : LaneOps) (f : RndCtx → Fmt → FVal → FVal → FRes) :
    Host.Outcome State Fault Refusal :=
  laneOp s op w ⟨useOf w.dt, useOf w.dt, useNone, useOf w.dt⟩ fun c =>
    elementwise c w.dt w.vd.toNat (laneDraws c w.rs w.dt) fun i =>
      let a := srcA c w w.dt i
      let b := srcB c w w.dt i
      packRes w.dt ((List.range (elemCount w.dt)).map fun j =>
        f (laneRnd c w.rs w.dt (i * 8 + j)) (fmtOf w.dt) (floatElem c w.dt a j) (floatElem c w.dt b j))

/-- Each triple of elements put through a fused operation, with the signs of the product and of the addend that R213 gives. -/
def floatFused (s : State) (op : Nat) (w : LaneOps) (negProduct negAddend : Bool) : Host.Outcome State Fault Refusal :=
  laneOp s op w ⟨useOf w.dt, useOf w.dt, useOf w.dt, useOf w.dt⟩ fun c =>
    elementwise c w.dt w.vd.toNat (laneDraws c w.rs w.dt) fun i =>
      let a := srcA c w w.dt i
      let b := srcB c w w.dt i
      let z := srcC c w w.dt i
      packRes w.dt ((List.range (elemCount w.dt)).map fun j =>
        let x := floatElem c w.dt a j
        let y := floatElem c w.dt z j
        fmaVal (laneRnd c w.rs w.dt (i * 8 + j)) (fmtOf w.dt) (if negProduct then fnegate x else x)
          (floatElem c w.dt b j) (if negAddend then fnegate y else y))

/-- Each pair of elements put through a minimum or maximum (R215). -/
def floatMinMax (s : State) (op : Nat) (w : LaneOps) (isMax strict : Bool) : Host.Outcome State Fault Refusal :=
  laneOp s op w ⟨useOf w.dt, useOf w.dt, useNone, useOf w.dt⟩ fun c =>
    elementwise c w.dt w.vd.toNat false fun i =>
      let a := srcA c w w.dt i
      let b := srcB c w w.dt i
      packRes w.dt ((List.range (elemCount w.dt)).map fun j =>
        fminmax c.g.mode (laneRnd c .rne w.dt 0) (fmtOf w.dt) isMax strict (elem w.dt a j) (elem w.dt b j))

/-- VFADD (R213). -/
def execVfadd (w : LaneOps) (s : State) : Host.Outcome State Fault Refusal := floatBinary s 0x30 w faddVal

/-- VFSUB (R213). -/
def execVfsub (w : LaneOps) (s : State) : Host.Outcome State Fault Refusal :=
  floatBinary s 0x31 w fun c f a b => faddVal c f a (fnegate b)

/-- VFMUL (R213). -/
def execVfmul (w : LaneOps) (s : State) : Host.Outcome State Fault Refusal := floatBinary s 0x32 w fmulVal

/-- VFMA: A × B + C (R213). -/
def execVfma (w : LaneOps) (s : State) : Host.Outcome State Fault Refusal := floatFused s 0x33 w false false

/-- VFMS: A × B − C (R213). -/
def execVfms (w : LaneOps) (s : State) : Host.Outcome State Fault Refusal := floatFused s 0x34 w false true

/-- VFNMA: −(A × B) + C (R213). -/
def execVfnma (w : LaneOps) (s : State) : Host.Outcome State Fault Refusal := floatFused s 0x35 w true false

/-- VFNMS: −(A × B) − C (R213). -/
def execVfnms (w : LaneOps) (s : State) : Host.Outcome State Fault Refusal := floatFused s 0x36 w true true

/-- VFMIN (R215). -/
def execVfmin (w : LaneOps) (s : State) : Host.Outcome State Fault Refusal := floatMinMax s 0x37 w false false

/-- VFMAX (R215). -/
def execVfmax (w : LaneOps) (s : State) : Host.Outcome State Fault Refusal := floatMinMax s 0x38 w true false

/-- VFMINX (R215). -/
def execVfminx (w : LaneOps) (s : State) : Host.Outcome State Fault Refusal := floatMinMax s 0x39 w false true

/-- VFMAXX (R215). -/
def execVfmaxx (w : LaneOps) (s : State) : Host.Outcome State Fault Refusal := floatMinMax s 0x3A w true true

/-- VFABS: the sign bit cleared (R216). -/
def execVfabs (w : LaneOps) (s : State) : Host.Outcome State Fault Refusal :=
  intUnary s 0x3B w fun _ t a => a % 2 ^ (dtypeWidth t - 1)

/-- VFNEG: the sign bit inverted (R216). -/
def execVfneg (w : LaneOps) (s : State) : Host.Outcome State Fault Refusal :=
  intUnary s 0x3C w fun _ t a => a ^^^ 2 ^ (dtypeWidth t - 1)

/-- VFCPSGN: A's bits with B's sign bit (R216). -/
def execVfcpsgn (w : LaneOps) (s : State) : Host.Outcome State Fault Refusal :=
  intBinary s 0x3D w fun _ t a b =>
    let h := 2 ^ (dtypeWidth t - 1)
    a % h + b / h * h

/-- The condition of a floating comparison (R217). -/
def floatCond (cond : Nat) (a b : FVal) : Bool :=
  if isNan a || isNan b then cond == 1 || cond == 6
  else
    let o := fcompare a b
    match cond with
    | 0 => o == 0
    | 1 => o != 0
    | 2 => o == -1
    | 3 => o != 1
    | 4 => o == 1
    | 5 => o != -1
    | 6 => false
    | _ => true

/-- The exception of a floating comparison: invalid for any NaN under an ordering condition, for a signalling one under the
others (R217). -/
def floatCondEx (cond : Nat) (a b : FVal) : Nat :=
  if decide (2 ≤ cond) && decide (cond ≤ 5) && (isNan a || isNan b) then exInvalid else snan a ||| snan b

/-- VFCMP (R217). -/
def execVfcmp (w : LaneOps) (s : State) : Host.Outcome State Fault Refusal :=
  laneOp s 0x3E w ⟨useOf w.dt, useOf w.dt, useNone, useNone⟩ fun c =>
    let cond := bits w.imm.toNat 0 3
    let pairs (i : Nat) : List (FVal × FVal) :=
      let a := srcA c w w.dt i
      let b := srcB c w w.dt i
      (List.range (elemCount w.dt)).map fun j => (floatElem c w.dt a j, floatElem c w.dt b j)
    { laneNothing with
      triple := some (laneBits c fun i => combine w.imm.toNat ((pairs i).map fun p => floatCond cond p.1 p.2))
      ex := c.lanes.foldl (fun x i => (pairs i).foldl (fun x p => x ||| floatCondEx cond p.1 p.2) x) 0 }

/-- The class code of an element (R216). -/
def floatClass (f : Fmt) (b : Nat) : Nat :=
  match fdecode f b with
  | .nan q => if q then 8 else 9
  | .inf n => if n then 0 else 7
  | .num n m _ =>
    if m == 0 then (if n then 3 else 4)
    else if isSubnormal f b then (if n then 2 else 5)
    else if n then 1 else 6

/-- VFCLASS (R216). -/
def execVfclass (w : LaneOps) (s : State) : Host.Outcome State Fault Refusal :=
  intUnary s 0x3F w fun _ t a => floatClass (fmtOf t) a

/-- VFDIV (R197, R213). -/
def execVfdiv (w : LaneOps) (s : State) : Host.Outcome State Fault Refusal := floatBinary s 0x40 w fdivVal

/-- VFSQRT (R197, R213). -/
def execVfsqrt (w : LaneOps) (s : State) : Host.Outcome State Fault Refusal := floatUnary s 0x41 w true fsqrtVal

/-- VFRCP: 1 ÷ A (R197, R213). -/
def execVfrcp (w : LaneOps) (s : State) : Host.Outcome State Fault Refusal :=
  floatUnary s 0x42 w true fun c f a => fdivVal c f (.num false 1 0) a

/-- VFRSQ (R197, R198, R214). -/
def execVfrsq (w : LaneOps) (s : State) : Host.Outcome State Fault Refusal := floatUnary s 0x43 w false frsqVal

/-- VFEXP2 (R197, R198, R214). -/
def execVfexp2 (w : LaneOps) (s : State) : Host.Outcome State Fault Refusal := floatUnary s 0x44 w false fexp2Val

/-- VFLOG2 (R197, R198, R214). -/
def execVflog2 (w : LaneOps) (s : State) : Host.Outcome State Fault Refusal := floatUnary s 0x45 w false flog2Val

/-- VFSIN (R197, R198, R214). -/
def execVfsin (w : LaneOps) (s : State) : Host.Outcome State Fault Refusal := floatUnary s 0x46 w false fsinVal

/-- VFCOS (R197, R198, R214). -/
def execVfcos (w : LaneOps) (s : State) : Host.Outcome State Fault Refusal := floatUnary s 0x47 w false fcosVal

/-- VFTANH (R197, R198, R214). -/
def execVftanh (w : LaneOps) (s : State) : Host.Outcome State Fault Refusal := floatUnary s 0x48 w false ftanhVal

/-- VFRND (R213). -/
def execVfrnd (w : LaneOps) (s : State) : Host.Outcome State Fault Refusal := floatUnary s 0x49 w true frndVal

end Sys2Proof.Machine
end

