-- ==== Sys2Proof/Machine/LaneConv.lean ====
section
/-! DEFINITION. The converting lane instructions, 0x60 to 0x68 (R218 to R222). -/

namespace Sys2Proof.Machine

/-- A value converted to an element of type `dt`: rounded to a format, or to an integer (R192, R218). -/
def convVal (c : RndCtx) (dt : DType) (v : FVal) : FRes :=
  if dtypeFloat dt then fconvert c (fmtOf dt) v else ftoInt c dt v

/-- The `conv` of R218 from an element of type `src`. -/
def convElem (c : LaneCtx) (rs : RoundSel) (src dt : DType) (idx e : Nat) : FRes :=
  let r := laneRnd c rs dt idx
  if dtypeFloat src then convVal r dt (finput c.g.mode (fmtOf src) e)
  else if dtypeFloat dt then intToF r (fmtOf dt) (intOf src e)
  else ⟨intResult c.g.mode dt (intOf src e), 0⟩

/-- VCVT (R218). -/
def execVcvt (w : LaneOps) (s : State) : Host.Outcome State Fault Refusal :=
  let src := dtypeOf (bits w.imm.toNat 0 4)
  laneOp s 0x60 w ⟨useOf src, useNone, useNone, useOf w.dt⟩ fun c =>
    let n := if dtypeWidth src == dtypeWidth w.dt then elemCount src else 1
    elementwise c w.dt w.vd.toNat ((dtypeFloat src || dtypeFloat w.dt) && laneDraws c w.rs w.dt) fun i =>
      let a := srcA c w src i
      packRes w.dt ((List.range n).map fun j => convElem c w.rs src w.dt (i * 8 + j) (elem src a j))

/-- The exact product of two values, and what it raises (R194, R219). -/
def exactProduct (a b : FVal) : FVal × Nat :=
  let ex := snan a ||| snan b ||| (if mulInvalid a b then exInvalid else 0)
  if isNan a || isNan b || mulInvalid a b then (.nan false, ex)
  else
    match a, b with
    | .num na ma ea, .num nb mb eb => (.num (na != nb) (ma * mb) (ea + eb), ex)
    | _, _ => (.inf (fneg a != fneg b), ex)

/-- Lane `i` of vector register `r` under source A's pattern (R219). -/
def manyLane (c : LaneCtx) (w : LaneOps) (k i : Nat) : Nat :=
  match patternLane w.patA c.n i with
  | some j => regLane c (w.a.field.toNat + k) j
  | none => 0

/-- The scale of lane `i`: source B as binary32 (R219 to R221). -/
def scaleLane (c : LaneCtx) (w : LaneOps) (i : Nat) : FVal := finput c.g.mode (fmtOf .f32) (srcB c w .f32 i)

/-- A 32-bit value of type `src`, i32 or f32, as a floating value (R219). -/
def valueOf32 (c : LaneCtx) (src : DType) (b : Nat) : FVal :=
  if src == .f32 then finput c.g.mode (fmtOf .f32) b
  else
    let v := intOf .i32 b
    .num (decide (v < 0)) v.natAbs 0

/-- VPACK2, VPACK4 and VPACK8 with `k` elements (R219). -/
def packLanes (s : State) (op k : Nat) (w : LaneOps) : Host.Outcome State Fault Refusal :=
  let src := dtypeOf (bits w.imm.toNat 0 4)
  laneOp s op w ⟨useMany k, useOf .f32, useNone, useOf .i32⟩ fun c =>
    elementwise c .i32 w.vd.toNat (laneDraws c w.rs w.dt) fun i =>
      let b := scaleLane c w i
      packRes w.dt ((List.range k).map fun j =>
        let p := exactProduct (valueOf32 c src (manyLane c w j i)) b
        let r := convVal (laneRnd c w.rs w.dt (i * 8 + j)) w.dt p.1
        ⟨r.bits, r.ex ||| p.2⟩)

/-- VPACK2 (R219). -/
def execVpack2 (w : LaneOps) (s : State) : Host.Outcome State Fault Refusal := packLanes s 0x61 2 w

/-- VPACK4 (R219). -/
def execVpack4 (w : LaneOps) (s : State) : Host.Outcome State Fault Refusal := packLanes s 0x62 4 w

/-- VPACK8 (R219). -/
def execVpack8 (w : LaneOps) (s : State) : Host.Outcome State Fault Refusal := packLanes s 0x63 8 w

/-- A packed element less the zero point, as a floating value (R220). -/
def unpackElem (c : LaneCtx) (w : LaneOps) (a z j : Nat) : FVal :=
  if dtypeFloat w.dt then finput c.g.mode (fmtOf w.dt) (elem w.dt a j)
  else
    let v := intOf w.dt (elem w.dt a j) - intOf .i32 z
    .num (decide (v < 0)) v.natAbs 0

/-- The packed word of a lane: a special source supplies its value as the word (R220). -/
def packedLane (c : LaneCtx) (w : LaneOps) (i : Nat) : Nat :=
  if w.a.kind == .special then specialSource c w.a.field.toNat i else srcA c w w.dt i

/-- VUNPK2, VUNPK4 and VUNPK8 with `k` elements (R220). -/
def unpackLanes (s : State) (op k : Nat) (w : LaneOps) : Host.Outcome State Fault Refusal :=
  laneOp s op w ⟨useOf .i32, useOf .f32, if dtypeFloat w.dt then useNone else useOf .i32, useMany k⟩ fun c =>
    let rs := (List.range c.n).map fun i =>
      if c.active i then
        let a := packedLane c w i
        let b := scaleLane c w i
        let z := if dtypeFloat w.dt then 0 else srcC c w .i32 i
        (List.range k).map fun j => fmulVal (laneRnd c w.rs .f32 (i * 8 + j)) (fmtOf .f32) (unpackElem c w a z j) b
      else []
    { laneNothing with
      vec := (List.range k).map fun j => (w.vd.toNat + j, rs.map fun r => (r.getD j ⟨0, 0⟩).bits)
      ex := rs.foldl (fun x r => x ||| exUnion r) 0
      draws := laneDraws c w.rs .f32 }

/-- VUNPK2 (R220). -/
def execVunpk2 (w : LaneOps) (s : State) : Host.Outcome State Fault Refusal := unpackLanes s 0x64 2 w

/-- VUNPK4 (R220). -/
def execVunpk4 (w : LaneOps) (s : State) : Host.Outcome State Fault Refusal := unpackLanes s 0x65 4 w

/-- VUNPK8 (R220). -/
def execVunpk8 (w : LaneOps) (s : State) : Host.Outcome State Fault Refusal := unpackLanes s 0x66 8 w

/-- One element of `vqgrp` (R221). -/
def qgrpElem (r : RndCtx) (dt : DType) (x b : FVal) (z : Int) : FRes :=
  let clamp (y : Int) : Nat := (clampInt 0 (intMax dt) y).toNat
  match (exactProduct x b).1 with
  | .nan _ => ⟨clamp z, exInvalid⟩
  | .inf n => ⟨if n then 0 else (intMax dt).toNat, 0⟩
  | .num n m e =>
    let k := roundInt r n m e
    ⟨clamp ((if n then -(k.1 : Int) else k.1) + z), if k.2 then exInexact else 0⟩

/-- VQGRP (R221). -/
def execVqgrp (w : LaneOps) (s : State) : Host.Outcome State Fault Refusal :=
  let k := if w.dt == .n4 then 8 else 4
  laneOp s 0x67 w ⟨useMany k, useOf .f32, useOf .i32, useOf .i32⟩ fun c =>
    elementwise c .i32 w.vd.toNat (laneDraws c w.rs w.dt) fun i =>
      let b := scaleLane c w i
      let z := intOf .i32 (srcC c w .i32 i)
      packRes w.dt ((List.range k).map fun j =>
        qgrpElem (laneRnd c w.rs w.dt (i * 8 + j)) w.dt (valueOf32 c .f32 (manyLane c w j i)) b z)

/-- An element clamped into the range of a target type (R222). -/
def satElem (dt t : DType) (e : Nat) : Nat :=
  if dtypeFloat dt then
    match fdecode (fmtOf dt) e with
    | .nan _ => e
    | v =>
      match fdecode (fmtOf t) (maxFinite (fmtOf t)) with
      | .num _ m x =>
        let b := (roundTo ⟨.rtz, false, false, 0⟩ (fmtOf dt) false m x false).bits
        if fcompare (fdecode (fmtOf dt) b) (if fneg v then fnegate v else v) == -1 then signBit (fmtOf dt) (fneg v) + b
        else e
      | _ => e
  else intBits (dtypeWidth dt) (clampInt (intMin t) (intMax t) (intOf dt e))

/-- VSAT (R222). -/
def execVsat (w : LaneOps) (s : State) : Host.Outcome State Fault Refusal :=
  let t := dtypeOf (bits w.imm.toNat 0 4)
  intUnary s 0x68 w fun _ dt e => satElem dt t e

end Sys2Proof.Machine
end

