-- ==== Sys2Proof/Machine/Matrix.lean ====
section
/-! DEFINITION. The matrix engine: settings, commands, their order, their arithmetic and their completion (R199 to R201, R231
to R246). -/

namespace Sys2Proof.Machine

/-! ### Pairs and footprints -/

/-- A format pair: its number in the table of R234, its K depth. -/
structure PairInfo where
  num : Nat
  k : Nat
  deriving DecidableEq, Repr

/-- The pair of two dt codes; none is refused (R234). -/
def pairOf (a b : Nat) : Option PairInfo :=
  match dtypeOf a, dtypeOf b with
  | .f64, .f64 => some ⟨0, 8⟩
  | .f32, .f32 => some ⟨1, 16⟩
  | .f16, .f16 => some ⟨2, 32⟩
  | .bf16, .bf16 => some ⟨3, 32⟩
  | .e4m3, .e4m3 | .e4m3, .e5m2 | .e5m2, .e4m3 | .e5m2, .e5m2 => some ⟨4, 64⟩
  | .i8, .i8 | .i8, .n8 => some ⟨5, 64⟩
  | .i8, .i4 | .i8, .n4 | .i4, .i4 | .i4, .n4 => some ⟨6, 128⟩
  | _, _ => none

/-- The pair of a setting, which `xm.fmt` has checked (R233). -/
def pairOfSet (m : MatrixSet) : PairInfo := (pairOf m.typeA m.typeB).getD ⟨5, 64⟩

/-- INT8 or INT4 (R234). -/
def isIntPair (p : PairInfo) : Bool := decide (5 ≤ p.num)

/-- The number of K positions of a group of weights, G′ (R238). -/
def groupDepth (m : MatrixSet) : Nat :=
  let k := (pairOfSet m).k
  match m.grp with
  | 1 => Nat.min 32 k
  | 2 => Nat.min 64 k
  | 3 => Nat.min 128 k
  | _ => k

/-- The number of groups of weights, m (R238). -/
def groupCount (m : MatrixSet) : Nat :=
  if isIntPair (pairOfSet m) then (pairOfSet m).k / groupDepth m else 1

/-- The tiles that a command writes (R239, R240). -/
def tilesWritten (c : Command) : List Nat :=
  let d := c.set.tileD
  if c.scale then [d]
  else if (pairOfSet c.set).num == 0 then [d, d + 1]
  else (List.range (groupCount c.set)).map fun g => d + g

/-- The tiles that a command reads (R239, R240). -/
def tilesRead (c : Command) : List Nat :=
  (if c.set.acc then tilesWritten c else []) ++
    (if c.scale then (List.range (groupCount c.set)).map fun g => c.set.tileP + g else [])

/-- The command is issued and neither complete nor cancelled (R244). -/
def cmdPending (c : Command) : Bool := c.st == .queued || c.st == .started

/-- A lane instruction that reads tiles waits for the commands that write them; one that writes tiles also waits for those
that read them (R232). -/
def tileBusy (g : Group) (tiles : List Nat) (writes : Bool) : Bool :=
  g.cmds.any fun c => cmdPending c &&
    ((tilesWritten c).any tiles.contains || (writes && (tilesRead c).any tiles.contains))

/-! ### Settings -/

/-- An X function's result: written to sd when y is 1 (R112). -/
def xResult (g : Group) (d : Reg) (y : BitVec 1) (v : Word) : Group := if y == 1 then setSreg g d v else g

/-- A setting function: it traps with the first cause, or changes the settings; sd receives nothing of its own (R233, R285). -/
def xmSetting (s : State) (d : Reg) (y : BitVec 1) (f : Group → Except Nat MatrixSet) :
    Host.Outcome State Fault Refusal :=
  onDrained s fun g =>
    match f g with
    | .error c => trapScalar s g c
    | .ok m => retire s { xResult g d y 0 with mset := m }

/-- XM_FMT (R233, R234). -/
def execXmFmt (d a : Reg) (y : BitVec 1) (s : State) : Host.Outcome State Fault Refusal :=
  xmSetting s d y fun g =>
    let v := (sreg g a).toNat
    match pairOf (bits v 0 4) (bits v 4 4) with
    | none => .error 0x01
    | some _ => if v < 256 then .ok { g.mset with typeA := bits v 0 4, typeB := bits v 4 4 } else .error 0x02

/-- XM_A (R233). -/
def execXmA (d a b : Reg) (y : BitVec 1) (s : State) : Host.Outcome State Fault Refusal :=
  xmSetting s d y fun g =>
    if (sreg g a).toNat % 64 == 0 && (sreg g b).toNat % 64 == 0 then
      .ok { g.mset with baseA := sreg g a, strideA := sreg g b }
    else .error 0x02

/-- XM_B (R233). -/
def execXmB (d a b : Reg) (y : BitVec 1) (s : State) : Host.Outcome State Fault Refusal :=
  xmSetting s d y fun g =>
    if (sreg g a).toNat % 64 == 0 && (sreg g b).toNat % 64 == 0 then
      .ok { g.mset with baseB := sreg g a, strideB := sreg g b }
    else .error 0x02

/-- XM_GRP (R233). -/
def execXmGrp (d a b : Reg) (y : BitVec 1) (s : State) : Host.Outcome State Fault Refusal :=
  xmSetting s d y fun g =>
    if (sreg g a).toNat < 4 && (sreg g b).toNat % 64 == 0 then
      .ok { g.mset with grp := (sreg g a).toNat, param := sreg g b }
    else .error 0x02

/-- XM_TILE (R233). -/
def execXmTile (d a : Reg) (y : BitVec 1) (s : State) : Host.Outcome State Fault Refusal :=
  xmSetting s d y fun g =>
    let v := (sreg g a).toNat
    if v < 128 then .ok { g.mset with tileD := bits v 0 3, acc := bitOf v 3, tileP := bits v 4 3 } else .error 0x02

/-- XM_MCAST (R233). -/
def execXmMcast (d a : Reg) (y : BitVec 1) (s : State) : Host.Outcome State Fault Refusal :=
  xmSetting s d y fun g =>
    let v := (sreg g a).toNat
    if bits v 8 8 < bits v 0 8 || 191 < bits v 8 8 then .error 0x01
    else if v < 2 ^ 18 then .ok { g.mset with mcFirst := bits v 0 8, mcLast := bits v 8 8, mcOps := bits v 16 2 }
    else .error 0x02

/-! ### Issue -/

/-- A predecessor value that R243 allows: 0, or one of the most recent 65,536 ids. -/
def predOk (g : Group) (v : Word) : Bool := v.toNat == 0 || recentNumber (bitOf g.wraps 0) g.nextCmd v.toNat

/-- The commands that a group's list keeps when a new id is given out: those under way, and of the others those whose ids may
still be named, or are named by one under way (R243). -/
def keptCmds (g : Group) : List Command :=
  g.cmds.filter fun c => cmdPending c || (c.id != g.nextCmd &&
    (decide (numberAge g.nextCmd c.id ≤ 65536) || g.cmds.any fun q => cmdPending q && q.preds.contains c.id))

/-- The checks of `xm.mma` (R239). -/
def mmaCheck (g : Group) : Option Nat :=
  let m := g.mset
  let p := pairOfSet m
  if m.grp != 0 && !(isIntPair p && (dtypeOf m.typeB == .n8 || dtypeOf m.typeB == .n4)) then some 0x01
  else if decide (g.tcount < m.tileD + (if p.num == 0 then 2 else groupCount m)) then some 0x01
  else if p.num == 0 && m.tileD % 2 == 1 then some 0x0B
  else none

/-- The checks of `xm.sca` (R240). -/
def scaCheck (g : Group) : Option Nat :=
  let m := g.mset
  let p := pairOfSet m
  if !isIntPair p || decide (g.tcount < m.tileP + groupCount m) || decide (g.tcount ≤ m.tileD) ||
      (decide (m.tileP ≤ m.tileD) && decide (m.tileD < m.tileP + groupCount m)) then some 0x01
  else none

/-- A command issued, or its wait for one of sixteen places, or its trap (R239, R240, R243, R244). -/
def issueCommand (s : State) (d a b : Reg) (y : BitVec 1) (scale : Bool) (check : Group → Option Nat) :
    Host.Outcome State Fault Refusal :=
  onDrained s fun g =>
    if 16 ≤ (g.cmds.filter cmdPending).length then s
    else
      match check g with
      | some c => trapScalar s g c
      | none =>
        if !predOk g (sreg g a) || !predOk g (sreg g b) then trapScalar s g 0x01
        else
          let c : Command :=
            { id := g.nextCmd, scale := scale, set := g.mset,
              preds := [(sreg g a).toNat, (sreg g b).toNat].filter fun p => p != 0, batch := 0, st := .queued,
              rows := [], faults := [] }
          retire s { xResult g d y (BitVec.ofNat 64 g.nextCmd) with
            cmds := keptCmds g ++ [c], nextCmd := nextNumber g.nextCmd, wraps := wrapsAfter g.wraps 0 g.nextCmd }

/-- XM_MMA (R239). -/
def execXmMma (d a b : Reg) (y : BitVec 1) (s : State) : Host.Outcome State Fault Refusal :=
  issueCommand s d a b y false mmaCheck

/-- XM_SCA (R240). -/
def execXmSca (d a b : Reg) (y : BitVec 1) (s : State) : Host.Outcome State Fault Refusal :=
  issueCommand s d a b y true scaCheck

/-- XM_BATCH (R241). -/
def execXmBatch (d : Reg) (y : BitVec 1) (s : State) : Host.Outcome State Fault Refusal :=
  onDrained s fun g =>
    let b := nextNumber g.cmdBatch
    retire s { xResult g d y (BitVec.ofNat 64 b) with
      cmdBatch := b, wraps := wrapsAfter g.wraps 1 g.cmdBatch, cmds := g.cmds.map fun c => if c.batch == 0 then { c with batch := b } else c }

/-! ### Running a command -/

/-- A byte of scratch as an operand row sees it: behind the copies of its own group that no `bwait` has covered, the latest
first, as far as the row sees them (R236). -/
def traceByte (row : Nat) : List CopyTrace → (cohort off : Nat) → Byte → Byte
  | [], _, _, v => v
  | t :: rest, cohort, off, v =>
    if t.cohort == cohort && t.off == off then
      (if Config.operandSeesCopy row t.num then v else traceByte row rest cohort off t.old)
    else traceByte row rest cohort off v

/-- The bytes of a place as an operand row of the group sees them (R236). -/
def operandSees (s : State) (g : Group) (l : Loc) (n : Nat) : List Byte :=
  match l with
  | .scratch c o => ((readBytes s l n).zipIdx).map fun b => traceByte s.nextId g.traces c (o + b.2) b.1
  | _ => readBytes s l n

/-- A piece of an operand: its bytes, or zeros with the access entry and the refusal of its failure (R236). -/
def operandBytes (s : State) (g : Group) (addr : Word) (n : Nat) : List Byte × Option (AccessEntry × Option EnvPlace) :=
  let x := addr.toNat
  let ag := agentOf g
  let bad (c : Nat) (gov : Option EnvPlace) :=
    (List.replicate n (0 : Byte), some ((⟨addr, 0xFD, 0, n, c, 0⟩ : AccessEntry), gov))
  if x / 2 ^ 32 == 0xFFFFF000 || (x / 2 ^ 40 == 0xFFFFE0 && bits x 24 4 == 0 && bits x 36 4 == ag.die) then
    match (resolve s ag x .load).2, (resolve s ag ((x + n - 1) % 2 ^ 64) .load).2 with
    | .ok l, .ok _ =>
      (match l with
       | .scratch c o =>
         if x / 2 ^ 32 == 0xFFFFF000 || n ≤ 128 - o % 128 then (operandSees s g l n, none)
         else
           let k := 128 - o % 128
           (match (resolve s ag ((x + k) % 2 ^ 64) .load).2 with
            | .ok l2 => (operandSees s g (.scratch c o) k ++ operandSees s g l2 (n - k), none)
            | _ => bad 0x12 none)
       | _ => bad 0x12 none)
    | .fail c gov, _ => bad c gov
    | _, .fail c gov => bad c gov
    | _, _ => bad 0x12 none
  else bad 0x12 none

/-- The `k` elements of a row, low nibble first for 4-bit types (R184, R235). -/
def rowElems (t : DType) (k : Nat) (bs : List Byte) : List Nat :=
  let v := bytesToNat bs
  (List.range k).map fun i => bits v (i * dtypeWidth t) (dtypeWidth t)

/-- The exact integer sum of products of one group of weights (R239). -/
def intDot (z : Int) : List Int → List Int → Int → Int
  | a :: as, b :: bs, acc => intDot z as bs (acc + (b - z) * a)
  | _, _, acc => acc

/-- A binary32 or binary64 accumulator plus an exact sum of products, rounded once to nearest even (R200, R201). The sign
of a zero is DEDUCED (entry 25). -/
def accumulate (f : Fmt) (acc : Nat) (terms : List FVal) : Nat :=
  let all := fdecode f acc :: terms
  if all.any isNan then defaultNan f
  else
    let infs := all.filterMap fun v => match v with | .inf n => some n | _ => none
    match infs with
    | n :: rest => if rest.all fun x => x == n then signBit f n + infBits f else defaultNan f
    | [] =>
      let e := all.foldl (fun e v => match v with | .num _ m x => if m != 0 && x < e then x else e | _ => e) (0 : Int)
      let sum : Int := all.foldl (fun a v =>
        match v with
        | .num n m x => if m == 0 then a else if n then a - shiftUp m (x - e) else a + shiftUp m (x - e)
        | _ => a) 0
      (roundTo rneCtx f (decide (sum < 0) || (sum == 0 && all.all fneg)) sum.natAbs e false).bits

/-- The products of two rows of elements (R201). -/
def rowProducts (as bs : List FVal) : List FVal := List.zipWith (fun a b => (exactProduct a b).1) as bs

/-- An accumulator after the chunks of a row, in ascending K (R200). -/
def accumulateChunks (f : Fmt) (chunk : Nat) : Nat → Nat → List FVal → Nat
  | 0, acc, _ => acc
  | n + 1, acc, ps => accumulateChunks f chunk n (accumulate f acc (ps.take chunk)) (ps.drop chunk)

/-- The products of a chunk (R200). -/
def chunkSize (p : PairInfo) : Nat :=
  match p.num with
  | 0 => 1
  | 1 => 4
  | _ => 16

/-- The elements of 64 × 64 outputs in element order, as a tile (R231). -/
def tileOf (vals : List Nat) : Sparse 32 := Sparse.ofList 0 (vals.map (BitVec.ofNat 32))

/-- A tile of a group. -/
def tileAt (g : Group) (t : Nat) : Sparse 32 := g.tiles.getD t []

/-- The tiles of an INT command (R239). -/
def mmaInt (g : Group) (m : MatrixSet) (rowsA rowsB zs : List (List Byte)) : List (Nat × Sparse 32) :=
  let k := (pairOfSet m).k
  let gd := groupDepth m
  let ta := dtypeOf m.typeA
  let tb := dtypeOf m.typeB
  let as := rowsA.map fun r => (rowElems ta k r).map (intOf ta)
  let bs := rowsB.map fun r => (rowElems tb k r).map (intOf tb)
  (List.range (groupCount m)).map fun q =>
    let zq := zs.getD q []
    let ap := as.map fun r => (r.drop (q * gd)).take gd
    let bp := (bs.zipIdx).map fun r => ((r.1.drop (q * gd)).take gd, r.2)
    let t := m.tileD + q
    (t, tileOf (((ap.zipIdx).map fun a => bp.map fun b =>
      let z : Nat := if m.grp == 0 then 0 else (zq.getD b.2 0).toNat % 2 ^ dtypeWidth tb
      let p := intDot z a.1 b.1 0
      let old : Nat := if m.acc then (Sparse.get (tileAt g t) (a.2 * 64 + b.2)).toNat else 0
      intBits 32 (p + old)).flatten))

/-- The 64 × 64 outputs of a floating command (R239). -/
def mmaFloat (g : Group) (m : MatrixSet) (rowsA rowsB : List (List Byte)) : List (Nat × Sparse 32) :=
  let p := pairOfSet m
  let wide := p.num == 0
  let f := fmtOf (if wide then .f64 else .f32)
  let ta := dtypeOf m.typeA
  let tb := dtypeOf m.typeB
  let as := (rowsA.map fun r => (rowElems ta p.k r).map (fdecode (fmtOf ta))).zipIdx
  let bs := (rowsB.map fun r => (rowElems tb p.k r).map (fdecode (fmtOf tb))).zipIdx
  let d := m.tileD
  let lo := tileAt g d
  let hi := tileAt g (d + 1)
  let out := (as.map fun a => bs.map fun b =>
    let e := a.2 * 64 + b.2
    let old :=
      if m.acc then (Sparse.get lo e).toNat + (if wide then 2 ^ 32 * (Sparse.get hi e).toNat else 0) else 0
    accumulateChunks f (chunkSize p) (divUp p.k (chunkSize p)) old (rowProducts a.1 b.1)).flatten
  if wide then [(d, tileOf (out.map fun v => v % 2 ^ 32)), (d + 1, tileOf (out.map fun v => v / 2 ^ 32))]
  else [(d, tileOf out)]

/-- The tile of a scale-and-accumulate command (R240). -/
def scaTile (g : Group) (m : MatrixSet) (scales : List (List Byte)) : List (Nat × Sparse 32) :=
  let f := fmtOf .f32
  let sc := scales.map fun r => (rowElems .f16 64 r).map (fdecode (fmtOf .f16))
  let d := tileAt g m.tileD
  [(m.tileD, tileOf ((List.range 4096).map fun e =>
    let old := if m.acc then (Sparse.get d e).toNat else 0
    (sc.zipIdx).foldl (fun acc r =>
      let p := intOf .i32 (Sparse.get (tileAt g (m.tileP + r.2)) e).toNat
      let x : FVal := .num (decide (p < 0)) p.natAbs 0
      accumulate f acc [(exactProduct (r.1.getD (e % 64) (.num false 0 0)) x).1]) old))]

/-- How many rows a command reads: of operand A, of operand B and of zero points, or of scales (R235, R238, R240). -/
def cmdRowCount (c : Command) : Nat :=
  if c.scale then groupCount c.set else if c.set.grp == 0 then 128 else 128 + groupCount c.set

/-- The address and the size of a row that a command reads, in the order of `cmdRowCount` (R235, R238). -/
def cmdRow (c : Command) (i : Nat) : Word × Nat :=
  let m := c.set
  let k := (pairOfSet m).k
  if c.scale then (m.param + 0x100 + BitVec.ofNat 64 (128 * i), 128)
  else if i < 64 then (m.baseA + BitVec.ofNat 64 i * m.strideA, k * dtypeWidth (dtypeOf m.typeA) / 8)
  else if i < 128 then (m.baseB + BitVec.ofNat 64 (i - 64) * m.strideB, k * dtypeWidth (dtypeOf m.typeB) / 8)
  else (m.param + BitVec.ofNat 64 (64 * (i - 128)), 64)

/-- The tiles that a command writes, from the rows that it has read (R236 to R240). -/
def cmdTiles (g : Group) (c : Command) : List (Nat × Sparse 32) :=
  let b := c.rows.drop 64
  if c.scale then scaTile g c.set c.rows
  else if isIntPair (pairOfSet c.set) then mmaInt g c.set (c.rows.take 64) (b.take 64) (b.drop 64)
  else mmaFloat g c.set (c.rows.take 64) (b.take 64)

/-- A command of a group's list replaced. -/
def setCmd (g : Group) (c : Command) : Group := { g with cmds := g.cmds.map fun x => if x.id == c.id then c else x }

/-- A named predecessor is still to complete (R243). -/
def predPending (g : Group) (p : Nat) : Bool := g.cmds.any fun c => c.id == p && cmdPending c

/-- A named predecessor was cancelled or completed with a fault (R243). -/
def predFailed (g : Group) (p : Nat) : Bool := g.cmds.any fun c => c.id == p && (c.st == .cancelled || c.st == .faulted)

/-- The commands before `id` in the group's list. -/
def cmdsBefore (g : Group) (id : Nat) : List Command := g.cmds.takeWhile fun c => c.id != id

/-- The command waits for an earlier one by the tile order (R232, R244). -/
def tileWait (g : Group) (c : Command) : Bool :=
  (cmdsBefore g c.id).any fun e => cmdPending e &&
    ((tilesWritten e).any (fun t => (tilesWritten c).contains t || (tilesRead c).contains t) ||
      (tilesRead e).any (tilesWritten c).contains)

/-- The engine could start a command of the group: its predecessors have completed and its tile order allows it (R243, R244). -/
def canStart (g : Group) (c : Command) : Bool :=
  c.st == .queued && !c.preds.any (predPending g) && !c.preds.any (predFailed g) && !tileWait g c

/-- The engine of the group's core could start a command of another group that comes first in the order of R90 (R244). -/
def startsLater (s : State) (g : Group) : Bool :=
  s.groups.any fun h => h.gid != g.gid && isBound h && isBound g && (agentOf h).die == (agentOf g).die &&
    (agentOf h).core == (agentOf g).core && keyBefore h g && h.cmds.any (canStart h)

/-- A command reads its next row, in a step of its own, so that a write of any agent falls before or after it; the refusal of a row
sends its envelope (R21, R236, R299). -/
def commandRow (s : State) (g : Group) (c : Command) : State :=
  let a := cmdRow c c.rows.length
  let r := operandBytes s g a.1 a.2
  let s1 := putGroup { s with nextId := s.nextId + 1 }
    (setCmd g { c with rows := c.rows ++ [r.1], faults := c.faults ++ (r.2.map fun x => x.1).toList })
  match r.2 with
  | some x => refusalEnvelope s1 x.2
  | none => s1

/-- MATRIX_COMMAND_START: a queued command whose predecessors and tile order allow it, and with no other group's before it, starts,
and one with a failed predecessor is cancelled; a started one goes on by one row (R236, R243, R244). -/
def execMatrixCommandStart (gid id : Nat) (s : State) : Host.Outcome State Fault Refusal :=
  .next <|
    match group? s gid with
    | none => s
    | some g =>
      match g.cmds.find? fun c => c.id == id with
      | none => s
      | some c =>
        if c.st == .started then (if c.rows.length < cmdRowCount c then commandRow s g c else s)
        else if c.st != .queued || c.preds.any (predPending g) then s
        else if c.preds.any (predFailed g) then putGroup s (setCmd g { c with st := .cancelled })
        else if tileWait g c || startsLater s g then s
        else putGroup s (setCmd g { c with st := .started })

/-- MATRIX_COMMAND_COMPLETE: of a command that has read all its rows the tiles are written, the work is counted, the failed
rows become pending (R236, R239, R386). -/
def execMatrixCommandComplete (gid id : Nat) (s : State) : Host.Outcome State Fault Refusal :=
  .next <|
    match group? s gid with
    | none => s
    | some g =>
      match g.cmds.find? fun c => c.id == id with
      | none => s
      | some c =>
        if c.st != .started || decide (c.rows.length < cmdRowCount c) then s
        else
          let out := cmdTiles g c
          let tiles := out.foldl (fun ts r => listSet ts r.1 r.2) g.tiles
          let g1 := { g with tiles := tiles, pend := c.faults.foldl (fun p e => pendAdd p s.nextId e) g.pend }
          let g2 :=
            if c.faults.isEmpty then { g1 with cmds := g1.cmds.filter fun x => x.id != id }
            else setCmd g1 { c with st := .faulted, rows := [], faults := [] }
          let s1 := wakeRegs (putGroup s g2) gid [] (out.map fun r => r.1)
          if c.scale then countWork s1 g2 0x0A (4096 * groupCount c.set)
          else countWork s1 g2 (0x03 + (pairOfSet c.set).num) (4096 * (pairOfSet c.set).k)

end Sys2Proof.Machine
end

