-- ==== Sys2Proof/Machine/Peers.lean ====
section
/-! DEFINITION. Single accesses once their address is resolved: loads, stores and atomics here (R155, R156, R162, R163, R277,
R278, R283), and the requests that a group sends to peer packages (R330, R334, R335). -/

namespace Sys2Proof.Machine

/-! ### Requests to peers -/

/-- A request that an instruction wants a peer package to perform (R330, R334). -/
structure PeerAsk where
  pkg : Nat
  addr : Nat
  size : Nat
  op : AccessOp
  data : List Byte
  comparand : List Byte
  copy : Nat
  entry : AccessEntry
  deriving DecidableEq, Repr

/-- The instruction that a request is made for, by the retired instructions of its stream (0 for a copy's row). -/
def instrOf (g : Group) (a : PeerAsk) : Word :=
  if a.copy != 0 then 0 else if a.entry.lane < 96 || a.entry.lane == 0xFF then g.retiredL else g.retiredS

/-- The recorded request is this one: an instruction that waits finds its own requests again, and no other instruction's. -/
def askMatches (g : Group) (a : PeerAsk) (p : PeerAccess) : Bool :=
  p.pkg == a.pkg && p.addr == a.addr && p.size == a.size && p.op == a.op && p.copy == a.copy &&
    p.entry.lane == a.entry.lane && p.instr == instrOf g a && !p.redone

/-- The request as the group has sent it. -/
def askFind (g : Group) (a : PeerAsk) : Option PeerAccess := g.peers.find? (askMatches g a)

/-- The link to a peer. -/
def link? (s : State) (peer : Nat) : Option Link := s.fabric.links.find? fun l => l.peer == peer

/-- The send allowance that a partition here holds toward a peer, in units of 256 bytes (R335). -/
def allowanceOf (s : State) (pkg part : Nat) : Nat :=
  match link? s pkg with
  | some l => (Sparse.get l.allowance part).toNat
  | none => 0

/-- The units of the allowance that a request uses (R335). -/
def askUnits (size : Nat) : Nat := Nat.max 1 (divUp size 256)

/-- The next position of the stream toward a peer (R333). -/
def nextPos (s : State) (pkg : Nat) : Nat :=
  match link? s pkg with
  | some l => l.lastPos + 1
  | none => 0

/-- A request of a partition leaves for a peer: it uses up its units of the allowance and takes the stream's next position (R333,
R335). -/
def leaveFor (s : State) (pkg part units : Nat) : State :=
  { s with fabric := { s.fabric with links := s.fabric.links.map fun l =>
      if l.peer == pkg then
        { l with allowance := Sparse.set l.allowance part (BitVec.ofNat 32 ((Sparse.get l.allowance part).toNat - units)),
                 lastPos := l.lastPos + 1 }
      else l } }

/-- Payload bytes that cross the package boundary for a group, counted (R386). -/
def countFabric (s : State) (gid n : Nat) : State :=
  match group? s gid with
  | some g => countRegion s g.part g.region 0x0C n
  | none => s

/-- The positions of a group's stores in the stream toward a package that no release or message covers yet (R316, R317). -/
def uncovered (g : Group) (pkg : Nat) : List Nat := (g.stores.filter fun x => x.1 == pkg).map fun x => x.2

/-- The request is a stream release: a store or atomic right after `fence.mem.pkg` (R167, R316). DEDUCED (entry 31). -/
def isRelease (g : Group) (a : PeerAsk) : Bool := g.fenced && a.op != .read && a.copy == 0

/-- A request as it is recorded when it leaves: a stream release carries the count of the group's stores of its stream that no
earlier release or message has covered, modulo 2^24 (R316, R339). -/
def askRecord (s : State) (g : Group) (a : PeerAsk) : PeerAccess :=
  let cover := if isRelease g a then uncovered g a.pkg else []
  { ticket := s.nextId, pos := nextPos s a.pkg, pkg := a.pkg, addr := a.addr, size := a.size, op := a.op, data := a.data,
    comparand := a.comparand, stamp := g.stamp, release := if isRelease g a then some (cover.length % 2 ^ 24) else none,
    cover := cover, copy := a.copy, entry := a.entry, reply := none, instr := instrOf g a, redone := false }

/-- A group's uncovered stores after a request of it has left: a release covers those of its stream, and a store is one more (R316,
R319). -/
def storesAfter (s : State) (g : Group) (a : PeerAsk) : List (Nat × Nat) :=
  let rest := if isRelease g a then g.stores.filter fun x => x.1 != a.pkg else g.stores
  if a.op == .write && a.copy == 0 then rest ++ [(a.pkg, nextPos s a.pkg)] else rest

/-- The line of a peer that a group's load is about, as it may come to its core's load cache: asked for, and not here yet (R263,
R330). -/
def lineAsked (s : State) (g : Group) (a : PeerAsk) : State :=
  if a.op == .read && a.copy == 0 && a.entry.lane != 0xFE && a.entry.lane != 0xFF && isBound g then
    { s with cache :=
        ⟨(agentOf g).die, (agentOf g).core, false, alignDown (peerKey g.part a.pkg a.addr) 128, [], some s.nextId⟩ :: s.cache }
  else s

/-- A request sent and recorded as outstanding (R316, R335, R341). -/
def askSend (s : State) (gid : Nat) (a : PeerAsk) : State :=
  match group? s gid with
  | none => s
  | some g =>
    let s1 := countFabric (leaveFor (lineAsked s g a) a.pkg g.part (askUnits a.size)) gid
      (a.data.length + if a.op == .atomic 9 then a.comparand.length else 0)
    { modGroup s1 gid (fun x => { x with peers := x.peers ++ [askRecord s g a], stores := storesAfter s g a })
      with nextId := s1.nextId + 1 }

/-- The cause of a request that a peer answers with an error, whose data is then one byte: 0x15 for a function that is torn
down or a path that is gone, 0x12 for a page that takes no access, else a refusal (R330, R333, R336). DESIGN CHOICE (entry
4). -/
def replyCause (data : List Byte) : Nat :=
  match data.head? with
  | some b => if b == 0x15 then 0x15 else if b == 0x12 then 0x12 else 0x13
  | none => 0x13

/-- What an access of a peer's HBM gives: the answer to its request; where none has been sent, a failure if no path leads there, or
for a load the bytes of a line that its core's load cache holds; or nothing yet (R263, R330, R333, R336). -/
def peerNow (s : State) (g : Group) (a : PeerAsk) : Option (Except Nat (List Byte)) :=
  match askFind g a with
  | some p => p.reply.map fun r => if r.1 then .ok r.2 else .error (replyCause r.2)
  | none =>
    if !reachable s a.pkg g.part then some (.error 0x15)
    else if a.op == .read && a.copy == 0 then
      (cacheFind s (agentOf g).die (agentOf g).core false (peerKey g.part a.pkg a.addr)).map fun c =>
        .ok (Sparse.getRange c.bytes (a.addr % 128) a.size)
    else none

/-- The requests of an instruction that are needed and not sent yet, sent as far as allowances reach (R335). -/
def asksSend (s : State) (gid : Nat) (asks : List PeerAsk) : State :=
  asks.foldl (fun s a =>
    match group? s gid with
    | none => s
    | some g =>
      if (askFind g a).isSome || (peerNow s g a).isSome || decide (allowanceOf s a.pkg g.part < askUnits a.size) then s
      else askSend s gid a) s

/-- The allowances of a partition toward peers suffice for some requests together (R335). -/
def allowancesFor (s : State) (part : Nat) (asks : List (Nat × Nat)) : Bool :=
  asks.all fun a =>
    decide (((asks.filter fun b => b.1 == a.1).foldl (fun n b => n + askUnits b.2) 0) ≤ allowanceOf s a.1 part)

/-- Every access of a peer that an instruction makes has what it needs. -/
def asksReady (s : State) (g : Group) (asks : List PeerAsk) : Bool := asks.all fun a => (peerNow s g a).isSome

/-- The requests of an instruction forgotten when it retires. -/
def asksDrop (s : State) (gid : Nat) (asks : List PeerAsk) : State :=
  if asks.isEmpty then s
  else modGroup s gid fun g => { g with peers := g.peers.filter fun p => !(asks.any fun a => askMatches g a p) }

/-- The lines of a place that a core has asked of a peer are not kept when they come, but for the request `but`: something newer has
reached the core since (R134, R307). -/
def forgetAsked (s : State) (die core place : Nat) (but : Option Nat) : State :=
  { s with cache := s.cache.filter fun c =>
      c.asked.isNone || c.asked == but || c.die != die || c.core != core || c.line != alignDown place 128 }

/-- A posted store to a peer: it updates its own core's load cache, it is sent, and its acknowledgement is waited for by fences
alone (R134, R165, R263, R317, R335). -/
def peerPost (s : State) (gid pkg addr : Nat) (bs : List Byte) (e : AccessEntry) : State :=
  match group? s gid with
  | none => s
  | some g =>
    let ag := agentOf g
    let key := peerKey g.part pkg addr
    askSend (forgetAsked (cacheUpdate s ag.die ag.core key bs) ag.die ag.core key none) gid ⟨pkg, addr, bs.length, .write, bs, [], 0, e⟩

/-- `more` stores of a group to one peer would be too many on the way at once: R339 bounds them by 2^23. -/
def storesFull (g : Group) (pkg more : Nat) : Bool :=
  decide (2 ^ 23 < (g.peers.filter fun p => p.pkg == pkg && p.op == .write && p.copy == 0).length + more)

/-- The peers that stores of a partition to some places of `n` bytes each go to, with their sizes; those that no path leads to are
sent nothing (R333). -/
def storeAsks (s : State) (part n : Nat) (rs : List Res) : List (Nat × Nat) :=
  rs.filterMap fun r =>
    match r with
    | .ok (.peer k _) => if reachable s k part then some (k, n) else none
    | _ => none

/-- Stores of `n` bytes to these places have to wait: a page is being zeroed, the allowances toward the peers do not suffice for
them, or too many stores are on the way (R267, R335, R339). -/
def storesWait (s : State) (g : Group) (n : Nat) (rs : List Res) : Bool :=
  let asks := storeAsks s g.part n rs
  rs.contains .wait || !allowancesFor s g.part asks ||
    asks.any fun a => storesFull g a.1 (asks.filter fun b => b.1 == a.1).length

/-! ### One access -/

/-- The kind of an access entry: 0 load, 1 store, 2 atomic, 4 when the address is of on-chip kind 1 or 2 (R280). -/
def entryKind (kind x : Nat) : Nat := if chipKind12 x then 4 else kind

/-- An access entry as issued, its cause still to come. -/
def entryOf (x lane kind size : Nat) : AccessEntry := ⟨BitVec.ofNat 64 x, lane, entryKind kind x, size, 0, 0⟩

/-- The request of a load whose address leads to a peer. -/
def loadAsk (e : AccessEntry) (size : Nat) : Res → List PeerAsk
  | .ok (.peer k a) => [⟨k, a, size, .read, [], [], 0, e⟩]
  | _ => []

/-- A load of `n` bytes, its address resolved and its request, if any, answered: the bytes, zero where it fails (R155,
R277, R280). -/
def performLoad (s : State) (g : Group) (e : AccessEntry) (r : Res) (n : Nat) : State × List Byte :=
  let zeros : List Byte := List.replicate n 0
  match r with
  | .fail c gov => (notePending s g.gid { e with cause := c } gov, zeros)
  | .wait => (s, zeros)
  | .ok (.peer k a) =>
    (match peerNow s g ⟨k, a, n, .read, [], [], 0, e⟩ with
     | some (.ok data) => (s, (data ++ zeros).take n)
     | some (.error c) => (notePending s g.gid { e with cause := c } none, zeros)
     | none => (s, zeros))
  | .ok l => loadBytes s (agentOf g).die (agentOf g).core l n

/-- A store of bytes, its address resolved (R156, R278, R280). -/
def performStore (s : State) (g : Group) (cls : Nat) (e : AccessEntry) (r : Res) (bs : List Byte) : State :=
  match r with
  | .fail c gov => notePending s g.gid { e with cause := c } gov
  | .wait => s
  | .ok (.peer k a) =>
    if reachable s k g.part then peerPost s g.gid k a bs e else notePending s g.gid { e with cause := 0x15 } none
  | .ok l => storeBytes s (writerOf g cls) l bs

/-! ### Atomics -/

/-- A value of `size` bytes as a signed number. -/
def signedOf (size v : Nat) : Int := if bitOf v (8 * size - 1) then (v : Int) - 2 ^ (8 * size) else v

/-- The new value of an atomic (R110, R162, R163); `cmp` is the comparand of cas. -/
def amoNew (op size old v cmp : Nat) : Nat :=
  match op with
  | 0 => (old + v) % 2 ^ (8 * size)
  | 1 => old &&& v
  | 2 => old ||| v
  | 3 => old ^^^ v
  | 4 => if signedOf size v < signedOf size old then v else old
  | 5 => if signedOf size old < signedOf size v then v else old
  | 6 => if v < old then v else old
  | 7 => if old < v then v else old
  | 8 => v
  | 9 => if old == cmp then v else old
  | 10 => faddBits (fmtOf .f32) (old % 2 ^ 32) (v % 2 ^ 32)
  | _ => faddBits (fmtOf .f64) old v

/-- An atomic at a place here, in one step: the state after it and the value fetched (R162, R164, R269). -/
def atomicAt (s : State) (g : Group) (l : Loc) (size op v cmp : Nat) : State × Nat :=
  let old := bytesToNat (readBytes s l size)
  let s1 :=
    if op == 9 && old != cmp then s
    else storeBytes s (writerOf g 4) l (natToBytes size (amoNew op size old v cmp))
  match l with
  | .mem p => (dropLineAt s1 (agentOf g).die (agentOf g).core p, old)
  | _ => (s1, old)

/-- The request of an atomic whose address leads to a peer (R334). -/
def amoAsk (e : AccessEntry) (size op v cmp : Nat) : Res → List PeerAsk
  | .ok (.peer k a) => [⟨k, a, size, .atomic op, natToBytes size v, natToBytes size cmp, 0, e⟩]
  | _ => []

/-- An atomic, its address resolved and its request, if any, answered: the value fetched, or the failure (R162, R280). -/
def performAmo (s : State) (g : Group) (e : AccessEntry) (r : Res) (size op v cmp : Nat) :
    State × Except (Nat × Option EnvPlace) Nat :=
  match r with
  | .fail c gov => (s, .error (c, gov))
  | .wait => (s, .ok 0)
  | .ok (.peer k a) =>
    (match peerNow s g ⟨k, a, size, .atomic op, natToBytes size v, natToBytes size cmp, 0, e⟩ with
     | some (.ok data) => (s, .ok (bytesAt data 0 size))
     | some (.error c) => (s, .error (c, none))
     | none => (s, .ok 0))
  | .ok l =>
    let x := atomicAt s g l size op v cmp
    (x.1, .ok x.2)

/-- The address of an atomic resolved: alignment, then the on-chip kinds that take none, then the map (R162, R260, R274). -/
def resolveAtomic (s : State) (ag : Agent) (x size : Nat) : State × Res :=
  if x % size == 0 && chipNoAtomic x then (s, .fail 0x12 none) else resolveAligned s ag x size .atomic

end Sys2Proof.Machine
end

