-- ==== Sys2Proof/Machine/Queues.lean ====
section
/-! DEFINITION. Guest-physical memory as the device itself reads and writes it (R39, R67), and the split virtqueues of the
launch functions (R66 to R69) in the layout of VIRTIO 1.x. -/

namespace Sys2Proof.Machine

/-! ### Guest-physical memory -/

/-- The pieces of `n` bytes, at most 64 KiB, at a guest-physical address, at most two, each found by `piece`; none where one is not
found. -/
def spanPlaces (piece : State → Nat → Nat → State × Option Nat) (s : State) (a n : Nat) : State × Option (List (Nat × Nat)) :=
  let room := 0x10000 - a % 0x10000
  if n ≤ room then
    let r := piece s a n
    (r.1, r.2.map fun x => [(x, n)])
  else
    let r := piece s a room
    let q := piece r.1 (a + room) (n - room)
    (q.1, match r.2, q.2 with
          | some x, some y => some [(x, room), (y, n - room)]
          | _, _ => none)

/-- `n` bytes read at pieces that `piece` finds. -/
def spanGet (piece : State → Nat → Nat → State × Option Nat) (s : State) (a n : Nat) : State × Option (List Byte) :=
  let r := spanPlaces piece s a n
  (r.1, r.2.map (placesRead r.1))

/-- Bytes written at pieces that `piece` finds, and whether they were written. -/
def spanSet (piece : State → Nat → Nat → State × Option Nat) (s : State) (a : Nat) (bs : List Byte) : State × Bool :=
  let r := spanPlaces piece s a bs.length
  match r.2 with
  | some ps => (placesPut r.1 ps bs, true)
  | none => (r.1, false)

/-- The pieces of `n` bytes from an address on, page by page, each found by `piece`; none where one is not found. -/
def pagePlaces (piece : State → Nat → Nat → State × Option Nat) : Nat → State → Nat → Nat → State × Option (List (Nat × Nat))
  | 0, s, _, _ => (s, some [])
  | fuel + 1, s, a, n =>
    if n == 0 then (s, some [])
    else
      let k := Nat.min n (0x10000 - a % 0x10000)
      let r := piece s a k
      match r.2 with
      | none => (r.1, none)
      | some place =>
        let q := pagePlaces piece fuel r.1 (a + k) (n - k)
        (q.1, q.2.map fun ps => (place, k) :: ps)

/-- The state after an access of a unit of this device that failed with a cause at a place: a refusal under R18 sends its envelope
(R21). A peer that refuses sends it itself (R330). -/
def unitRefused (s : State) (cause place : Nat) : State :=
  if cause == 0x13 && decide (place < hbmSize) then refusalEnvelope s (some (pagePlace s place)) else s

/-- The place of an address of a partition's guest-physical memory; none where the page does not translate, lacks the right or is
another partition's, which sends the envelope of a refusal (R18, R21, R39). A fresh page has been zeroed (R267). -/
def guestPlace (p : Part) (write : Bool) (s : State) (gpa : Nat) : State × Option Nat :=
  let s1 := pageReady s p gpa
  match placeOf2 s1 p gpa write with
  | .ok a => (s1, some a)
  | .error c =>
    (match stage2 s1 p gpa with
     | .ok pg => if pg.target == 0 then unitRefused s1 c (pg.base + gpa % pg.size) else s1
     | _ => s1, none)

/-- The place of `n` bytes in one page of a partition's guest-physical memory; none where a line of them has an uncorrectable error
too (R39, R263). -/
def guestPiece (p : Part) (write : Bool) (s : State) (gpa n : Nat) : State × Option Nat :=
  let r := guestPlace p write s gpa
  (r.1, r.2.bind fun a => if rangeBad r.1 a n then none else some a)

/-- `n` bytes, at most 64 KiB, of a partition's guest-physical memory, and the state after the access (R18, R39). -/
def guestGet (s : State) (p : Part) (gpa n : Nat) : State × Option (List Byte) := spanGet (guestPiece p false) s gpa n

/-- Bytes, at most 64 KiB, written to a partition's guest-physical memory, and whether they were written (R18, R39). -/
def guestSet (s : State) (p : Part) (gpa : Nat) (bs : List Byte) : State × Bool := spanSet (guestPiece p true) s gpa bs

/-- The state after a look at `n` bytes of a partition's guest-physical memory that are to be written, and whether they can be. -/
def guestTakes (s : State) (p : Part) (gpa n : Nat) : State × Bool :=
  let r := spanPlaces (guestPiece p true) s gpa n
  (r.1, r.2.isSome)

/-- `n` bytes, at most 64 KiB, of a partition's guest-physical memory; none where they cannot be read. -/
def guestRead (s : State) (p : Part) (gpa n : Nat) : Option (List Byte) := (guestGet s p gpa n).2

/-- Bytes, at most 64 KiB, written to a partition's guest-physical memory; none where they cannot be written. -/
def guestWrite (s : State) (p : Part) (gpa : Nat) (bs : List Byte) : Option State :=
  let r := guestSet s p gpa bs
  if r.2 then some r.1 else none

/-- The places of the 64 KiB pages of a guest-physical range; none where one is not found (R39). -/
def guestPages (s : State) (p : Part) (write : Bool) (base len : Nat) : State × Option (List Nat) :=
  (List.range ((base + len - 1) / 0x10000 + 1 - base / 0x10000)).foldl (fun r k =>
    let x := guestPlace p write r.1 (base / 0x10000 * 0x10000 + k * 0x10000)
    (x.1, match r.2, x.2 with
          | some as, some a => some (as ++ [a])
          | _, _ => none)) (s, some [])

/-- Bytes written where they can be, else nothing. -/
def guestPut (s : State) (p : Part) (gpa : Nat) (bs : List Byte) : State := (guestSet s p gpa bs).1

/-! ### Queues -/

/-- A launch function (R66). -/
def launchFn? (s : State) (fn : Nat) : Option LaunchFn := s.launchFns.find? fun f => f.fn == fn

/-- A queue of a launch function as it stands after reset (R66, R69). -/
def VQueue.reset (i : Nat) : VQueue :=
  { index := i, size := 0, vector := 0xFFFF, enabled := false, broken := false, desc := 0, driver := 0, device := 0,
    descAt := [], driverAt := [], deviceAt := [], lastAvail := 0, usedIdx := 0, signalled := 0, stopped := false }

/-- A queue of a launch function. -/
def vqueue? (f : LaunchFn) (q : Nat) : Option VQueue := f.queues.find? fun x => x.index == q

/-- The state with a launch function changed. -/
def modFn (s : State) (fn : Nat) (f : LaunchFn → LaunchFn) : State :=
  { s with launchFns := s.launchFns.map fun x => if x.fn == fn then f x else x }

/-- The state with a queue of a launch function changed. -/
def modQueue (s : State) (fn q : Nat) (f : VQueue → VQueue) : State :=
  modFn s fn fun x => { x with queues := x.queues.map fun y => if y.index == q then f y else y }

/-- An access that gets an error response is counted in the function's AER status (R16, R69). -/
def unsupported (s : State) (fn : Nat) : State := modFn s fn fun x => { x with unsupported := x.unsupported + 1 }

/-- A queue enters the broken state: the first of a function leaves the error record, and the configuration bit of the ISR status
tells of the change (R66, R69). The bit is PRESUMED from VIRTIO (entry 7). -/
def breakQueue (s : State) (fn q cause value : Nat) : State :=
  modFn (modQueue s fn q fun x => { x with broken := true }) fn fun x =>
    { x with
      status := x.status ||| 0x40
      isr := x.isr ||| 2
      errQueue := if x.errSeen then x.errQueue else q
      errCause := if x.errSeen then x.errCause else cause
      errValue := if x.errSeen then x.errValue else value
      errSeen := true }

/-- The page of a ring on which a guest-physical address lies, as the write of the ring's base found it (R67). -/
def ringPage (base : Nat) (pages : List (Option Nat)) (a : Nat) : Option Nat := pages.getD (a / 0x10000 - base / 0x10000) none

/-- The place of `n` bytes in one page that an earlier translation gave: none where the page is not the partition's any more, which
sends the envelope of a refusal, or a line has an uncorrectable error (R18, R21, R263). A fresh page has been zeroed (R267). -/
def keptPiece (part : Nat) (s : State) (place n : Nat) : State × Option Nat :=
  let s1 := finishPage s place
  match keptPlace s1 part place with
  | .ok x => (s1, if rangeBad s1 x n then none else some x)
  | .error c => (unitRefused s1 c place, none)

/-- The pages on which `n` bytes of a ring at a base lie (R67). -/
def ringPages (s : State) (p : Part) (write : Bool) (base n : Nat) : State × List (Option Nat) :=
  (List.range ((base + n - 1) / 0x10000 + 1 - base / 0x10000)).foldl (fun r k =>
    let x := guestPlace p write r.1 (base / 0x10000 * 0x10000 + k * 0x10000)
    (x.1, r.2 ++ [x.2])) (s, [])

/-- The place of `n` bytes in one page of a ring; its page must still be the partition's (R18, R67). -/
def ringPiece (part base : Nat) (pages : List (Option Nat)) (s : State) (a n : Nat) : State × Option Nat :=
  match ringPage base pages a with
  | none => (s, none)
  | some pg => keptPiece part s (pg + a % 0x10000) n

/-- A used entry written to a queue, and the used index advanced (R68). PRESUMED from VIRTIO (entry 7). -/
def pushUsed (s : State) (fn q head len : Nat) : State :=
  match launchFn? s fn with
  | none => s
  | some f =>
    match vqueue? f q, part? s f.part with
    | some v, some p =>
      if !v.enabled || v.broken then s
      else
        let put (s : State) (o : Nat) (bs : List Byte) : State :=
          (spanSet (ringPiece p.id v.device v.deviceAt) s (v.device + o) bs).1
        let s1 := put s (4 + 8 * (v.usedIdx % v.size)) (natToBytes 4 head ++ natToBytes 4 len)
        let s2 := put s1 2 (natToBytes 2 (v.usedIdx + 1))
        modQueue s2 fn q fun x => { x with usedIdx := (x.usedIdx + 1) % 2 ^ 16 }
    | _, _ => s

/-- A descriptor of a split virtqueue. -/
structure Desc where
  addr : Nat
  len : Nat
  write : Bool
  deriving DecidableEq, Repr

/-- A descriptor chain: its descriptors; a break of the queue with its cause and the descriptor's address (R69); or a table
that cannot be read. -/
inductive Chain where
  | ok (ds : List Desc)
  | broken (cause value : Nat)
  | unreadable
  deriving DecidableEq, Repr

/-- The descriptors of a chain from index `i` of a table of `count` descriptors, read by `get`; `size` is the queue size, at
or above which no index lies (R68, R69). PRESUMED from VIRTIO (entries 7 and 30). -/
def walkChain (get : State → Nat → Nat → State × Option (List Byte)) (table count size : Nat) :
    Nat → State → Nat → List Desc → State × Chain
  | 0, s, i, _ => (s, .broken 4 (table + 16 * i))
  | fuel + 1, s, i, acc =>
    let at_ := table + 16 * i
    if Nat.min count size ≤ i then (s, .broken 3 at_)
    else if size ≤ acc.length then (s, .broken 4 at_)
    else
      let r := get s at_ 16
      match r.2 with
      | none => (r.1, .unreadable)
      | some b =>
        let flags := bytesAt b 12 2
        let ds := acc ++ [⟨bytesAt b 0 8, bytesAt b 8 4, bitOf flags 1⟩]
        if bitOf flags 0 then walkChain get table count size fuel r.1 (bytesAt b 14 2) ds else (r.1, .ok ds)

/-- The chain at a head index, given directly or through one indirect table (R68). PRESUMED from VIRTIO (entry 30). -/
def readChain (s : State) (p : Part) (v : VQueue) (head : Nat) : State × Chain :=
  let get := spanGet (ringPiece p.id v.desc v.descAt)
  if v.size ≤ head then (s, .broken 3 (v.desc + 16 * head))
  else
    let r := get s (v.desc + 16 * head) 16
    match r.2 with
    | none => (r.1, .unreadable)
    | some b =>
      if bitOf (bytesAt b 12 2) 2 then
        walkChain (fun s a n => guestGet s p a n) (bytesAt b 0 8) (bytesAt b 8 4 / 16) v.size (v.size + 1) r.1 0 []
      else walkChain get v.desc v.size v.size (v.size + 1) r.1 head []

/-- An unsigned 16-bit value of a queue's driver area, `o` bytes from its base on. PRESUMED from VIRTIO (entry 7). -/
def driverNat (s : State) (p : Part) (v : VQueue) (o : Nat) : State × Option Nat :=
  let r := spanGet (ringPiece p.id v.driver v.driverAt) s (v.driver + o) 2
  (r.1, r.2.map bytesToNat)

/-- The available index of a queue. PRESUMED from VIRTIO (entry 7). -/
def availIdx (s : State) (p : Part) (v : VQueue) : State × Option Nat := driverNat s p v 2

/-- The head of the next available chain. -/
def availHead (s : State) (p : Part) (v : VQueue) : State × Option Nat := driverNat s p v (4 + 2 * (v.lastAvail % v.size))

/-- The next available chain is taken. -/
def takeAvail (s : State) (fn q : Nat) : State := modQueue s fn q fun x => { x with lastAvail := (x.lastAvail + 1) % 2 ^ 16 }

/-! ### Launch requests -/

/-- The 16 bytes of a status (R68). -/
def statusBytes (status handle detail : Nat) : List Byte := natToBytes 4 status ++ natToBytes 4 handle ++ natToBytes 8 detail

/-- A status and its used entry written (R68); a request that came along with a partition is answered by a function of that
partition alone (R78). DESIGN CHOICE (entry 56): a status whose buffer cannot be written is dropped, and its used entry has the
length 16 all the same. -/
def answerLaunch (s : State) (o : Offer) (status handle detail : Nat) : State :=
  match launchFn? s o.fn with
  | none => s
  | some f =>
    match part? s f.part with
    | none => s
    | some p =>
      if f.part == o.part && (vqueue? f o.queue).any fun v => v.enabled && !v.broken then
        pushUsed (guestPut s p o.status (statusBytes status handle detail)) o.fn o.queue o.head 16
      else s

/-- What a chain of an even queue asks for (R68): a launch, a status 2 in a buffer, a used entry of length 0, a break. -/
inductive Request where
  | launch (record status : Nat) (hold : Bool)
  | bad (status : Nat)
  | skip
  | broken (cause value : Nat)
  deriving DecidableEq, Repr

/-- The answer to a chain that is not well shaped: its last descriptor translates if its buffer can be written (R68). -/
def lastBad (s : State) (p : Part) (ds : List Desc) : State × Request :=
  match ds.getLast? with
  | none => (s, .skip)
  | some d =>
    if d.write && decide (16 ≤ d.len) then
      let r := guestTakes s p d.addr 16
      (r.1, if r.2 then .bad d.addr else .skip)
    else (s, .skip)

/-- The request in a chain (R68). -/
def parseRequest (s : State) (p : Part) : Chain → State × Request
  | .broken c v => (s, .broken c v)
  | .unreadable => (s, .skip)
  | .ok ds =>
    match ds with
    | [r, w] =>
      if !r.write && w.write && decide (64 ≤ r.len) && decide (16 ≤ w.len) then
        let x := guestGet s p r.addr 64
        (x.1, match x.2 with
          | none => .bad w.addr
          | some b =>
            if bytesAt b 8 4 == 1 && decide (bytesAt b 12 4 < 2) && bytesAt b 16 48 == 0 then
              .launch (bytesAt b 0 8) w.addr (bytesAt b 12 4 == 1)
            else .bad w.addr)
      else lastBad s p ds
    | _ => lastBad s p ds

/-- Chains consumed until a launch is offered, the queue runs dry, stops or breaks (R65, R68 to R70). DESIGN CHOICE (entry
56): while the available ring cannot be read, nothing is consumed and the queue is not broken. -/
def consume : Nat → State → Nat → Nat → State
  | 0, s, _, _ => s
  | fuel + 1, s, fn, q =>
    match launchFn? s fn with
    | none => s
    | some f =>
      match vqueue? f q, part? s f.part with
      | some v, some p =>
        if !v.enabled || v.broken || v.stopped || p.stopped || (s.offers.any fun o => o.part == p.id && o.fn == fn && o.queue == q) then s
        else
          let r := availIdx s p v
          match r.2 with
          | none => r.1
          | some i =>
            if v.size < (i + 2 ^ 16 - v.lastAvail) % 2 ^ 16 then breakQueue r.1 fn q 2 i
            else if i == v.lastAvail then r.1
            else
              let h := availHead r.1 p v
              match h.2 with
              | none => h.1
              | some head =>
                let c := readChain h.1 p v head
                let x := parseRequest c.1 p c.2
                let s1 := takeAvail x.1 fn q
                match x.2 with
                | .broken c v => breakQueue x.1 fn q c v
                | .skip => consume fuel (pushUsed s1 fn q head 0) fn q
                | .bad w =>
                  consume fuel (answerLaunch s1 ⟨0, p.id, 0, fn, q, head, w, false, none⟩ 2 0 0) fn q
                | .launch r w hold =>
                  { s1 with nextId := s1.nextId + 1,
                            offers := s1.offers ++ [⟨s1.nextId, p.id, BitVec.ofNat 64 r, fn, q, head, w, hold, none⟩] }
      | _, _ => s

/-- A held request's used entry at the end of its task: 3 completed, 4 failed, 5 cancelled (R68, R77). -/
def answerHeld (s : State) (t : Task) (status : Nat) : State :=
  match t.held with
  | none => s
  | some o => answerLaunch s o status t.handle 0

end Sys2Proof.Machine
end

