-- ==== Sys2Proof/Machine/Tasks.lean ====
section
/-! DEFINITION. Tasks: the checks and the acceptance of a launch (R44, R45, R53 to R55, R63 to R65, R70, R71), firing (R72),
and the ends of a task (R71, R77). -/

namespace Sys2Proof.Machine

/-! ### Structures read from memory -/

/-- What the device's read of a structure in a partition's pages gives (R64). -/
inductive GuestBytes where
  | ok (bs : List Byte)
  | fail
  | wait
  deriving DecidableEq, Repr

/-- A place of host memory, which is in no page of a partition (R14, R18, R265). -/
def inHost (p : Nat) : Bool := decide (hostBase ≤ p) && decide (p < peerBase)

/-- `n` pieces of 64 bytes from a 64-aligned virtual address on, each in a page of the partition where its stages lead; a refusal
sends its envelope (R21, R44, R55, R64). -/
def readPieces (s : State) (part : Nat) : Nat → Nat → State × GuestBytes
  | 0, _ => (s, .ok [])
  | n + 1, va =>
    let r := resolve s (partUnit part) (va % 2 ^ 64) .load
    match r.2 with
    | .wait => (r.1, .wait)
    | .fail _ gov => (refusalEnvelope r.1 gov, .fail)
    | .ok (.mem p) =>
      if inHost p then (r.1, .fail)
      else
      let q := readPieces r.1 part n (va + 64)
      (q.1, match q.2 with
            | .ok bs => .ok (Sparse.getRange r.1.mem p 64 ++ bs)
            | x => x)
    | .ok _ => (r.1, .fail)

/-! ### Region chains -/

/-- A block of a region chain: its address, its bytes, its latched copy if its region is active, and whether its parent can
be read (R45, R46, R64). -/
structure ChainBlock where
  addr : Nat
  bytes : List Byte
  latched : Option Region
  parentOk : Bool

/-- The region id of a block: its latched copy's while its region is active (R46). -/
def ChainBlock.id (b : ChainBlock) : Nat :=
  match b.latched with
  | some r => r.id
  | none => bytesAt b.bytes 8 4

/-- A region chain read from the task's region toward the root, as far as the first latched block, the root, or a parent that
cannot be read; `deep` when it does not end in nine blocks (R45, R46). -/
structure ChainRead where
  blocks : List ChainBlock
  deep : Bool
  wait : Bool

/-- The active region whose control block lies at an address. -/
def latchedAt (s : State) (part addr : Nat) : Option Region :=
  s.regions.find? fun r => r.active && r.part == part && r.addr.toNat == addr

/-- The blocks from `addr` up (R45, R64); the block at `addr` has been found readable and is `bytes`. -/
def readUp (part : Nat) : Nat → State → Nat → List Byte → State × ChainRead
  | 0, s, _, _ => (s, ⟨[], true, false⟩)
  | n + 1, s, addr, bytes =>
    match latchedAt s part addr with
    | some r => (s, ⟨[⟨addr, bytes, some r, true⟩], false, false⟩)
    | none =>
      let parent := bytesAt bytes 0 8
      if parent == 0 then (s, ⟨[⟨addr, bytes, none, true⟩], false, false⟩)
      else if parent % 64 != 0 then (s, ⟨[⟨addr, bytes, none, false⟩], false, false⟩)
      else
        let r := readPieces s part 4 parent
        match r.2 with
        | .wait => (r.1, ⟨[], false, true⟩)
        | .fail => (r.1, ⟨[⟨addr, bytes, none, false⟩], false, false⟩)
        | .ok bs =>
          let q := readUp part n r.1 parent bs
          (q.1, { q.2 with blocks := ⟨addr, bytes, none, true⟩ :: q.2.blocks })

/-- The region that a block describes, not yet active (R44). -/
def regionOf (part : Nat) (b : ChainBlock) (parent : Option Nat) : Region :=
  match b.latched with
  | some r => r
  | none =>
    let f (o n : Nat) : Nat := bytesAt b.bytes o n
    { part := part, id := f 8 4, addr := BitVec.ofNat 64 b.addr, parent := parent, flags := f 0x0C 4, prio := f 0x10 1,
      opDefault := f 0x11 1, dieMask := f 0x12 1, slotCap := f 0x14 2, parkCap := f 0x16 2, scratchCap := f 0x18 4,
      tileCap := f 0x1C 2, handler := BitVec.ofNat 64 (f 0x20 8), bodyBuf := BitVec.ofNat 64 (f 0x28 8),
      counterArea := BitVec.ofNat 64 (f 0x30 8), consent := BitVec.ofNat 64 (f 0x38 8), counterPlace := 0,
      active := false, activations := 0, counters := [], slots := 0, parked := 0, scratch := 0, tiles := 0,
      mismatchSent := false, authWritten := false, watch := [],
      demand := [] }

/-- The regions of a chain, the task's own first; above a latched block come its own ancestors (R46). -/
def chainRegions (s : State) (part : Nat) : List ChainBlock → List Region
  | [] => []
  | b :: rest =>
    match b.latched with
    | some r => chain s part r.id
    | none => regionOf part b (rest.head?.map ChainBlock.id) :: chainRegions s part rest

/-- The counter area's place, if it lies in a page of the partition with both rights in both stages, and the state in which a
fresh page there has been zeroed (R53, R267). -/
def counterAreaPlace (s : State) (part va : Nat) : State × Res := resolve s (partUnit part) va .atomic

/-- The home of the counters that an area found there has; none where it is not in memory. DESIGN CHOICE (entry 56). -/
def countersHome (r : Res) : Nat :=
  match r with
  | .ok (.mem p) => p
  | _ => noCounters

/-- The offset of the first field of a block that breaks R45 without its parent's values (R64 step 3); `deep` for a block more
than seven steps from the root, `others` the blocks above it. Partition 0 is never bound, so that no root is named in it.
DEDUCED for partition 0 (entry 52). DESIGN CHOICE (entry 56): a counter area must lie in this package's HBM; the offset is
0x00 too for a block more than seven steps from the root and for a parent of 0 in a block that is not the root; a root whose
consent record address is misaligned passes here. -/
def blockCheck (s : State) (part : Nat) (b : ChainBlock) (deep : Bool) (others : List ChainBlock) : Option Nat :=
  let f (o n : Nat) : Nat := bytesAt b.bytes o n
  let flags := f 0x0C 4
  let root := f 0 8 == 0
  let rootAddr := (part? s part).map fun p => p.root.toNat
  let inh (k : Nat) : Bool := bitOf flags k
  let budget (v : Nat) : Bool := if inh 2 then v == 0 else v != 0
  let bad : List (Bool × Nat) :=
    [ (deep || !b.parentOk || (root && part != 0 && rootAddr != some b.addr), 0x00),
      (f 8 4 == 0 || (s.regions.any fun r => r.active && r.part == part && r.id == f 8 4) ||
        (others.any fun o => o.id == f 8 4), 0x08),
      (decide (128 ≤ flags) || (root && decide (4 ≤ flags)), 0x0C),
      ((if inh 3 then f 0x10 1 != 0 else decide ((if part == 0 then 11 else 9) < f 0x10 1)), 0x10),
      ((if inh 5 then f 0x11 1 != 0 else decide (15 < f 0x11 1)), 0x11),
      ((if inh 4 then f 0x12 1 != 0 else f 0x12 1 == 0), 0x12),
      (!budget (f 0x14 2), 0x14), (!budget (f 0x16 2), 0x16), (!budget (f 0x18 4), 0x18), (!budget (f 0x1C 2), 0x1C),
      (f 0x1E 2 != 0, 0x1E),
      (f 0x20 8 % 4 != 0 || (inh 6 && f 0x20 8 != 0), 0x20),
      (f 0x28 8 % 256 != 0 || (inh 6 && f 0x28 8 != 0) || (f 0x20 8 != 0 && f 0x28 8 == 0), 0x28),
      (f 0x30 8 == 0 || f 0x30 8 % 2048 != 0 ||
        (match (counterAreaPlace s part (f 0x30 8)).2 with
         | .ok (.mem p) => decide (hbmSize ≤ p)
         | _ => true), 0x30),
      (!root && f 0x38 8 != 0, 0x38),
      (f 0x40 192 != 0, 0x40) ]
  (bad.find? fun x => x.1).map fun x => x.2

/-- The state after the look at a counter area; a refusal sends its envelope (R21, R64). -/
def refusedArea (c : State × Res) : State :=
  match c.2 with
  | .fail _ gov => refusalEnvelope c.1 gov
  | _ => c.1

/-- Step 3 of R64 over a chain: the id of the bad block and the offset; the counter areas have been looked up (R53). -/
def chainCheck (part : Nat) : State → Bool → List ChainBlock → State × Option (Nat × Nat)
  | s, _, [] => (s, none)
  | s, deep, b :: rest =>
    if b.latched.isSome then (s, none)
    else
      let c := counterAreaPlace s part (bytesAt b.bytes 0x30 8)
      match blockCheck c.1 part b deep rest with
      | some o => (if o == 0x30 && bytesAt b.bytes 0x30 8 % 2048 == 0 then refusedArea c else c.1, some (b.id, o))
      | none => chainCheck part c.1 false rest

/-- Step 4 of R64: a budget above the parent's effective value (R45, R47). -/
def budgetCheck : List Region → Option (Nat × Nat)
  | r :: rest =>
    let above (own : Region → Nat) : Bool := !rest.isEmpty && decide (effective rest 2 own < own r)
    let bad : List (Bool × Nat) :=
      [(above fun x => x.slotCap, 0x14), (above fun x => x.parkCap, 0x16), (above fun x => x.scratchCap, 0x18),
       (above fun x => x.tileCap, 0x1C)]
    if r.active || regionFlag r 2 then budgetCheck rest
    else
      match bad.find? fun x => x.1 with
      | some x => some (r.id, x.2)
      | none => budgetCheck rest
  | [] => none

/-! ### Task records -/

/-- The offset of the first field of a task record outside its limits (R55, R64 step 2); `regionOk` when the region block can
be read. DESIGN CHOICE (entry 56): a bad predecessor handle is at 0x30 + 4i, and a bad input range at its own address or length
field. -/
def recordCheck (part : Nat) (bs : List Byte) (regionOk : Bool) : Option Nat :=
  let f (o n : Nat) : Nat := bytesAt bs o n
  let prod := f 0x18 4 * f 0x1C 2 * f 0x1E 2
  let n := f 0x27 1
  let ranges : List (Bool × Nat) := (List.range 4).flatMap fun i =>
    let a := f (0x40 + 16 * i) 8
    let l := f (0x48 + 16 * i) 8
    if i < n then [(l == 0, 0x48 + 16 * i)] else [(a != 0, 0x40 + 16 * i), (l != 0, 0x48 + 16 * i)]
  let bad : List (Bool × Nat) :=
    [ (f 0 8 % 4 != 0, 0x00), (f 8 8 % 16 != 0, 0x08), (f 0x10 8 % 64 != 0 || !regionOk, 0x10),
      (f 0x18 4 == 0 || decide (2 ^ 32 ≤ prod), 0x18), (f 0x1C 2 == 0, 0x1C), (f 0x1E 2 == 0, 0x1E),
      (f 0x20 1 == 0 || decide (96 < f 0x20 1), 0x20), (decide (128 < f 0x21 1), 0x21), (decide (8 < f 0x22 1), 0x22),
      (decide (1 < f 0x23 1), 0x23), (decide (15 < f 0x25 1), 0x25),
      (f 0x26 1 != 0xFF && decide ((if part == 0 then 11 else 9) < f 0x26 1), 0x26), (decide (4 < n), 0x27),
      (f 0x2C 4 != 0, 0x2C) ] ++
    ((List.range 4).map fun i => (decide (7 < f (0x30 + 4 * i) 4 / 2 ^ 28), 0x30 + 4 * i)) ++ ranges ++
    [(f 0x80 8 % 8 != 0, 0x80), (f 0x98 40 != 0, 0x98)]
  (bad.find? fun x => x.1).map fun x => x.2

/-- Bytes of scratch rounded up to granules (R59). -/
def granules (bytes : Nat) : Nat := divUp bytes 24576

/-- The KiB that a cohort's scratch is charged (R59). -/
def scratchKiB (bytes : Nat) : Nat := granules bytes * 24

/-- Step 5 of R64: the record against its region. -/
def fitCheck (bs : List Byte) (rs : List Region) : Option Nat :=
  let f (o n : Nat) : Nat := bytesAt bs o n
  if effective rs 2 (fun r => r.tileCap) < f 0x22 1 then some 0x22
  else if f 0x24 1 &&& effectiveDies rs == 0 then some 0x24
  else if effective rs 2 (fun r => r.scratchCap) < scratchKiB (f 0x28 4) then some 0x28
  else none

/-- The task that a record describes (R55, R71); predecessors that are no longer in flight count as ended with success. -/
def taskOf (s : State) (part handle : Nat) (bs : List Byte) (rs : List Region) (held : Option Offer) : Task :=
  let f (o n : Nat) : Nat := bytesAt bs o n
  { part := part, handle := handle, region := (rs.head?.map fun r => r.id).getD 0, entry := BitVec.ofNat 64 (f 0 8),
    laneBase := BitVec.ofNat 64 (f 8 8), gx := f 0x18 4, gy := f 0x1C 2, gz := f 0x1E 2, lanes := f 0x20 1,
    vcount := f 0x21 1, tcount := f 0x22 1, restartable := bitOf (f 0x23 1) 0, dieMask := f 0x24 1,
    hint := if f 0x25 1 != 0 then f 0x25 1 else effective rs 5 fun r => r.opDefault,
    prio := if f 0x26 1 != 0xFF then f 0x26 1 else effective rs 3 fun r => r.prio, scratch := f 0x28 4,
    ranges := (List.range (f 0x27 1)).map fun i => (f (0x40 + 16 * i) 8, f (0x48 + 16 * i) 8),
    doneAddr := BitVec.ofNat 64 (f 0x80 8), doneValue := BitVec.ofNat 64 (f 0x88 8), arg := BitVec.ofNat 64 (f 0x90 8),
    preds := ((List.range 4).map fun i => f (0x30 + 4 * i) 4).filter fun h => h != 0 && (task? s part h).isSome,
    status := .waiting, firing := 0, fireSeq := 0, next := 0, redo := [], ended := [], faulted := false, held := held,
    handler := false, serves := 0, onDies := [], floors := [], spans := [] }

/-! ### Activation -/

/-- The number of activations of a region id so far (R391). -/
def activationsOf (s : State) (part id : Nat) : Nat :=
  ((s.regions.find? fun r => r.part == part && r.id == id).map fun r => r.activations).getD 0

/-- A region becomes active: its copy is latched, its counters and its counter area are zeroed, and the management cores
receive the notice (R46, R53, R54, R386). The area is where it was found when the launch was checked; had its mapping gone while
the launch waited for an entry, the counters would have no home. DESIGN CHOICE (entry 56). -/
def activate (s : State) (r : Region) : State :=
  let c := counterAreaPlace s r.part r.counterArea.toNat
  let place := countersHome c.2
  let r1 := { r with
    active := true, activations := activationsOf s r.part r.id + 1, counterPlace := place, counters := [], slots := 0, parked := 0,
    scratch := 0, tiles := 0,
      mismatchSent := false, authWritten := false, watch := [], demand := [] }
  let s1 := { c.1 with regions := s.regions.filter (fun x => !(x.part == r.part && x.id == r.id)) ++ [r1] }
  let rs := chain s1 r.part r.id
  let n := [r.id, r.part, effective rs 2 (fun x => x.slotCap), effective rs 2 (fun x => x.parkCap),
    effective rs 2 (fun x => x.scratchCap), effective rs 2 (fun x => x.tileCap), effective rs 3 (fun x => x.prio),
    effectiveDies rs, effective rs 5 (fun x => x.opDefault)]
  if place == noCounters then { s1 with notices := n :: s1.notices }
  else wakeMem (markDirty { s1 with mem := Sparse.clearRange s1.mem place 2048, notices := n :: s1.notices } place) place 2048

/-- The regions of a chain that are not active become active, a parent before its child (R46). -/
def activateAll (s : State) (rs : List Region) : State :=
  rs.foldr (fun r s => if r.active then s else activate s r) s

/-! ### Firing (R72) -/

/-- The place of an address for the count of input bytes: both stages map it to local HBM through valid entries, fresh ones among
them; no right is needed (R72). -/
def countedPlace (s : State) (part va : Nat) : Option Nat :=
  match tlbFind s 8 part va, part? s part with
  | some e, _ => if e.target == 0 then some (e.base + (va - e.va)) else none
  | none, none => none
  | none, some p =>
    if p.stage1 == 0 || decide (2 ^ 52 ≤ va) then none
    else
      match walk (readEntry1 s p) false 0x10 va p.stage1 walkLevels with
      | .leaf e _ shift =>
        let gpa := bits e 12 44 * 4096 + va % 2 ^ shift
        (match stage2 s p gpa with
         | .ok pg => if pg.target == 0 then some (pg.base + gpa % pg.size) else none
         | .zero j => some (j.base + gpa % j.size)
         | .fail _ => none)
      | _ => none


/-- The bytes of a range that each die holds, page by page of 64 KiB (R72): `n` pages from `va` on, up to `stop`. -/
def rangeBytes (s : State) (part stop : Nat) : Nat → Nat → Sparse 64 → Sparse 64
  | 0, _, acc => acc
  | n + 1, va, acc =>
    let pageEnd := (va / 0x10000 + 1) * 0x10000
    let bytes := Nat.min stop pageEnd - va
    let acc1 :=
      match countedPlace s part va with
      | some a =>
        if pageOwned s part a then Sparse.set acc (homeDie a) (Sparse.get acc (homeDie a) + BitVec.ofNat 64 bytes) else acc
      | none => acc
    if stop ≤ pageEnd then acc1 else rangeBytes s part stop n pageEnd acc1

/-- The bytes of a task's input ranges by die; a range counts its first GiB (R72). -/
def inputBytes (s : State) (t : Task) : Sparse 64 :=
  t.ranges.foldl (fun acc r =>
    let len := Nat.min r.2 (2 ^ 30)
    rangeBytes s t.part (r.1 + len) (len / 0x10000 + 2) r.1 acc) []

/-- The firing die: the eligible die that holds the most input bytes, the lowest of equals (R72). -/
def firingDie (s : State) (t : Task) : Option Nat :=
  let b := inputBytes s t
  (eligibleDies s t).foldl (fun best d =>
    match best with
    | none => some d
    | some x => if Sparse.get b x < Sparse.get b d then some d else some x) none

/-- A waiting task fires if all its predecessors have completed and some die is eligible (R71, R72). -/
def fire (s : State) (t : Task) : State :=
  if t.status != .waiting || !t.preds.isEmpty then s
  else
    match firingDie s t with
    | none => s
    | some d =>
      { putTask s { t with status := .fired, firing := d, fireSeq := s.nextId } with nextId := s.nextId + 1 }

/-! ### Acceptance (R63 to R65, R70, R71) -/

/-- What acceptance comes to: a handle, a refusal with its detail, a wait for a page that is being zeroed, or a wait for a
free entry with what has been latched (R63, R65, R70, R267). -/
inductive Accepted where
  | handle (h : Nat)
  | refused (detail : Nat)
  | wait
  | full (latch : Latch)
  deriving DecidableEq, Repr

/-- A refused launch: both envelopes of class 10, and the detail of R64 (R63). -/
def refuseLaunch (s : State) (part region offset structure_ : Nat) : State × Accepted :=
  let detail := offset + structure_ * 0x10000
  (envelopeBoth s 10 detail (noPlace part region 0), .refused detail)

/-- A launch that has passed its checks: its regions become active, it receives a handle and its predecessors, and it fires
if it has none (R65, R70, R71). -/
def registerTask (s : State) (part : Nat) (bs : List Byte) (rs : List Region) (die : Option Nat) (held : Option Offer) :
    State × Accepted :=
  let cand := diesOf (bytesAt bs 0x24 1 &&& effectiveDies rs)
  let order := match die with
    | some d => if cand.contains d then d :: cand else cand
    | none => cand
  match allocHandle s order with
  | none => (s, .full ⟨bs, rs⟩)
  | some (s1, h) =>
    let s2 := activateAll s1 rs
    let t := taskOf s2 part h bs rs held
    (fire { s2 with tasks := s2.tasks ++ [t] } t, .handle h)

/-- A launch offered: the record and its region chain are read, checked in the order of R64, and registered or refused; `die`
is the launching group's (R63 to R65, R70). DESIGN CHOICE (entry 56): the region's block is read before the record's fields
are checked, and the whole chain before its first block is, so that a refused later read sends its envelope in any case. -/
def acceptTask (s : State) (part record : Nat) (die : Option Nat) (held : Option Offer) : State × Accepted :=
  let rec_ := if record % 64 == 0 then readPieces s part 3 record else (s, .fail)
  match rec_.2 with
  | .wait => (rec_.1, .wait)
  | .fail => refuseLaunch rec_.1 part 0 0xFFFF 0
  | .ok bs =>
    let ra := bytesAt bs 0x10 8
    let blk := if ra % 64 == 0 then readPieces rec_.1 part 4 ra else (rec_.1, .fail)
    let own := match blk.2 with
      | .ok b => (ChainBlock.mk ra b (latchedAt blk.1 part ra) true).id
      | _ => 0
    match blk.2, recordCheck part bs (blk.2 != .fail) with
    | .wait, _ => (blk.1, .wait)
    | _, some o => refuseLaunch blk.1 part own o 0
    | .fail, none => refuseLaunch blk.1 part 0 0x10 0
    | .ok b, none =>
      let c := readUp part 9 blk.1 ra b
      let deep := c.2.deep || (match c.2.blocks.getLast? with
        | some x => (match x.latched with
          | some r => decide (8 < c.2.blocks.length - 1 + (chain c.1 part r.id).length)
          | none => decide (8 < c.2.blocks.length))
        | none => false)
      if c.2.wait then (c.1, .wait)
      else
        let k := chainCheck part c.1 deep c.2.blocks
        match k.2 with
        | some (id, o) => refuseLaunch k.1 part id o 1
        | none =>
          let rs := chainRegions k.1 part c.2.blocks
          match budgetCheck rs with
          | some (id, o) => refuseLaunch k.1 part id o 1
          | none =>
            match fitCheck bs rs with
            | some o => refuseLaunch k.1 part own o 0
            | none => registerTask k.1 part bs rs die held

/-- A latched region as it stands now: its active copy if a region of its id is active (R46). That the launch joins that
region, though it may come of another control block by then, is a DESIGN CHOICE (entry 56). -/
def regionNow (s : State) (r : Region) : Region := (region? s r.part r.id).getD { r with active := false }

/-- A launch offered, or offered again with what the device latched when it found no free entry (R65, R70). That the latched record
is not checked again is a DESIGN CHOICE (entry 56). -/
def offerTask (s : State) (latch : Option Latch) (part record : Nat) (die : Option Nat) (held : Option Offer) : State × Accepted :=
  match latch with
  | some l => registerTask s part l.record (l.regions.map (regionNow s)) die held
  | none => acceptTask s part record die held

/-! ### The ends of a task (R71, R77) -/

/-- The groups of a task. -/
def groupsOf (s : State) (t : Task) : List Group := s.groups.filter fun g => g.part == t.part && g.task == t.handle

/-- A cohort's frames vacated, its scratch released; no re-placement waits for it any more (R59, R262, R379). -/
def releaseCohort (s : State) (t : Task) (c : Cohort) : State :=
  let s1 := chargeUp s t.part t.region fun r => { r with scratch := r.scratch - scratchKiB t.scratch }
  { s1 with
    cohorts := s1.cohorts.filter fun x => x.id != c.id
    preempts := s1.preempts.map fun q =>
      { q with dies := q.dies.map fun x => { x with cohorts := x.cohorts.filter fun k => k != c.id } }
    vacated := c.frames.foldl (fun m f => Sparse.set m (c.die * 4096 + f) (BitVec.ofNat 8 (c.part + 1))) s1.vacated }

/-- The task's cohorts released on every die (R59). -/
def releaseCohorts (s : State) (t : Task) : State :=
  (s.cohorts.filter fun c => c.part == t.part && c.task == t.handle).foldl (fun s c => releaseCohort s t c) s

/-- The groups that wait in `launch` go back to the return list: an entry is free (R70). -/
def wakeLaunchers (s : State) : State :=
  (s.groups.filter fun g => g.wait == .launch && g.status == .waiting).foldl (fun s g => joinReady s g.gid) s

/-- The entry of a task is freed: its cohorts and groups go, the held status is written, launches that wait for an entry go
on (R59, R70, R77). -/
def freeEntry (s : State) (t : Task) (status : Nat) : State :=
  let s1 := answerHeld (releaseCohorts s t) t status
  wakeLaunchers { s1 with
    tasks := s1.tasks.filter fun x => !(x.part == t.part && x.handle == t.handle)
    groups := s1.groups.filter fun g => !(g.part == t.part && g.task == t.handle) }

/-- The successors of a task that completed no longer wait for it (R71, R77). -/
def notifySuccessors (s : State) (t : Task) : State :=
  { s with tasks := s.tasks.map fun x =>
      if x.part == t.part then { x with preds := x.preds.filter fun h => h != t.handle } else x }

/-- The waiting successors of a task, and theirs, are cancelled (R71, R77). -/
def cancelSuccessors : Nat → State → Task → State
  | 0, s, _ => s
  | fuel + 1, s, t =>
    (s.tasks.filter fun x => x.part == t.part && x.preds.contains t.handle).foldl (fun s x =>
      match task? s x.part x.handle with
      | none => s
      | some y => cancelSuccessors fuel (freeEntry s y 5) y) s

/-- Every copy and every matrix command of a task's groups has finished (R77). -/
def enginesDone (s : State) (t : Task) : Bool := (groupsOf s t).all fun g => copiesDone g && cmdsDone g

/-- The completion word stored as a release at .sys; a failure sends its envelopes and changes nothing else (R77). -/
def completionStore (s : State) (t : Task) : State :=
  if t.doneAddr == 0 then s
  else
    let r := resolveAligned s (partUnit t.part) t.doneAddr.toNat 8 .store
    match r.2 with
    | .ok l => storeBytes r.1 ⟨1, t.part, t.region, 0, t.firing, 192, 0⟩ l (natToBytes 8 t.doneValue.toNat)
    | .fail c gov =>
      envelopeBoth (refusalEnvelope r.1 gov) (if c == 0x13 then 4 else 3) 1 (noPlace t.part t.region t.handle)
    | .wait => r.1

/-- A partition is stopped for migration: its work stands still (R384). -/
def halted (s : State) (part : Nat) : Bool := (part? s part).any fun p => p.stopping || p.stopped

/-- TASK_ACCEPT: the oldest launch of its queue is accepted or refused, and the queue goes on; while it waits for a free entry, what
the device has latched is kept (R65, R68, R70). -/
def execTaskAccept (ticket : Nat) (s : State) : Host.Outcome State Fault Refusal :=
  .next <|
    match s.offers.find? fun o => o.ticket == ticket && !halted s o.part with
    | none => s
    | some o =>
      let r := offerTask s o.latch o.part o.record.toNat none (if o.hold then some o else none)
      let s1 := { r.1 with offers := r.1.offers.filter fun x => x.ticket != ticket }
      match r.2 with
      | .wait => r.1
      | .full l =>
        { r.1 with offers := r.1.offers.map fun x => if x.ticket == ticket then { x with latch := some l } else x }
      | .handle h => consume 65536 (if o.hold then s1 else answerLaunch s1 o 0 h 0) o.fn o.queue
      | .refused d => consume 65536 (answerLaunch s1 o 1 0 d) o.fn o.queue

/-- TASK_FIRE (R71, R72). -/
def execTaskFire (part handle : Nat) (s : State) : Host.Outcome State Fault Refusal :=
  .next <|
    match task? s part handle with
    | none => s
    | some t => if halted s part then s else fire s t

/-- The completion of a task, whose word is a release at .sys, waits for the stores to peers that other groups had sent when it
began, as a fence does (R77, R310). DESIGN CHOICE (entry 63). -/
def taskRelease (s : State) (t : Task) (k : State) : State :=
  match (groupsOf s t).head? with
  | some g => if othersDone s g then k else releaseBegun s g
  | none => k

/-- TASK_COMPLETE: the completion word is written, and in a second step the entry is freed and the successors notified (R71,
R77). -/
def execTaskComplete (part handle : Nat) (s : State) : Host.Outcome State Fault Refusal :=
  .next <|
    match task? s part handle with
    | none => s
    | some t =>
      if halted s part then s
      else if t.status == .completed then notifySuccessors (freeEntry s t 3) t
      else if t.status != .fired || t.faulted || t.ended.length != groupTotal t || !enginesDone s t then s
      else taskRelease s t (putTask (completionStore s t) { t with status := .completed })

/-- TASK_END_FAILED: once its bound groups have ended, its other groups are never bound, and its successors are cancelled
(R71, R375). -/
def execTaskEndFailed (part handle : Nat) (s : State) : Host.Outcome State Fault Refusal :=
  .next <|
    match task? s part handle with
    | none => s
    | some t =>
      if halted s part || t.status != .fired || !t.faulted || !((groupsOf s t).all fun g => g.status == .ended) || !enginesDone s t then s
      else
        let s1 := freeEntry s t 4
        cancelSuccessors (s1.tasks.length + 1) s1 t

end Sys2Proof.Machine
end

