-- ==== Sys2Proof/Machine/Place.lean ====
section
/-! DEFINITION. Placement: bind records (R81 to R85), filling a slot (R60, R62, R73, R75, R86, R87), rotation (R92), demand
notices (R80), and the operating points that a bind waits for (R51, R74, R410, R411). -/

namespace Sys2Proof.Machine

/-! ### Operating points -/

/-- A die's operating-point register as last written or settled (R411). -/
def pointStored (s : State) (die : Nat) : Nat := (Sparse.get s.power.reg die).toNat

/-- The highest floor on a die: of the tasks that have had a group bound there and still have one bound or ready; 0 for none (R51,
R74). -/
def floorPoint (s : State) (die : Nat) : Nat :=
  s.tasks.foldl (fun m t => if t.floors.contains die then Nat.max m t.hint else m) 0

/-- The target point (R411). -/
def targetPoint (s : State) (die : Nat) : Nat :=
  let r := pointStored s die
  let f := floorPoint s die
  let p := Nat.min (if f == 0 then Nat.max 1 (bits r 4 4) else f) (Nat.max 1 (bits r 0 4))
  if bitOf r 13 then 1 else p

/-- Clock and voltage have settled at the target point (R411). DEDUCED (entry 29). -/
def pointStable (s : State) (die : Nat) : Bool := targetPoint s die == bits (pointStored s die) 8 4

/-- A die's operating-point register as it reads (R411). -/
def pointRead (s : State) (die : Nat) : Word :=
  let r := pointStored s die
  BitVec.ofNat 64 (r - bits r 12 1 * 2 ^ 12 + if pointStable s die then 2 ^ 12 else 0)

/-- A die's point is to rise: a lowering makes no group wait (R74). -/
def pointRising (s : State) (die : Nat) : Bool := decide (bits (pointStored s die) 8 4 < targetPoint s die)

/-- The groups that hold a slot of a die without issuing may issue: the die is stable, or is to be lowered (R74). -/
def releaseFloor (s : State) (die : Nat) : State :=
  if pointRising s die then s
  else { s with power := { s.power with floorWait := s.power.floorWait.filter fun x => x.2 != die } }

/-- A group waits for its die to be stable before it first issues (R74). -/
def floorHeld (s : State) (g : Group) (die : Nat) : Bool :=
  s.power.floorWait.contains (g.gid, die) && pointRising s die

/-! ### Bind records -/

/-- The fields of a bind record (R82). -/
def recRegion (v : Nat) : Nat := bits v 96 32
def recTask (v : Nat) : Nat := bits v 64 32
def recPrio (v : Nat) : Nat := bits v 60 4
def recQuantum (v : Nat) : Nat := bits v 48 12
def recAuth (v : Nat) : Nat := bits v 46 2
def recValid (v : Nat) : Bool := bitOf v 45

/-- The lowest bit of the first field of a record that is malformed, from bit 127 downward (R84). -/
def recordBad (die core slot v : Nat) : Option Nat :=
  if recRegion v == 0 then some 96
  else if 11 < recPrio v then some 60
  else if recAuth v == 0 || recAuth v == 3 then some 46
  else if bits v 32 13 != 0 then some 32
  else if bits v 28 4 != die then some 28
  else if bits v 20 8 != core || decide (191 < bits v 20 8) then some 20
  else if bits v 16 4 != slot then some 16
  else if bits v 0 16 != 0 then some 0
  else none

/-- A record committed: a malformed one commits as zeros and sends its envelope; valid = 0 empties it (R83, R84, R418). -/
def commitRecord (s : State) (die core slot v : Nat) : State :=
  let put (x : Nat) : State := { s with records := Sparse.set s.records (slotIx die core slot) (BitVec.ofNat 128 x) }
  if !recValid v then put 0
  else
    match recordBad die core slot v with
    | none => put v
    | some b => envelope (put 0) .operator 10 0 (b + 2 * 0x10000) ⟨0, die, core, slot, recRegion v, 0⟩

/-- The high dword staged for a record (R83). -/
def stageRecord (s : State) (die core slot : Nat) (v : Word) : State :=
  { s with staged := Sparse.set s.staged (slotIx die core slot) v }

/-- The committed record of a slot (R83). -/
def recordAt (s : State) (die core slot : Nat) : Nat := (Sparse.get s.records (slotIx die core slot)).toNat

/-- BIND_RECORD_STAGE (R83). -/
def execBindRecordStage (die core slot : Nat) (value : Word) (s : State) : Host.Outcome State Fault Refusal :=
  .next (stageRecord s die core slot value)

/-- BIND_RECORD_COMMIT: with the staged high dword, or the whole record in one 16-byte store (R83, R84). The staged dword
stays (DEDUCED, entry 40). -/
def execBindRecordCommit (die core slot : Nat) (low : Word) (high : Option Word) (s : State) :
    Host.Outcome State Fault Refusal :=
  let h := match high with
    | some h => h
    | none => Sparse.get s.staged (slotIx die core slot)
  .next (commitRecord s die core slot (low.toNat + 2 ^ 64 * h.toNat))

/-! ### What a slot matches (R85) -/

/-- The active region that a record on a die serves: of equal ids, the lowest partition's with its lease bit set (R85). -/
def recordRegion (s : State) (die v : Nat) : Option Region :=
  (s.regions.filter fun r => r.active && r.id == recRegion v && leased s die r.part).foldl (fun best r =>
    match best with
    | none => some r
    | some x => if r.part < x.part then some r else some x) none

/-- The lowest bit of the field that does not fit a partition (R14, R49, R85). DESIGN CHOICE (entry 12): of a record whose authority
and priority both misfit, that of the authority. -/
def recordMisfit (part v : Nat) : Option Nat :=
  if (recAuth v == 1) != (part == 0) then some 46
  else if part != 0 && decide (10 ≤ recPrio v) then some 60
  else none

/-- The record is standing or names a task of the partition (R85). -/
def recordNames (s : State) (part v : Nat) : Bool :=
  recTask v == 0xFFFFFFFF || s.tasks.any fun t => t.part == part && t.handle == recTask v

/-- The record names the task or is standing (R85). -/
def recordTakes (v handle : Nat) : Bool := recTask v == 0xFFFFFFFF || recTask v == handle

/-- A pre-emption request in progress has the slot in its scope, so that it takes no new group (R376). -/
def inPreemptScope (s : State) (die core slot : Nat) : Bool :=
  s.preempts.any fun q =>
    let v := q.value.toNat
    (q.dies.any fun x => x.die == die) &&
      (match bits v 16 2 with
       | 0 => bits v 4 8 == core && bits v 0 4 == slot
       | 1 => bits v 4 8 == core
       | _ => true)

/-- A lease write in progress on a die clears the partition's bit, so that none of its groups is bound there (R26). -/
def leaseClearing (s : State) (die part : Nat) : Bool :=
  s.leaseJobs.any fun j => j.die == die && !j.value.getLsbD part

/-- A group of this partition may be bound in its state (R24, R384). -/
def mayBind (s : State) (part : Nat) : Bool :=
  match part? s part with
  | some p => (p.st == .owned || p.st == .sealing) && !p.stopping && !p.stopped
  | none => false

/-- A cohort is being re-placed: none of its groups is bound meanwhile (R379). -/
def cohortMoving (s : State) (cohort : Nat) : Bool := s.preempts.any fun q => q.dies.any fun x => x.cohorts.contains cohort

/-- The slot is free, armed, outside any pre-emption, and its record serves this region (R24, R26, R85, R86). -/
def slotServes (s : State) (die core slot : Nat) : Option Region :=
  let v := recordAt s die core slot
  if !recValid v || (groupIn s die core slot).isSome || inPreemptScope s die core slot then none
  else
    match recordRegion s die v with
    | none => none
    | some r =>
      if (recordMisfit r.part v).isSome || leaseClearing s die r.part || !mayBind s r.part then none else some r

/-! ### Room for a group (R48, R60, R86) -/

/-- The tiles of a core that bound groups hold (R86). -/
def coreTiles (s : State) (die core : Nat) : Nat :=
  s.groups.foldl (fun n g =>
    match g.status with
    | .bound d c _ => if d == die && c == core then n + g.tcount else n
    | _ => n) 0

/-- The slot and the tiles of a group fit the caps and the core (R48, R60, R86). -/
def roomFor (s : State) (part region tiles die core : Nat) : Bool :=
  let rs := chain s part region
  withinCaps rs (fun r => r.slots) (fun r => r.slotCap) 1 && withinCaps rs (fun r => r.tiles) (fun r => r.tileCap) tiles &&
    decide (coreTiles s die core + tiles ≤ 16)

/-- The images in a partition's context store: where each lies and its size (R369). -/
def imagesOf (s : State) (part : Nat) : List (Nat × Nat) :=
  s.groups.filterMap fun g =>
    match g.image with
    | some o => if g.part == part then some (o, imageSize g.vcount g.tcount) else none
    | none => none

/-- The lowest offset of a context store with room for an image (R369). DESIGN CHOICE (entry 11). -/
def imageRoom (s : State) (p : Part) (size : Nat) : Option Nat :=
  let used := imagesOf s p.id
  let free (o : Nat) : Bool :=
    decide (o + size ≤ p.storeLen) && used.all fun u => decide (o + size ≤ u.1) || decide (u.1 + u.2 ≤ o)
  ((0 :: used.map fun u => u.1 + u.2).filter free).foldl (fun b o =>
    match b with
    | none => some o
    | some x => some (Nat.min x o)) none

/-- A partition's context store has room for one more image; groups of partition 0 have none (R369). -/
def imageFits (s : State) (part vcount tcount : Nat) : Bool :=
  (part? s part).any fun p => p.id == 0 || (imageRoom s p (imageSize vcount tcount)).isSome

/-- A group with a place for its image, found at its bind where it has none (R369). -/
def withImage (s : State) (g : Group) : Group :=
  { g with image :=
      match g.image with
      | some o => some o
      | none => (part? s g.part).bind fun p => imageRoom s p (imageSize g.vcount g.tcount) }

/-- The cohort of a task on a die (R59). -/
def cohortOn (s : State) (t : Task) (die : Nat) : Option Cohort :=
  s.cohorts.find? fun c => c.part == t.part && c.task == t.handle && c.die == die

/-- The lowest `n` frames of a die that no cohort holds (R59, R60). -/
def freeFrames (s : State) (die n : Nat) : List Nat :=
  let used := (s.cohorts.filter fun c => c.die == die).flatMap fun c => c.frames
  ((List.range (n + used.length)).filter fun f => decide (f < 4096) && !used.contains f).take n

/-- Frames that an allocation may take: as many as it needs, all different, all free (R59, R60). DESIGN CHOICE (entry 12). -/
def framesOk (s : State) (die n : Nat) (fs : List Nat) : Bool :=
  let used := (s.cohorts.filter fun c => c.die == die).flatMap fun c => c.frames
  fs.length == n && fs.all (fun f => decide (f < 4096) && !used.contains f && decide ((fs.filter fun x => x == f).length = 1))

/-- The lowest index of a task's groups that has not finished (R75). -/
def firstUnfinished (ended : List Nat) : Nat → Nat → Nat
  | 0, i => i
  | n + 1, i => if ended.contains i then firstUnfinished ended n (i + 1) else i

/-- The next group index that a fired task hands out (R73, R75, R375). -/
def nextIndex (t : Task) : Option Nat :=
  if t.status != .fired || t.faulted then none
  else
    let i := t.redo.foldl (fun i x => Nat.min i x.1) t.next
    if i < groupTotal t && i < firstUnfinished t.ended (t.ended.length + 1) 0 + 256 then some i else none

/-- A new group of a task can be bound into a slot (R48, R60, R86). DESIGN CHOICE (entry 12): the group of a discarded index
counts as new, so that any eligible die may take it, with the task's cohort there or with none yet (R73, R75). -/
def canBindNew (s : State) (t : Task) (die core slot : Nat) : Bool :=
  (match slotServes s die core slot with
   | some r => r.part == t.part && r.id == t.region && recordTakes (recordAt s die core slot) t.handle
   | none => false) &&
    roomFor s t.part t.region t.tcount die core &&
    imageFits s t.part t.vcount t.tcount &&
    ((cohortOn s t die).any (fun c => !cohortMoving s c.id) || (cohortOn s t die).isNone &&
      (withinCaps (chain s t.part t.region) (fun r => r.scratch) (fun r => r.scratchCap) (scratchKiB t.scratch) &&
        (freeFrames s die (granules t.scratch)).length == granules t.scratch))

/-- A group of a return list can be bound into a slot (R60, R85, R86, R369). -/
def canBindReady (s : State) (g : Group) (die core slot : Nat) : Bool :=
  g.status == .ready && g.die == die && !cohortMoving s g.cohort &&
    (g.image.isSome || imageFits s g.part g.vcount g.tcount) &&
    (match slotServes s die core slot with
     | some r => r.part == g.part && r.id == g.region && recordTakes (recordAt s die core slot) g.task
     | none => false) &&
    roomFor s g.part g.region g.tcount die core

/-- The slots of a die whose records are not zero, in the order of core and slot. -/
def armedSlots (s : State) (die : Nat) : List (Nat × Nat) :=
  (s.records.filter fun x => x.1 / 3072 == die).map fun x => (x.1 / 16 % 192, x.1 % 16)

/-- What a slot takes: a group of the return list, or a new group of a task (R86). -/
inductive Pick where
  | ready (gid : Nat)
  | new (part handle index : Nat)
  deriving DecidableEq, Repr

/-- The oldest group of the return list that a slot may take, leaving out the groups `but` (R86, R92). -/
def oldestReady (s : State) (but : List Nat) (die core slot : Nat) : Option Group :=
  (s.groups.filter fun g => !but.contains g.gid && canBindReady s g die core slot).foldl (fun best g =>
    match best with
    | none => some g
    | some x => if g.readySeq < x.readySeq then some g else some x) none

/-- The dies that may take a task's next group, in order: its firing die, then the other eligible ones (R73). -/
def handoutDies (s : State) (t : Task) : List Nat :=
  let e := eligibleDies s t
  (if e.contains t.firing then [t.firing] else []) ++ e.filter fun d => d != t.firing

/-- The slot that a task's next group goes to: on the first die that has one, the lowest core and slot (R73, R86). -/
def firstSlot (s : State) (but : List Nat) (t : Task) : Option (Nat × Nat × Nat) :=
  (handoutDies s t).findSome? fun d =>
    (armedSlots s d).findSome? fun x =>
      if canBindNew s t d x.1 x.2 && (oldestReady s but d x.1 x.2).isNone then some (d, x.1, x.2) else none

/-- The tasks that may supply a new group to a slot, in the order of R73. -/
def suppliers (s : State) (die core slot : Nat) : List Task :=
  sortBy (fun a b => decide (a.fireSeq < b.fireSeq) || (a.fireSeq == b.fireSeq && decide (a.handle ≤ b.handle)))
    (s.tasks.filter fun t => (nextIndex t).isSome && canBindNew s t die core slot)

/-- The new group that a slot takes: of the tasks in the order of R73, one whose next group goes to this slot (R73, R86). -/
def pickNew (s : State) (but : List Nat) (die core slot : Nat) : Option Pick :=
  (suppliers s die core slot).findSome? fun t =>
    match nextIndex t with
    | some i => if firstSlot s but t == some (die, core, slot) then some (.new t.part t.handle i) else none
    | none => none

/-- The free slot of a die that takes a group of the return list: the lowest core and slot (R86). -/
def readySlot (s : State) (g : Group) (die : Nat) : Option (Nat × Nat) :=
  (armedSlots s die).find? fun x => canBindReady s g die x.1 x.2

/-- What fills a slot, leaving out the groups `but` (R73, R86). -/
def pickFor (s : State) (but : List Nat) (die core slot : Nat) : Option Pick :=
  match oldestReady s but die core slot with
  | some g => if readySlot s g die == some (core, slot) then some (.ready g.gid) else none
  | none => pickNew s but die core slot

/-- What a slot would take were it the only free one, leaving out the groups `but`, and the slot that takes it first: a group of the
return list goes to the lowest slot of its die, a new group to the first slot of R73 (R73, R86). -/
def claimed (s : State) (but : List Nat) (die core slot : Nat) : Option (Pick × Nat × Nat × Nat) :=
  match oldestReady s but die core slot with
  | some g => (readySlot s g die).map fun x => (.ready g.gid, die, x.1, x.2)
  | none =>
    (suppliers s die core slot).findSome? fun t =>
      match nextIndex t, firstSlot s but t with
      | some i, some x => some (.new t.part t.handle i, x)
      | _, _ => none

/-! ### Binding -/

/-- The identity of 128 items, routing solved (R62, R250). -/
def permEntry : Perm := ⟨128, List.range 128, false⟩

/-- The matrix settings at entry (R233). -/
def MatrixSet.entry : MatrixSet :=
  { typeA := 0, typeB := 0, baseA := 0, strideA := 0, baseB := 0, strideB := 0, grp := 0, param := 0, tileD := 0,
    acc := false, tileP := 0, mcFirst := 0, mcLast := 0, mcOps := 0 }

/-- The copy settings at entry (R285). -/
def CopySet.entry : CopySet :=
  { rowBytes := 0, rows := 0, srcStride := 0, dstStride := 0, doneAddr := 0, doneValue := 0, permMode := 0, permReg := 0 }

/-- A group at its own index with the entry state of R62, not yet bound. -/
def groupEntry (t : Task) (gid index die cohort : Nat) (image : Option Nat) : Group :=
  let live : BitVec 96 := BitVec.ofNat 96 (2 ^ t.lanes - 1)
  { gid := gid, part := t.part, auth := 0, task := t.handle, region := t.region, index := index, ix := index % t.gx,
    iy := index / t.gx % t.gy, iz := index / (t.gx * t.gy), lanes := t.lanes, vcount := t.vcount, tcount := t.tcount,
    die := die, cohort := cohort, status := .ready, level := 0, quantum := 0, bindSeq := 0, boundAt := 0, readySeq := 0, wait := .none,
    image := image, saved := false, pc := t.entry,
    scalars := Sparse.set (Sparse.set (Sparse.set (Sparse.set [] 2 t.arg) 61 (liveWord live 0)) 62 (liveWord live 1)) 63
      (liveWord live 2),
    mode := 0, seed := 0, pinned := 0, retiredS := 0, retiredL := 0, stamp := 0, live := live, queue := [],
    vregs := List.replicate t.vcount ⟨.never, []⟩, perms := List.replicate 16 permEntry,
    tiles := List.replicate t.tcount [], pend := ⟨[], 0, [], 0, 0⟩, mset := MatrixSet.entry, cset := CopySet.entry, cmds := [],
    nextCmd := 1, cmdBatch := 0, copies := [], nextCopy := 1, copyBatch := 0, prov := [], chooseS := 0, chooseM := 0,
    chooseX := 0, body := [], bodyState := .none, ordinal := 0, serves := none, peers := [], stores := [], seen := 0,
    fenced := false, dirty := 0, rotating := false, wraps := 0, latch := none, traces := [] }

/-- The hardware writes the authority code into byte 0x13 of the region's block at its first bind (R14). DESIGN CHOICE (entry 56):
the write needs no more than the read right that the block's reading needed, and is dropped where the block does not translate any
more. -/
def writeAuthority (s : State) (part region auth : Nat) : State :=
  match region? s part region with
  | none => s
  | some r =>
    if r.authWritten then s
    else
      let s1 := modRegion s part region fun x => { x with authWritten := true }
      let x := resolve s1 (partUnit part) (r.addr + 0x13).toNat .load
      match x.2 with
      | .ok (.mem p) => putBytes x.1 p [BitVec.ofNat 8 auth]
      | .fail _ gov => refusalEnvelope x.1 gov
      | _ => x.1

/-- A ready group takes a slot: what the record gives is latched, the slot and tiles are charged, the core's data lines are
dropped, the task's floor holds on the die, and the first group of a task on a die waits for it where the point is to rise (R48,
R49, R74, R87, R306). -/
def seat (s : State) (g : Group) (die core slot : Nat) : State :=
  let v := recordAt s die core slot
  let t := task? s g.part g.task
  let first := !(t.any fun t => t.onDies.contains die)
  let g1 := { g with
    status := .bound die core slot, auth := recAuth v
    level := Nat.min (recPrio v) ((t.map fun t => t.prio).getD 0)
    peers := readsAgain g.peers
    quantum := recQuantum v, bindSeq := s.nextId, boundAt := s.clock }
  let s0 : State := { putGroup s g1 with
    nextId := s.nextId + 1
    tasks := s.tasks.map fun x =>
      if x.part == g.part && x.handle == g.task then
        { x with onDies := if x.onDies.contains die then x.onDies else die :: x.onDies
                 floors := if x.hint == 0 || x.floors.contains die then x.floors else die :: x.floors }
      else x }
  let s1 := charge s0 g.part g.region 1 g.tcount true
  let s2 := writeAuthority (dropData s1 die core) g.part g.region g1.auth
  if first && ((t.map fun t => t.hint).getD 0) != 0 && pointRising s2 die then
    { s2 with power := { s2.power with floorWait := s2.power.floorWait ++ [(g.gid, die)] } }
  else s2

/-- The routes of a group's permutation registers are to be solved anew (R250, R304). -/
def resolveRoutes (g : Group) : Group := { g with perms := g.perms.map fun q => { q with solving := true } }

/-- A group of the return list is bound: restored from its image if it was saved, or ended if the image does not hold one; its
routes are solved anew (R86, R304, R370, R374). -/
def bindReady (s0 : State) (gid die core slot : Nat) : State :=
  match group? s0 gid with
  | none => s0
  | some g =>
    if g.saved then
      let s := storeReady s0 g.part
      match restoreImage s g with
      | some g1 => seat s (resolveRoutes g1) die core slot
      | none =>
        let handler := (task? s g.part g.task).any fun t => t.handler
        endFaulted (envelope s .operator 0 (if handler then 4 else 0) 0 { groupPlace g with core := core, slot := slot, die := die }) gid
    else seat s0 (resolveRoutes (withImage s0 g)) die core slot

/-- A cohort's scratch is allocated on a die: its lines read zero (R59, R262). -/
def newCohort (s : State) (t : Task) (die : Nat) (frames : List Nat) : State × Nat :=
  let c : Cohort :=
    { id := s.nextId, part := t.part, task := t.handle, die := die, size := granules t.scratch * 24576, frames := frames,
      bytes := [], barCount := [], barArrived := [] }
  (chargeUp { s with cohorts := s.cohorts ++ [c], nextId := s.nextId + 1 } t.part t.region fun r =>
    { r with scratch := r.scratch + scratchKiB t.scratch }, c.id)

/-- A new group of a task is bound, after which the task's floor ends on dies where it has no group left (R62, R73, R74, R86,
R369). -/
def bindNew (s : State) (t : Task) (index die core slot : Nat) (frames : List Nat) : State :=
  let c := match cohortOn s t die with
    | some c => (s, c.id)
    | none => newCohort s t die frames
  let gid := c.1.nextId
  let g := withImage c.1 (groupEntry t gid index die c.2 none)
  let t1 :=
    if t.redo.any fun x => x.1 == index then { t with redo := t.redo.filter fun x => x.1 != index } else { t with next := index + 1 }
  floorsEnd (seat (putTask { c.1 with groups := c.1.groups ++ [g], nextId := gid + 1 } t1) g die core slot) t.part t.handle

/-- A slot filled with its pick, or left free (R86). -/
def fillWith (s : State) (p : Pick) (die core slot : Nat) (frames : List Nat) : State :=
  match p with
  | .ready gid => bindReady s gid die core slot
  | .new part handle index =>
    match task? s part handle with
    | none => s
    | some t =>
      if (cohortOn s t die).isSome || framesOk s die (granules t.scratch) frames then bindNew s t index die core slot frames
      else s

/-- The first fill that finds a record which fails only by its authority or priority tells the operator; a record that names no task
of the partition fails by more (R14, R85). -/
def noteMisfit (s : State) (die core slot : Nat) : State :=
  let v := recordAt s die core slot
  if !recValid v || (groupIn s die core slot).isSome then s
  else
    match recordRegion s die v with
    | none => s
    | some r =>
      match recordMisfit r.part v with
      | none => s
      | some b =>
        if r.mismatchSent || !recordNames s r.part v then s
        else
          envelope (modRegion s r.part r.id fun x => { x with mismatchSent := true }) .operator 10 0 (b + 2 * 0x10000)
            ⟨r.part, die, core, slot, r.id, 0⟩

/-- The frames that an allocation takes when no choice is given: the lowest free ones. DESIGN CHOICE (entry 12). -/
def defaultFrames (s : State) (p : Pick) (die : Nat) : List Nat :=
  match p with
  | .ready _ => []
  | .new part handle _ =>
    match task? s part handle with
    | none => []
    | some t => if (cohortOn s t die).isSome then [] else freeFrames s die (granules t.scratch)

/-- SLOT_FILL (R60, R73, R85, R86). -/
def execSlotFill (die core slot : Nat) (frames : List Nat) (s : State) : Host.Outcome State Fault Refusal :=
  let s1 := noteMisfit s die core slot
  .next <|
    match pickFor s1 [] die core slot with
    | none => s1
    | some p => fillWith s1 p die core slot frames

/-! ### Rotation (R92) -/

/-- The state in which a group's slot is free for a rotation: it joins the tail of its die's return list, its rename map goes
into its image, and the rotation is counted (R92, R139, R386). -/
def rotated (s : State) (g : Group) : State :=
  countRegion (rotateOut (modGroup s g.gid fun x => { x with rotating := false }) g.gid) g.part g.region 0x13 1

/-- A group of the return list that the slot matches, or a new group that R73 would give it, waits for the slot of a group (R92). -/
def rotationDue (s : State) (g : Group) (die core slot : Nat) : Bool :=
  let s1 := rotated s g
  (oldestReady s1 [g.gid] die core slot).isSome || (pickNew s1 [g.gid] die core slot).isSome

/-- A slot that a rotation of group `gid` has freed is filled: groups that it could take and that other free slots take in the same
cycle are bound there first, and if none is left for it the rotated group is bound back (R86, R92). -/
def fillRotated : Nat → State → Nat → Nat → Nat → Nat → State
  | 0, s, gid, die, core, slot => bindReady s gid die core slot
  | fuel + 1, s, gid, die, core, slot =>
    match claimed s [gid] die core slot with
    | none => bindReady s gid die core slot
    | some (p, x) =>
      let s1 := fillWith s p x.1 x.2.1 x.2.2 (defaultFrames s p x.1)
      if x == (die, core, slot) then s1 else fillRotated fuel s1 gid die core slot

/-- A rotation: the group gives up its slot, which takes another group; if other slots take all that wait, the group is bound back
with a fresh quantum. With no group waiting, nothing happens (R92). -/
def rotate (s : State) (g : Group) (die core slot : Nat) : Option State :=
  if !rotationDue s g die core slot then none
  else
    let s1 := rotated s g
    some (fillRotated (s1.records.length + 1) s1 g.gid die core slot)

/-- QUANTUM_EXPIRY: the group is rotated if another group waits for the slot; while its matrix commands run, the rotation is asked
for and follows when they are over (R92, R246, R259). -/
def execQuantumExpiry (die core slot : Nat) (s : State) : Host.Outcome State Fault Refusal :=
  .next <|
    match groupIn s die core slot with
    | none => s
    | some g =>
      if g.quantum == 0 && !g.rotating then s
      else if cmdsDone g then
        (match rotate s g die core slot with
         | some t => t
         | none => if g.rotating then putGroup s { g with rotating := false } else s)
      else if !g.rotating && rotationDue s g die core slot then putGroup s { g with rotating := true }
      else s

/-- PRIORITY_RAISE: a chooser's count reaches 4096 (R91). -/
def execPriorityRaise (gid : Nat) (chooser : Chooser) (s : State) : Host.Outcome State Fault Refusal :=
  .next (modGroup s gid fun g =>
    match chooser with
    | .scalar => { g with chooseS := 4096 }
    | .main => { g with chooseM := 4096 }
    | .special => { g with chooseX := 4096 })

/-! ### Demand notices (R80) -/

/-- The ready unbound groups of a region on a die: never bound groups count on the firing die, others, those discarded among them,
where their cohort is (R80). DEDUCED (entry 40). -/
def demandOf (s : State) (die part region : Nat) : Nat :=
  let new := (s.tasks.filter fun t => t.part == part && t.region == region && t.status == .fired && !t.faulted).foldl (fun n t =>
      n + (if t.firing == die then groupTotal t - t.next else 0) + (t.redo.filter fun x => x.2 == die).length) 0
  new + (s.groups.filter fun g => g.part == part && g.region == region && g.status == .ready && g.die == die).length

/-- The slots on a die whose records match a region (R80, R85). -/
def slotsMatching (s : State) (die part region : Nat) : Nat :=
  ((armedSlots s die).filter fun x =>
    let v := recordAt s die x.1 x.2
    recValid v && (match recordRegion s die v with
      | some r => r.part == part && r.id == region && (recordMisfit r.part v).isNone && recordNames s part v
      | none => false)).length

/-- A demand notice: an entry for the ring of each I/O die (R43, R80). -/
def demandNotice (s : State) (die part region : Nat) : State :=
  let bs := natToBytes 4 region ++ natToBytes 1 part ++ natToBytes 1 die ++ natToBytes 2 0 ++
    natToBytes 4 (demandOf s die part region) ++ natToBytes 4 (slotsMatching s die part region)
  let s1 := match s.demand8 with
    | none => s
    | some r =>
      let w := ringAtOperator s r 16 fun _ => bs
      { w.s with demand8 := some w.ring }
  match s1.demand9 with
  | none => s1
  | some r =>
    let w := ringAtOperator s1 r 16 fun _ => bs
    { w.s with demand9 := some w.ring }

/-- DEMAND_NOTICE: a further notice, while the count stays nonzero (R80). -/
def execDemandNotice (die part region : Nat) (s : State) : Host.Outcome State Fault Refusal :=
  .next (if demandOf s die part region == 0 then s else demandNotice s die part region)

/-- The notices of a step from `s` to `t`: one for each region on a die whose count of ready unbound groups has risen from 0
(R80). -/
def demandRise (s t : State) : State :=
  (t.regions.filter fun r => r.active).foldl (fun u r =>
    (List.range 8).foldl (fun u d =>
      if demandOf s d r.part r.id == 0 && demandOf t d r.part r.id != 0 then demandNotice u d r.part r.id else u) u) t

end Sys2Proof.Machine
end

