-- ==== Sys2Proof/Machine/Preempt.lean ====
section
/-! DEFINITION. Lease registers (R25, R26, R34) and pre-emption (R376 to R379): requests, their choice on each die, saves,
discards and re-placements. -/

namespace Sys2Proof.Machine

/-! ### Leases -/

/-- The partitions that a lease write takes off a die (R26). -/
def clearedParts (s : State) (die : Nat) (value : Word) : List Nat :=
  (List.range 64).filter fun p => leased s die p && !value.getLsbD p

/-- The groups of some partitions bound on a die. -/
def boundOn (s : State) (die : Nat) (ps : List Nat) : List Nat :=
  (s.groups.filter fun g => ps.contains g.part && (match g.status with
    | .bound d _ _ => d == die
    | _ => false)).map fun g => g.gid

/-- The standing records on a die whose region is an active one of these partitions are emptied (R26, R83). -/
def dropStanding (s : State) (die : Nat) (ps : List Nat) : State :=
  { s with records := s.records.filter fun x =>
      !(x.1 / 3072 == die && recTask x.2.toNat == 0xFFFFFFFF &&
        s.regions.any fun r => r.active && r.id == recRegion x.2.toNat && ps.contains r.part) }

/-- A partition's reset keeps the lease register of a die, so that later writes wait (R34). -/
def leaseHeld (s : State) (die : Nat) : Bool := s.parts.any fun p => p.st == .resetting && p.leaseBack.any fun b => b.1 == die

/-- A lease register after a write takes effect; a reset's own write keeps the old value (R25, R34). -/
def applyLease (s : State) (j : LeaseJob) : State :=
  let s1 := match j.owner with
    | none => s
    | some p => { s with parts := s.parts.map fun (x : Part) =>
        if x.id == p then { x with leaseBack := x.leaseBack ++ [(j.die, Sparse.get s.lease j.die)] } else x }
  { s1 with lease := Sparse.set s1.lease j.die j.value }

/-- The first job of a die taken off the list. -/
def dropJob (s : State) (die : Nat) : State :=
  { s with leaseJobs := s.leaseJobs.eraseP fun j => j.die == die }

/-- The first lease write of a die is begun: one that clears nothing takes effect at once and the next is begun; another
empties the standing records and waits for the groups it takes off the die (R25, R26). -/
def beginLease : Nat → State → Nat → State
  | 0, s, _ => s
  | fuel + 1, s, die =>
    match s.leaseJobs.find? fun j => j.die == die with
    | none => s
    | some j =>
      if j.owner.isNone && leaseHeld s die then s
      else
        let ps := clearedParts s die j.value
        if ps.isEmpty then beginLease fuel (dropJob (applyLease s j) die) die
        else
          let w := boundOn s die ps
          let s1 := dropStanding s die ps
          { s1 with leaseJobs := s1.leaseJobs.map fun x => if x == j then { x with waitFor := w } else x }

/-- A lease write arrives: it is carried out after the earlier ones of its die (R25, R26). -/
def leaseArrive (s : State) (die : Nat) (value : Word) (owner : Option Nat) : State :=
  let first := !(s.leaseJobs.any fun j => j.die == die)
  let s1 := { s with leaseJobs := s.leaseJobs ++ [⟨die, value, [], owner⟩] }
  if first then beginLease (s1.leaseJobs.length + 1) s1 die else s1

/-- LEASE_WRITE (R25, R26). -/
def execLeaseWrite (die : Nat) (value : Word) (s : State) : Host.Outcome State Fault Refusal :=
  .next (if die < 8 then leaseArrive s die value none else s)

/-- LEASE_CLEAR_COMPLETE: the groups are saved, and the register takes the new value (R26). -/
def execLeaseClearComplete (die : Nat) (s : State) : Host.Outcome State Fault Refusal :=
  .next <|
    match s.leaseJobs.find? fun j => j.die == die with
    | none => s
    | some j =>
      if !j.waitFor.isEmpty || (j.owner.isNone && leaseHeld s die) then s
      else
        let s1 := dropJob (applyLease s j) die
        beginLease (s1.leaseJobs.length + 1) s1 die

/-! ### Requests -/

/-- A pre-emption value's fields (R376). -/
def preDie (v : Nat) : Nat := bits v 12 3
def preScope (v : Nat) : Nat := bits v 16 2
def preAction (v : Nat) : Nat := bits v 19 3
def preTarget (v : Nat) : Nat := bits v 22 3
def preDeadline (v : Nat) : Nat := bits v 32 32

/-- The cause with which a group's write of 0x820 traps (R376). -/
def preBad (v : Nat) : Option Nat :=
  if 191 < bits v 4 8 || 3 ≤ preAction v then some 0x01
  else if bitOf v 15 || bits v 25 7 != 0 then some 0x02
  else none

/-- The dies that a pre-emption value covers (R376). -/
def preDies (v : Nat) : List Nat := if preScope v == 3 then List.range 8 else [preDie v]

/-- A write of a value to a die's 0x820 waits: a request that came through that die's registers is in progress, or one that covers a
die which the value names too (R376, R385, R400). -/
def preBusy (s : State) (die value : Nat) : Bool :=
  (Sparse.get s.pre822 die).getLsbD 0 || s.preempts.any fun q => q.dies.any fun x => (preDies value).contains x.die

/-- A write of 0x820 starts a request (R376). -/
def startPreempt (s : State) (die : Nat) (value : Word) : State :=
  { s with
    nextId := s.nextId + 1
    pre820 := Sparse.set s.pre820 die value
    pre822 := Sparse.set s.pre822 die 1
    preempts := s.preempts ++
      [⟨s.nextId, die, value, bits (Sparse.get s.pre821 die).toNat 0 32,
        (preDies value.toNat).map fun d => ⟨d, false, [], [], [], false, false, false, false⟩⟩] }

/-- A management core's write of 0x820: a bad value changes nothing, and a write while busy waits (R376). -/
def preWrite (s : State) (die : Nat) (value : Word) (action : Nat) : Host.Outcome State Fault Refusal :=
  .next (if 8 ≤ die || (preBad value.toNat).isSome || preAction value.toNat != action || preBusy s die value.toNat then s
    else startPreempt s die value)

/-- PREEMPT_BY_DEADLINE (R376, R377). -/
def execPreemptByDeadline (die : Nat) (value : Word) (s : State) : Host.Outcome State Fault Refusal :=
  preWrite s die value 0

/-- PREEMPT_SAVE (R376, R377). -/
def execPreemptSave (die : Nat) (value : Word) (s : State) : Host.Outcome State Fault Refusal := preWrite s die value 1

/-- PREEMPT_REPLACE (R376, R379). -/
def execPreemptReplace (die : Nat) (value : Word) (s : State) : Host.Outcome State Fault Refusal := preWrite s die value 2

/-- A core and slot lie in a scope of R376 on its die. -/
def seatInScope (v core slot : Nat) : Bool :=
  match preScope v with
  | 0 => core == bits v 4 8 && slot == bits v 0 4
  | 1 => core == bits v 4 8
  | _ => true

/-- A bound group is in the scope of a request on a die and passes its filter (R376, R377). -/
def preAffects (q : PreReq) (die : Nat) (g : Group) : Bool :=
  let v := q.value.toNat
  match g.status with
  | .bound d c n => d == die && seatInScope v c n && (!bitOf v 18 || g.region == q.filter)
  | _ => false

/-- The groups that a request affects on a die (R377). -/
def affected (s : State) (q : PreReq) (die : Nat) : List Group := s.groups.filter (preAffects q die)

/-- The record of one die of a request changed. -/
def modPreDie (s : State) (request die : Nat) (f : PreDie → PreDie) : State :=
  { s with preempts := s.preempts.map fun q =>
      if q.id == request then { q with dies := q.dies.map fun x => if x.die == die then f x else x } else q }

/-- The requests to peers of a group that is discarded: those on the way serve no instruction any more; its copies' stay. -/
def peersLeft (ps : List PeerAccess) : List PeerAccess :=
  (ps.filter fun p => p.copy != 0 || p.reply.isNone).map fun p => if p.copy == 0 then { p with redone := true } else p

/-- A group is discarded: it leaves its slot, its work is counted as discarded, and its index is handed out again, ready on
the die of its cohort; its copies run on in its record (R75, R80, R378, R388). -/
def discardGroup (s : State) (gid : Nat) : State :=
  match group? s gid with
  | none => s
  | some g =>
    let s0 := match task? s g.part g.task with
      | none => s
      | some t => putTask s { t with redo := t.redo ++ [(g.index, g.die)] }
    let s1 := flushProv (unbind s0 gid .ended) gid 0x40
    modGroup (countRegion s1 g.part g.region 0x12 1) gid fun g =>
      { g with image := none, saved := false, wait := .none, vregs := [], tiles := [], queue := [], bodyState := .none,
               cmds := [], pend := ⟨[], 0, [], 0, 0⟩, latch := none, traces := [], peers := peersLeft g.peers }

/-- What a die chooses for its affected groups (R377). -/
inductive PreChoice where
  | drain | save | discard
  deriving DecidableEq, Repr

/-- The dirty register lines of a group (R138, R377). -/
def dirtyLines (g : Group) : Nat :=
  ((List.range g.vcount).filter fun i => g.dirty.getLsbD i && (g.vregs.getD i ⟨.never, []⟩).st == .live).length

/-- The save estimate of some groups is within a deadline in ns: their bytes at 2 TB/s, which is 2000 bytes in a ns, and 200 ns
(R377). -/
def saveWithin (gs : List Group) (deadline : Nat) : Bool :=
  decide (gs.foldl (fun n g => n + 384 * dirtyLines g + 16384 * g.tcount) 0 + 200 * 2000 ≤ 2000 * deadline)

/-- The drain estimate of a group on a die is within a deadline in ns: the mean cycles from bind to exit of its task's groups,
less the cycles since its own bind, at the clock of the die's point p, which is (9 + p) / 10 GHz; without a group that has
exited there is no estimate (R377, R410). -/
def drainWithin (s : State) (g : Group) (die deadline : Nat) : Bool :=
  (task? s g.part g.task).any fun t =>
    let a := seatOf g
    let core := a.1 * 192 + a.2.1
    let n := t.spans.length
    let total := t.spans.foldl (fun m x => m + (Config.coreCycles x.2.2 x.1 - Config.coreCycles x.2.1 x.1)) 0
    let since := Config.coreCycles s.clock core - Config.coreCycles g.boundAt core
    n != 0 && decide ((total - n * since) * 10 ≤ deadline * n * (9 + bits (pointStored s die) 8 4))

/-- The choice of R377 on a die for its affected groups. -/
def preChoice (s : State) (v die : Nat) (gs : List Group) : PreChoice :=
  if preAction v != 0 || preDeadline v == 0 then .save
  else if gs.all fun g => drainWithin s g die (preDeadline v) then .drain
  else if saveWithin gs (preDeadline v) then .save
  else .discard

/-- The affected groups that trapped in the cycle in which a request arrives at a die: they count as saved (R385). -/
def trappedWith (s : State) (q : PreReq) (die : Nat) (same : List Nat) (seats : List (Nat × Nat)) : List Group :=
  s.groups.filter fun g => g.status == .trapped && g.die == die && (!bitOf q.value.toNat 18 || g.region == q.filter) &&
    (same.zip seats).any fun x => x.1 == g.gid && seatInScope q.value.toNat x.2.1 x.2.2

/-- PREEMPT_REQUEST_ARRIVE (R377, R379); `same` are groups that trapped on the die in the same cycle, and `seats` the core and
slot that each of them held (R385). DESIGN CHOICE (entry 65). -/
def execPreemptRequestArrive (request die : Nat) (same : List Nat) (seats : List (Nat × Nat)) (s : State) :
    Host.Outcome State Fault Refusal :=
  .next <|
    match s.preempts.find? fun q => q.id == request with
    | none => s
    | some q =>
      if !(q.dies.any fun x => x.die == die && !x.arrived) then s
      else
        let v := q.value.toNat
        let gs := affected s q die
        let ts := trappedWith s q die same seats
        let arrive (f : PreDie → PreDie) : State :=
          modPreDie s request die fun x => f { x with arrived := true, saved := !ts.isEmpty }
        if preAction v == 2 then
          let cs := ((gs ++ ts).map fun g => g.cohort).eraseDups
          let all := s.groups.filter fun g => cs.contains g.cohort && isBound g
          arrive fun x => { x with cohorts := cs, saving := all.map fun g => g.gid }
        else
          match preChoice s v die gs with
          | .drain => arrive fun x => { x with draining := gs.map fun g => g.gid }
          | .save => arrive fun x => { x with saving := gs.map fun g => g.gid }
          | .discard =>
            let ds := gs.filter fun g => discardable s g
            let ks := gs.filter fun g => !discardable s g
            let s1 := arrive fun x => { x with saving := ks.map fun g => g.gid, discarded := !ds.isEmpty }
            ds.foldl (fun s g => discardGroup s g.gid) s1

/-- PREEMPT_DEADLINE_EXPIRY: draining groups still bound are saved (R377). -/
def execPreemptDeadlineExpiry (request die : Nat) (s : State) : Host.Outcome State Fault Refusal :=
  .next (modPreDie s request die fun x => { x with draining := [], saving := x.saving ++ x.draining })

/-- A group waits to be saved: for a request, a lease write, or the stop of its partition (R26, R378, R384). -/
def beingSaved (s : State) (g : Group) : Bool :=
  (s.preempts.any fun q => q.dies.any fun x => x.saving.contains g.gid) ||
    (s.leaseJobs.any fun j => j.waitFor.contains g.gid) || (part? s g.part).any fun p => p.stopping

/-- A request that waits for a group's save notes it as saved on its die (R376, R379). -/
def markSaved (gid : Nat) (q : PreReq) : PreReq :=
  { q with dies := q.dies.map fun x => if x.saving.contains gid then { x with saved := true } else x }

/-- GROUP_SAVE_COMPLETE: once the group's commands are over and its peers have answered, its image is written and it joins the
return list (R246, R306, R378); the save is counted for a request that is no re-placement and for a lease write (R386). -/
def execGroupSaveComplete (gid : Nat) (s : State) : Host.Outcome State Fault Refusal :=
  .next <|
    match group? s gid with
    | none => s
    | some g =>
      match g.status with
      | .bound _ _ _ =>
        if !beingSaved s g || !cmdsDone g || !peersDone g then s
        else
          let asked := s.preempts.any fun q => preAction q.value.toNat != 2 && q.dies.any fun x => x.saving.contains gid
          let counted := asked || s.leaseJobs.any fun j => j.waitFor.contains gid
          let s1 := { s with preempts := s.preempts.map (markSaved gid) }
          let s2 := joinReady (saveImage s1 gid (pendingBytes g.pend)) gid
          if counted then countRegion s2 g.part g.region 0x11 1 else s2
      | _ => s

/-! ### Re-placement (R379) -/

/-- The groups of a cohort that have not ended. -/
def cohortGroups (s : State) (c : Nat) : List Group := s.groups.filter fun g => g.cohort == c && g.status != .ended

/-- The groups of a cohort that hold no slot and are not in an image yet are saved too (R379). -/
def saveUnbound (s : State) (c : Nat) : State :=
  (cohortGroups s c).foldl (fun s g => if g.saved then s else saveImage s g.gid (pendingBytes g.pend)) s

/-- The re-placement of a cohort fails (R379). -/
def replaceFails (s : State) (t : Task) (c : Cohort) (target : Nat) : Bool :=
  !(eligibleDies s t).contains target ||
    (s.cohorts.any fun x => x.id != c.id && x.part == t.part && x.task == t.handle && x.die == target) ||
    decide ((freeFrames s target (granules t.scratch)).length < granules t.scratch)

/-- COHORT_REPLACE: once its groups are saved, and their commands are over (R246), the cohort's scratch and barriers go to new
frames on the target die, and its groups are counted and bound only there; or it stays where it was (R261, R262, R379, R386).
-/
def execCohortReplace (request cohort : Nat) (frames : List Nat) (s : State) : Host.Outcome State Fault Refusal :=
  .next <|
    match s.preempts.find? fun q => q.id == request, cohort? s cohort with
    | some q, some c =>
      let gs := cohortGroups s cohort
      if !(q.dies.any fun x => x.cohorts.contains cohort) ||
          gs.any (fun g => isBound g || !cmdsDone g || !peersDone g) then s
      else
        match task? s c.part c.task with
        | none => s
        | some t =>
          let target := preTarget q.value.toNat
          let done (s : State) (failed : Bool) (n : Nat) : State :=
            let s1 := { s with preempts := s.preempts.map fun x =>
              if x.id == request then
                { x with dies := x.dies.map fun y =>
                    if y.cohorts.contains cohort then
                      { y with cohorts := y.cohorts.filter (fun k => k != cohort), saved := true,
                               replaceFailed := y.replaceFailed || failed }
                    else y }
              else x }
            countRegion s1 c.part t.region n gs.length
          let s1 := saveUnbound s cohort
          if replaceFails s t c target then done s1 true 0x11
          else if !framesOk s target (granules t.scratch) frames then s
          else
            let s2 := { s1 with
              vacated := c.frames.foldl (fun m f => Sparse.set m (c.die * 4096 + f) (BitVec.ofNat 8 (c.part + 1))) s1.vacated
              groups := s1.groups.map fun g => if g.cohort == cohort then { g with die := target } else g }
            done (floorsEnd (modCohort s2 cohort fun x => { x with die := target, frames := frames }) c.part c.task) false 0x14
    | _, _ => s

/-- PREEMPT_REQUEST_COMPLETE: every die has finished, the status is written, and the dies that overran tell the operator
(R376, R377). DEDUCED (entry 36). -/
def execPreemptRequestComplete (request : Nat) (overrunNs : List (Nat × Nat)) (s : State) :
    Host.Outcome State Fault Refusal :=
  .next <|
    match s.preempts.find? fun q => q.id == request with
    | none => s
    | some q =>
      if !(q.dies.all fun x => x.arrived && x.draining.isEmpty && x.saving.isEmpty && x.cohorts.isEmpty) then s
      else
        let late := overrunNs.filter fun o => preDeadline q.value.toNat != 0 && q.dies.any fun x => x.die == o.1 && x.saved
        let mask (f : PreDie → Bool) : Nat := q.dies.foldl (fun m x => if f x then m ||| 2 ^ x.die else m) 0
        let dies := late.foldl (fun m o => m ||| 2 ^ o.1) 0
        let v := 2 ^ 8 * mask (fun x => x.drained) + 2 ^ 16 * mask (fun x => x.saved) + 2 ^ 24 * mask (fun x => x.discarded) +
          2 ^ 32 * dies + 2 ^ 40 * mask fun x => x.replaceFailed
        let s1 := { s with
          pre822 := Sparse.set s.pre822 q.die (BitVec.ofNat 64 v)
          preempts := s.preempts.filter fun x => x.id != request }
        late.foldl (fun s o => envelope s .operator 6 0 o.2 ⟨0, o.1, 0xFFFF, 0xFF, 0, 0⟩) s1

end Sys2Proof.Machine
end

