-- ==== Sys2Proof/Machine/System.lean ====
section
/-! DEFINITION. The system functions of the scalar stream: fences (R165 to R168), barriers and waits (R169, R170), leaving and
yielding (R171 to R173), traps and their handlers (R98, R174, R371 to R375), special registers (R146, R147, R175), launches and
engine waits (R176 to R179). -/

namespace Sys2Proof.Machine

/-! ### Fences -/

/-- What a memory fence or acquire at a scope drops: the data lines of its own core from .die on (R263). -/
def acquireAt (s : State) (g : Group) (scope : Nat) : State :=
  if 2 ≤ scope then dropData s (agentOf g).die (agentOf g).core else s

/-- From .fab on a fence waits for the answers of peer packages (R165, R310). -/
def fenceWaits (s : State) (g : Group) (scope : Nat) : Bool := decide (4 ≤ scope) && (!peersDone g || !othersDone s g)

/-- A fence: its scope is checked, it waits, acts and retires (R108, R165). -/
def fenceOp (s : State) (scope : BitVec 6) (f : Group → State) : Host.Outcome State Fault Refusal :=
  onDrained s fun g =>
    scalarOk (decide (scope.toNat ≤ 5)) s g (if fenceWaits s g scope.toNat then releaseBegun s g else f g)

/-- FENCE_MEM (R165, R263); at .pkg a store that comes next is a release (R167, R316). -/
def execFenceMem (c : BitVec 6) (s : State) : Host.Outcome State Fault Refusal :=
  fenceOp s c fun g =>
    modGroup (retire (acquireAt s g c.toNat) g) g.gid fun x => { x with fenced := c.toNat == 3 }

/-- FENCE_XLAT: walks read memory itself, so the stores are visible to them already (R165). -/
def execFenceXlat (c : BitVec 6) (s : State) : Host.Outcome State Fault Refusal := fenceOp s c fun g => retire s g

/-- FENCE_CODE (R102, R165). -/
def execFenceCode (c : BitVec 6) (s : State) : Host.Outcome State Fault Refusal :=
  fenceOp s c fun g => retire (dropCode s (agentOf g).die (agentOf g).core c.toNat) g

/-- XFENCE (R168). -/
def execXfence (s : State) : Host.Outcome State Fault Refusal := onDrained s fun g => xfenceThen s g (retire s g)

/-! ### Barriers and waiting on a word -/

/-- The groups that have arrived at a barrier in its generation (R169). -/
def arrivedAt (c : Cohort) (id : Nat) : List Nat := (c.barArrived.filter fun x => x.1 == id).map fun x => x.2

/-- An arrival: the first of a generation sets its count; the last one releases the generation and goes on, any other sleeps
(R169). -/
def barArrive (s : State) (g : Group) (c : Cohort) (bar : Nat) (offered : Word) : State :=
  let here := arrivedAt c bar
  let count := if here.isEmpty then offered else Sparse.get c.barCount bar
  if decide (count.toNat ≤ 1) || here.length + 1 == count.toNat then
    let s1 := modCohort s c.id fun x =>
      { x with barCount := Sparse.set x.barCount bar 0, barArrived := x.barArrived.filter fun y => y.1 != bar }
    let s2 := here.foldl (fun s gid => wake s gid 0) s1
    retireIn (acquireAt s2 g 2) g.gid id
  else
    let s1 := modCohort s c.id fun x =>
      { x with barCount := Sparse.set x.barCount bar count, barArrived := x.barArrived ++ [(bar, g.gid)] }
    sleep s1 g (.bar bar)

/-- BAR (R93, R169). -/
def execBar (a b : Reg) (s : State) : Host.Outcome State Fault Refusal :=
  onDrained s fun g =>
    scalarOk (decide (b.toNat ≤ 15)) s g <|
      match g.wait with
      | .done _ => retire (acquireAt s g 2) g
      | _ =>
        xfenceThen s g <|
          match cohort? s g.cohort with
          | none => s
          | some c => barArrive s g c b.toNat (sreg g a)

/-- The condition of a `wwait` (R170). -/
def waitCond (cond : BitVec 2) (w v : Nat) : Bool :=
  match cond.toNat with
  | 0 => w == v
  | 1 => w != v
  | 2 => decide (v ≤ w)
  | _ => decide (w < v)

/-- A `wwait` whose condition holds acts as a fence at its scope and retires; from .fab on it first waits for its peers (R165,
R170). -/
def waitEnds (s : State) (gid scope : Nat) : State :=
  match group? s gid with
  | none => s
  | some g =>
    if fenceWaits s g scope then releaseBegun s { g with wait := .done 0 }
    else retire (acquireAt s g scope) g

/-- Before the read of a `wwait` the line's own copy in the core's load cache is dropped, so that the read is made at home (R170,
R263, R307). -/
def waitHome (s : State) (g : Group) (r : Res) : State :=
  match r with
  | .ok (.mem p) => dropLineAt s (agentOf g).die (agentOf g).core p
  | .ok (.peer k a) => dropLineAt s (agentOf g).die (agentOf g).core (peerKey g.part k a)
  | _ => s

/-- WWAIT: reads, and goes on when the condition holds or the read fails; else it sleeps until its line is written (R93,
R170). -/
def execWwait (c : BitVec 3) (w : BitVec 1) (cond : BitVec 2) (a b : Reg) (s : State) : Host.Outcome State Fault Refusal :=
  onDrained s fun g =>
    let size := if w == 1 then 8 else 4
    let x := (sreg g a).toNat
    let e := entryOf x 0xFB 0 size
    let r := resolveAligned s (agentOf g) x size .home
    let asks := loadAsk e size r.2
    scalarOk (decide (c.toNat ≤ 5)) s g <|
      match g.wait with
      | .done _ => waitEnds s g.gid c.toNat
      | _ =>
        let s0 := waitHome r.1 g r.2
        if r.2 == .wait then r.1
        else if !asksReady s0 g asks then asksSend s0 g.gid asks
        else
          let v := performLoad s0 g e r.2 size
          let s1 := asksDrop v.1 g.gid asks
          match r.2, group? s1 g.gid with
          | .ok l, some g1 =>
            if asks.any fun q => (peerNow s0 g q).any fun y => !y.isOk then waitEnds s1 g.gid c.toNat
            else if waitCond cond (bytesToNat v.2) ((sreg g b).toNat % 2 ^ (8 * size)) then waitEnds s1 g.gid c.toNat
            else sleep s1 g1 (.word (lineOf l))
          | _, _ => waitEnds s1 g.gid c.toNat

/-- WWAIT_WAKE: a written line, or any line of a peer package, lets its watcher go back to the return list (R93, R170). -/
def execWwaitWake (gid : Nat) (s : State) : Host.Outcome State Fault Refusal :=
  .next <|
    match group? s gid with
    | none => s
    | some g =>
      if g.status != .waiting then s
      else
        match g.wait with
        | .woken => joinReady s gid
        | .word (.peer _ _) => joinReady s gid
        | _ => s

/-! ### Leaving and yielding -/

/-- EXIT: pending faults trap; the group waits for its commands and for its copies into its own registers and tiles, and ends
(R171). -/
def execExit (s : State) : Host.Outcome State Fault Refusal :=
  onDrained s fun g =>
    xfenceThen s g (if cmdsDone g && g.copies.all (fun c => !c.own || copyOver c) then endGroup (retire s g) g.gid false else s)

/-- LEXIT (R131, R172); the image records the lanes that exit as zero, so every register's line there is old (R143). -/
def execLexit (a : Reg) (s : State) : Host.Outcome State Fault Refusal :=
  onDrained s fun g =>
    scalarOk (decide (a.toNat ≤ 61)) s g <|
      let live := g.live &&& ~~~(BitVec.ofNat 96 (triple g a))
      let mask (m : Sparse 64) (r : Nat) : Sparse 64 := setSregIn m live r (sregIn m r)
      retire s { g with live := live, scalars := mask (mask (mask g.scalars 61) 62) 63, dirty := BitVec.allOnes 128 }

/-- YIELD retires, and its slot acts as on quantum expiry: a rotation is made at once, or is asked for and follows when the matrix
commands are over, before which the group issues nothing (R92, R173, R246). -/
def execYield (s : State) : Host.Outcome State Fault Refusal :=
  onDrained s fun g =>
    let s1 := retire s g
    let at_ := seatOf g
    match group? s1 g.gid with
    | none => s1
    | some g1 =>
      match rotate s1 g1 at_.1 at_.2.1 at_.2.2 with
      | none => s1
      | some s2 => if cmdsDone g then s2 else putGroup s1 { g1 with rotating := true }

/-! ### Traps -/

/-- TRAP (R174). -/
def execTrap (_code : BitVec 12) (s : State) : Host.Outcome State Fault Refusal := onDrained s fun g => trapScalar s g 0x20

/-- A body that belongs to no trapped group written, if no earlier one waits for its buffer and that is free, or given up where its
region is there no more; none while it waits (R171, R271, R373). -/
def writeLoose (s : State) (b : LooseBody) : Option State :=
  let rest (s : State) : State := { s with bodies := s.bodies.filter fun x => x != b }
  match domainOf s b.part b.region with
  | none => some (rest s)
  | some (d, buf, handler) =>
    if (bodiesWaiting s b.part buf).any fun n => decide (n < b.ordinal) then none
    else
      let w := writeBody s d buf handler 0 b.fires b.bytes
      if w.2 then some (rest w.1) else none

/-- BODY_WRITE: the earliest body that waits for a buffer is written once it is free; number 0 names the bodies that belong
to no trapped group (R171, R271, R373). -/
def execBodyWrite (gid : Nat) (s : State) : Host.Outcome State Fault Refusal :=
  .next <|
    if gid == 0 then (s.bodies.findSome? (writeLoose s)).getD s
    else
      match group? s gid with
      | none => s
      | some g =>
        match domainOf s g.part g.region with
        | none => s
        | some (d, buf, handler) =>
          if g.bodyState != .waiting || (bodiesWaiting s g.part buf).any fun n => decide (n < g.ordinal) then s
          else
            let w := deliverBody s gid d buf handler g.body
            if w.2 then w.1 else s

/-- HANDLER_DISPOSITION: the buffer's first dword resumes or ends the trapped group (R374). -/
def execHandlerDisposition (gid : Nat) (s : State) : Host.Outcome State Fault Refusal :=
  .next <|
    match group? s gid with
    | none => s
    | some g =>
      if g.bodyState != .handling || g.status != .trapped then s
      else
        match domainOf s g.part g.region with
        | none => s
        | some (_, buf, _) =>
          let s1 := bufferReady s g.part buf
          match bufferPlace s1 g.part buf .load with
          | none => s
          | some p => trapReturn s1 g (Sparse.readLE s1.mem p 8)

/-! ### Special registers -/

/-- The park budget left to a region: the least that a cap met on the way to the root leaves (R48, R146). -/
def parkLeft (rs : List Region) : Nat :=
  (rs.filter fun r => !regionFlag r 2).foldl (fun n r => Nat.min n (r.parkCap - r.parked)) 0xFFFF

/-- The fault summary (R146). -/
def faultSummary (p : Pending) : Nat :=
  (if p.entries.isEmpty then 0 else 1) + 2 ^ 8 * p.entries.length + 2 ^ 32 * p.further

/-- The dword of a bind record that a register of the slot table reads (R83, R88). -/
def slotTable (s : State) (g : Group) (k : Nat) : Word :=
  let a := seatOf g
  BitVec.ofNat 64 (bits (recordAt s a.1 a.2.1 (k / 2)) (64 * (k % 2)) 64)

/-- A region counter as an `srd` reads it: the main counter and the group's own provisional count (R175, R388). -/
def counterRead (s : State) (g : Group) (n : Nat) : Word :=
  let main := match region? s g.part g.region with
    | some r => Sparse.get r.counters n
    | none => 0
  if n ≤ 0x0A then main + Sparse.get g.prov n else main

/-- The special register `n` as a group reads it; none for a number that R146 does not list. How fast 0x014 counts is free (DESIGN
CHOICE, entry 6). -/
def specialRead (s : State) (g : Group) (n : Nat) : Option Word :=
  let t := task? s g.part g.task
  let a := seatOf g
  let nat (v : Nat) : Option Word := some (BitVec.ofNat 64 v)
  match n with
  | 0x000 => nat g.ix
  | 0x001 => nat g.iy
  | 0x002 => nat g.iz
  | 0x003 => nat ((t.map fun t => t.gx).getD 0)
  | 0x004 => nat ((t.map fun t => t.gy).getD 0)
  | 0x005 => nat ((t.map fun t => t.gz).getD 0)
  | 0x006 => nat g.lanes
  | 0x007 => nat a.1
  | 0x008 => nat a.2.1
  | 0x009 => nat a.2.2
  | 0x00A => nat g.region
  | 0x00B => nat g.task
  | 0x00C => nat (g.auth + 4 * g.part)
  | 0x00D => some (liveWord g.live 0)
  | 0x00E => some (liveWord g.live 1)
  | 0x00F => some (liveWord g.live 2)
  | 0x010 => some g.mode
  | 0x011 => nat 0xFFFFF00000000000
  | 0x012 => nat (((cohort? s g.cohort).map fun c => c.size).getD 0)
  | 0x013 => some (laneBase s g)
  | 0x014 => nat (Config.coreCycles s.clock (a.1 * 192 + a.2.1))
  | 0x015 => some g.seed
  | 0x016 => some g.pinned
  | 0x017 => nat (((region? s g.part g.region).map fun r => r.parked).getD 0 % 2 ^ 16 + 2 ^ 16 * parkLeft (chain s g.part g.region))
  | 0x018 => nat (faultSummary g.pend)
  | 0x019 => some g.retiredS
  | 0x01A => some g.retiredL
  | 0x820 => some (Sparse.get s.pre820 a.1)
  | 0x821 => some (Sparse.get s.pre821 a.1)
  | 0x822 => some (Sparse.get s.pre822 a.1)
  | _ =>
    if 0x100 ≤ n ∧ n < 0x200 then some (counterRead s g (n - 0x100))
    else if 0x800 ≤ n ∧ n < 0x820 then some (slotTable s g (n - 0x800))
    else none

/-- The operator's registers (R88). -/
def operatorRegister (n : Nat) : Bool := decide (0x800 ≤ n) && decide (n ≤ 0x822)

/-- The registers whose read waits for every earlier lane instruction (R135, R372). -/
def readWaits (n : Nat) : Bool :=
  n == 0x010 || n == 0x018 || n == 0x01A || (decide (0x100 ≤ n) && decide (n < 0x200))

/-- SRD (R146, R147, R175). -/
def execSrd (d : Reg) (n : BitVec 12) (s : State) : Host.Outcome State Fault Refusal :=
  onGroup s fun g =>
    if readWaits n.toNat && !g.queue.isEmpty then s
    else
      match specialRead s g n.toNat with
      | none => trapScalar s g 0x01
      | some v =>
        if operatorRegister n.toNat && g.auth != 1 then retireIn (refuse s g 0) g.gid fun x => setSreg x d 0
        else retire s (setSreg g d v)

/-- The write of an operator's register by an operator's group (R8, R88, R376). -/
def operatorWrite (s : State) (g : Group) (n : Nat) (v : Word) : State :=
  let a := seatOf g
  if n < 0x820 then
    let slot := (n - 0x800) / 2
    if n % 2 == 1 then retire (stageRecord s a.1 a.2.1 slot v) g
    else
      retireIn (commitRecord s a.1 a.2.1 slot (v.toNat + 2 ^ 64 * (Sparse.get s.staged (slotIx a.1 a.2.1 slot)).toNat)) g.gid id
  else if n == 0x820 then
    match preBad v.toNat with
    | some c => trapScalar s g c
    | none => if preBusy s a.1 v.toNat then s else retire (startPreempt s a.1 v) g
  else if n == 0x821 then retire { s with pre821 := Sparse.set s.pre821 a.1 (v &&& 0xFFFFFFFF) } g
  else retireIn (refuse s g 0) g.gid id

/-- SWR: a mode value that is not allowed traps with the lane queue as it stands; any other write comes after every queued lane
instruction (R145 to R147, R149, R175). -/
def execSwr (d : Reg) (n : BitVec 12) (s : State) : Host.Outcome State Fault Refusal :=
  onGroup s fun g =>
    let v := sreg g d
    if n == 0x010#12 && !modeOk v then trapScalar s g 0x02
    else if !g.queue.isEmpty then s
    else if (specialRead s g n.toNat).isNone then trapScalar s g 0x01
    else if operatorRegister n.toNat then
      (if g.auth == 1 then operatorWrite s g n.toNat v else retireIn (refuse s g 0) g.gid id)
    else if n == 0x010 then retire s { g with mode := v }
    else if n == 0x015 then retire s { g with seed := v }
    else retireIn (refuse s g g.part) g.gid id

/-! ### Launches and engine waits -/

/-- LAUNCH: while no entry is free the group sleeps, and what the device has latched is kept (R63, R65, R70, R176). -/
def execLaunch (d a : Reg) (s : State) : Host.Outcome State Fault Refusal :=
  onDrained s fun g =>
    let r := offerTask s g.latch g.part (sreg g a).toNat (some (agentOf g).die) none
    match r.2 with
    | .wait => r.1
    | .full l =>
      (match group? r.1 g.gid with
       | some g1 => sleep r.1 { g1 with latch := some l } .launch
       | none => r.1)
    | .refused _ => retireIn r.1 g.gid fun x => setSreg x d 0
    | .handle h => retireIn r.1 g.gid fun x => setSreg { x with latch := none } d (BitVec.ofNat 64 h)

/-- BWAIT: the batches up to a number are complete, and their payloads are visible to the group (R178, R289). -/
def execBwait (a : Reg) (s : State) : Host.Outcome State Fault Refusal :=
  onDrained s fun g =>
    if g.copies.all fun c => copyOver c || !batchCovered (bitOf g.wraps 3) g.copyBatch (sreg g a) c.batch then
      retire (dropData s (agentOf g).die (agentOf g).core)
        { g with traces := g.traces.filter fun t => !batchCovered (bitOf g.wraps 3) g.copyBatch (sreg g a) t.batch }
    else s

/-- MWAIT: the batches up to a number are complete (R179, R241, R245). -/
def execMwait (a : Reg) (s : State) : Host.Outcome State Fault Refusal :=
  onDrained s fun g =>
    if g.cmds.all fun c => !cmdPending c || !batchCovered (bitOf g.wraps 1) g.cmdBatch (sreg g a) c.batch then retire s g else s

end Sys2Proof.Machine
end

