-- ==== Sys2Proof/Machine/Fetch.lean ====
section
/-! DEFINITION. The fetch of scalar and lane words (R96 to R98, R102, R263) and the trap of a fetch that cannot complete. -/

namespace Sys2Proof.Machine

/-- The lane byte of a fetch's access entry: 0xFE for a scalar word, 0xFF for a lane word (R33, R98). -/
def fetchLane (lane : Bool) : Nat := if lane then 0xFF else 0xFE

/-- The bytes of a word of a stream (R97). -/
def fetchSize (lane : Bool) : Nat := if lane then 12 else 4

/-- The address of the next word of a stream (R97). -/
def fetchPc (s : State) (g : Group) (lane : Bool) : Word := if lane then lanePc s g else g.pc

/-- The access entry of a fetch (R98). -/
def fetchEntry (s : State) (g : Group) (lane : Bool) (cause : Nat) : AccessEntry :=
  ⟨fetchPc s g lane, fetchLane lane, 0, fetchSize lane, cause, 0⟩

/-- What a fetch gives: the bytes; a failure with its cause and the address that failed; or a wait. -/
inductive Fetched where
  | ok (bs : List Byte)
  | fail (cause addr : Nat)
  | wait
  deriving DecidableEq, Repr

/-- The shares of `n` bytes from `x` on in each 128-byte line: address and length (R97, R263). -/
def fetchPieces (x n : Nat) : List (Nat × Nat) :=
  let k := 128 - x % 128
  if n ≤ k then [(x, n)] else [(x, k), ((x + k) % 2 ^ 64, n - k)]

/-- The request for a piece that lies in a peer package (R330). -/
def fetchAsk (s : State) (g : Group) (lane : Bool) (k pkg a : Nat) : PeerAsk :=
  ⟨pkg, a, k, .read, [], [], 0, fetchEntry s g lane 0⟩

/-- One piece of a fetch: through the core's load cache, or from a peer package (R98, R102, R263). -/
def fetchPiece (s : State) (g : Group) (lane : Bool) (x k : Nat) : State × Fetched :=
  let ag := agentOf g
  let r := resolve s ag x .exec
  match r.2 with
  | .wait => (r.1, .wait)
  | .fail c _ => (r.1, .fail c x)
  | .ok (.mem p) => (cacheFill r.1 ag.die ag.core true p, .ok (cacheRead r.1 ag.die ag.core true p k))
  | .ok (.peer pkg a) =>
    (match peerNow r.1 g (fetchAsk s g lane k pkg a) with
     | some (.ok bs) => (r.1, .ok ((bs ++ List.replicate k 0).take k))
     | some (.error c) => (r.1, .fail c x)
     | none => (asksSend r.1 g.gid [fetchAsk s g lane k pkg a], .wait))
  | .ok _ => (r.1, .fail 0x12 x)

/-- The pieces of a fetch in order, the first failure or wait alone. -/
def fetchAll (g : Group) (lane : Bool) : State → List (Nat × Nat) → State × Fetched
  | s, [] => (s, .ok [])
  | s, (x, k) :: rest =>
    let r := fetchPiece s g lane x k
    match r.2 with
    | .ok bs =>
      let q := fetchAll g lane r.1 rest
      (q.1, match q.2 with
            | .ok more => .ok (bs ++ more)
            | y => y)
    | y => (r.1, y)

/-- The answered requests of a fetch forgotten. -/
def fetchDrop (s : State) (gid : Nat) (lane : Bool) : State :=
  match group? s gid with
  | none => s
  | some g =>
    if g.peers.any fun p => p.entry.lane == fetchLane lane && !p.redone then
      modGroup s gid fun g => { g with peers := g.peers.filter fun p => p.entry.lane != fetchLane lane || p.redone }
    else s

/-- The next word of a stream fetched (R96 to R98). -/
def fetchWord (s : State) (g : Group) (lane : Bool) : State × Fetched :=
  let r := fetchAll g lane s (fetchPieces (fetchPc s g lane).toNat (fetchSize lane))
  match r.2 with
  | .ok bs => (fetchDrop r.1 g.gid lane, .ok bs)
  | y => (r.1, y)

/-- The failure of a fetch from a peer package: the cause of an answer with an error, or 0x15 where no path leads there and nothing
has been asked (R333). DEDUCED (entry 50). -/
def fetchReply (s : State) (g : Group) (lane : Bool) (pkg a : Nat) : Option Nat :=
  match g.peers.find? fun p => p.entry.lane == fetchLane lane && p.pkg == pkg && p.addr == a && !p.redone with
  | some p =>
    (match p.reply with
     | some (false, bs) => some (replyCause bs)
     | _ => none)
  | none => if reachable s pkg g.part then none else some 0x15

/-- INSTRUCTION_FETCH_FAULT: the fetch of the next scalar or lane word fails at `addr` with this cause, and traps at once
(R98). -/
def execInstructionFetchFault (lane : Bool) (cause addr : Nat) (s : State) : Host.Outcome State Fault Refusal :=
  onGroup s fun g =>
    let r := resolve s (agentOf g) addr .exec
    if (lane && g.queue.isEmpty) || decide (fetchSize lane ≤ (BitVec.ofNat 64 addr - fetchPc s g lane).toNat) ||
        !cmdsDone g || !peersDone g then s
    else
      match r.2 with
      | .fail c gov =>
        if c == cause then takeTrap (refusalEnvelope r.1 gov) g ⟨c, lane, some (fetchEntry s g lane c)⟩ else s
      | .ok (.peer pkg a) =>
        if fetchReply r.1 g lane pkg a == some cause then
          takeTrap r.1 g ⟨cause, lane, some (fetchEntry s g lane cause)⟩
        else s
      | _ => s

/-- The bytes of a lane word as a fetch would find them now, without any effect; none where it cannot be fetched at once
(R372). -/
def peekLane (s : State) (g : Group) (x : Nat) : Option (List Byte) :=
  let ag := agentOf g
  let one (x k : Nat) : Option (List Byte) :=
    match (resolve s ag x .exec).2 with
    | .ok (.mem p) => some (cacheRead s ag.die ag.core true p k)
    | _ => none
  match fetchPieces x 12 with
  | [a] => one a.1 a.2
  | [a, b] =>
    (match one a.1 a.2, one b.1 b.2 with
     | some u, some v => some (u ++ v)
     | _, _ => none)
  | _ => none

/-- The special-function pipe issues the lane opcode; any other issues on the main pipe (R119). -/
def specialPipe (op : Nat) : Bool :=
  (decide (0x40 ≤ op) && decide (op ≤ 0x48)) || (decide (0x60 ≤ op) && decide (op ≤ 0x68))

end Sys2Proof.Machine
end

