-- ==== Sys2Proof/Machine/LaneMem.lean ====
section
/-! DEFINITION. The lane memory instructions, 0x90 to 0x98 (R273 to R284). -/

namespace Sys2Proof.Machine

/-! ### Addresses -/

/-- The displacement of a word (R273). -/
def dispOf (w : LaneOps) : Int := signedOf 2 (bits w.imm.toNat 5 16)

/-- Any integer modulo 2^64. -/
def addr64 (v : Int) : Nat := (v % (2 ^ 64 : Int)).toNat

/-- The first byte of the cluster-scratch window (R260). -/
def windowBase : Nat := 0xFFFFF00000000000

/-- The address of lane `i` of `vld`, `vst` and `vprf` (R274). -/
def addrBase (c : LaneCtx) (w : LaneOps) (i : Nat) : Nat :=
  addr64 ((srcA c w .n64 i : Int) + intOf .i32 (srcB c w .i32 i) + dispOf w)

/-- The address of lane `i` of `vlds` and `vsts` (R274). -/
def addrStride (c : LaneCtx) (w : LaneOps) (i : Nat) : Nat :=
  addr64 ((srcA c w .n64 i : Int) + (i : Int) * signedOf 8 (srcB c w .n64 i) + dispOf w)

/-- The address of lane `i` of `vldc` and `vstc` (R274). -/
def addrWindow (c : LaneCtx) (w : LaneOps) (i : Nat) : Nat :=
  windowBase + (((srcA c w .n32 i : Int) + srcB c w .n32 i + dispOf w) % (2 ^ 32 : Int)).toNat

/-- The address of lane `i` of `vamo` (R274). -/
def addrAmo (c : LaneCtx) (w : LaneOps) (i : Nat) : Nat := srcA c w .n64 i

/-- The address of lane `i` of `vamoc` (R274). -/
def addrAmoc (c : LaneCtx) (w : LaneOps) (i : Nat) : Nat := windowBase + srcA c w .n32 i

/-- The size of a lane's access (R275). -/
def accessSize (w : LaneOps) : Nat :=
  if bitOf w.imm.toNat 4 then dtypeWidth w.dt / 8 else if dtypeWide w.dt then 8 else 4

/-- A loaded value as its destination lane holds it (R275). -/
def loadValue (w : LaneOps) (v : Nat) : Nat :=
  if bitOf w.imm.toNat 4 && dtypeSigned w.dt then intBits 32 (intOf w.dt v) else v

/-- The address of each active lane, resolved in ascending order with `f` (R277, R278, R280). -/
def resolveLanes (f : State → Nat → State × Res) : State → List (Nat × Nat) → State × List (Nat × Nat × Res)
  | s, [] => (s, [])
  | s, (l, x) :: rest =>
    let r := f s x
    let q := resolveLanes f r.1 rest
    (q.1, (l, x, r.2) :: q.2)

/-- A lane instruction's accesses are made: its registers are written and it retires (R137, R207, R280). -/
def laneDone (s : State) (c : LaneCtx) (w : LaneOps) (u : RegUses) (vec : List (Nat × List Nat)) : State :=
  match group? s c.g.gid with
  | none => s
  | some g => laneCommit s { c with g := g } w u { laneNothing with vec := vec }

/-- The values of the lanes, zero where a lane has none. -/
def spreadLanes (c : LaneCtx) (vals : List (Nat × Nat)) : List Nat :=
  (List.range c.n).map fun i =>
    match vals.find? fun v => v.1 == i with
    | some v => v.2
    | none => 0

/-! ### Loads, stores, prefetch -/

/-- The loads of resolved lanes in ascending order (R277). -/
def loadLanes (g : Group) (size : Nat) : State → List (Nat × Nat × Res) → State × List (Nat × Nat)
  | s, [] => (s, [])
  | s, (l, x, r) :: rest =>
    let v := performLoad s g (entryOf x l 0 size) r size
    let q := loadLanes g size v.1 rest
    (q.1, (l, bytesToNat v.2) :: q.2)

/-- The base's use: a register pair whatever dt is (R273). -/
def useBase : RegUse := ⟨2, true⟩

/-- A lane load with the addresses `addr` (R277). -/
def laneLoad (s : State) (op : Nat) (w : LaneOps) (u : RegUses) (addr : LaneCtx → Nat → Nat) :
    Host.Outcome State Fault Refusal :=
  laneThen s op w u noTiles fun c =>
    let size := accessSize w
    let rs := resolveLanes (fun s x => resolveAligned s (agentOf c.g) x size .load) s (c.lanes.map fun i => (i, addr c i))
    if rs.2.any fun r => r.2.2 == .wait then rs.1
    else
      let asks := rs.2.flatMap fun r => loadAsk (entryOf r.2.1 r.1 0 size) size r.2.2
      if asksReady rs.1 c.g asks then
        let v := loadLanes c.g size rs.1 rs.2
        laneDone (asksDrop v.1 c.g.gid asks) c w u
          (vecOf w.dt w.vd.toNat (spreadLanes c (v.2.map fun x => (x.1, loadValue w x.2))))
      else asksSend rs.1 c.g.gid asks

/-- A lane store with the addresses `addr` (R278). -/
def laneStore (s : State) (op : Nat) (w : LaneOps) (u : RegUses) (addr : LaneCtx → Nat → Nat) :
    Host.Outcome State Fault Refusal :=
  laneThen s op w u noTiles fun c =>
    let size := accessSize w
    let rs := resolveLanes (fun s x => resolveAligned s (agentOf c.g) x size .store) s (c.lanes.map fun i => (i, addr c i))
    if storesWait s c.g size (rs.2.map fun r => r.2.2) then rs.1
    else
      laneDone (rs.2.foldl (fun s r =>
        performStore s c.g 0 (entryOf r.2.1 r.1 1 size) r.2.2 (natToBytes size (srcC c w w.dt r.1))) rs.1) c w u []

/-- VLD (R277). -/
def execVld (w : LaneOps) (s : State) : Host.Outcome State Fault Refusal :=
  laneLoad s 0x90 w ⟨useBase, useIndex w.dt, useNone, useOf w.dt⟩ fun c => addrBase c w

/-- VST (R278). -/
def execVst (w : LaneOps) (s : State) : Host.Outcome State Fault Refusal :=
  laneStore s 0x91 w ⟨useBase, useIndex w.dt, useOf w.dt, useNone⟩ fun c => addrBase c w

/-- VLDS (R277). -/
def execVlds (w : LaneOps) (s : State) : Host.Outcome State Fault Refusal :=
  laneLoad s 0x92 w ⟨useNone, useNone, useNone, useOf w.dt⟩ fun c => addrStride c w

/-- VSTS (R278). -/
def execVsts (w : LaneOps) (s : State) : Host.Outcome State Fault Refusal :=
  laneStore s 0x93 w ⟨useNone, useNone, useOf w.dt, useNone⟩ fun c => addrStride c w

/-- VLDC (R277). A vector offset of a 64-bit type is a pair (DEDUCED, entry 49). -/
def execVldc (w : LaneOps) (s : State) : Host.Outcome State Fault Refusal :=
  laneLoad s 0x94 w ⟨useOf w.dt, useOf w.dt, useNone, useOf w.dt⟩ fun c => addrWindow c w

/-- VSTC (R278). DEDUCED (entry 49). -/
def execVstc (w : LaneOps) (s : State) : Host.Outcome State Fault Refusal :=
  laneStore s 0x95 w ⟨useOf w.dt, useOf w.dt, useOf w.dt, useNone⟩ fun c => addrWindow c w

/-- VPRF: it changes only time (R279). -/
def execVprf (w : LaneOps) (s : State) : Host.Outcome State Fault Refusal :=
  laneOp s 0x98 w ⟨useBase, useIndex w.dt, useNone, useNone⟩ fun _ => laneNothing

/-! ### Atomics -/

/-- One atomic of a lane instruction: its address, the lanes it serves, the running fold of their operands, and the
comparand (R204, R284). -/
structure AmoUnit where
  addr : Nat
  res : Res
  lanes : List Nat
  folds : List Nat
  cmp : Nat

/-- The running folds S₁ … Sₘ of a list of operands (R204). -/
def foldsFrom (op size acc : Nat) : List Nat → List Nat
  | [] => []
  | v :: vs =>
    let x := amoNew op size acc v 0
    x :: foldsFrom op size x vs

/-- The folds of the operands of one address (R204). -/
def foldsOf (op size : Nat) : List Nat → List Nat
  | [] => []
  | v :: vs => v :: foldsFrom op size v vs

/-- The atomics of the lanes whose addresses resolve: one for each address, or for cas one for each lane (R284). -/
def amoUnits (op size : Nat) (v cmp : Nat → Nat) (rs : List (Nat × Nat × Res)) : List AmoUnit :=
  if op == 9 then rs.map fun r => ⟨r.2.1, r.2.2, [r.1], [v r.1], cmp r.1⟩
  else
    (rs.filter fun r => (rs.find? fun q => q.2.1 == r.2.1) == some r).map fun r =>
      let ls := (rs.filter fun q => q.2.1 == r.2.1).map fun q => q.1
      ⟨r.2.1, r.2.2, ls, foldsOf op size (ls.map v), 0⟩

/-- The access entry of an atomic, by its first lane. -/
def unitEntry (size : Nat) (x : AmoUnit) : AccessEntry := entryOf x.addr (x.lanes.headD 0) 2 size

/-- What the lanes of an atomic fetch: the first the old value, each later one the old value with the fold before it (R204). -/
def unitFetch (op size old : Nat) (x : AmoUnit) : List (Nat × Nat) :=
  x.lanes.zip (old :: (x.folds.dropLast.map fun f => amoNew op size old f 0))

/-- The result of a lane of an atomic instruction: the value it fetches, or its failure. -/
structure AmoLane where
  lane : Nat
  addr : Nat
  val : Except (Nat × Option EnvPlace) Nat

/-- The atomics performed one after the other (R284). -/
def runUnits (g : Group) (op size : Nat) : State → List AmoUnit → State × List AmoLane
  | s, [] => (s, [])
  | s, x :: rest =>
    let r := performAmo s g (unitEntry size x) x.res size op (x.folds.getLastD 0) x.cmp
    let q := runUnits g op size r.1 rest
    (q.1, (match r.2 with
           | .error e => x.lanes.map fun l => ⟨l, x.addr, .error e⟩
           | .ok old => (unitFetch op size old x).map fun v => ⟨v.1, x.addr, .ok v.2⟩) ++ q.2)

/-- The failures of the lanes recorded in ascending lane order (R280). -/
def noteLanes (s : State) (g : Group) (size : Nat) (lanes : List Nat) (out : List AmoLane) : State :=
  lanes.foldl (fun s l =>
    match out.find? fun x => x.lane == l with
    | some x =>
      (match x.val with
       | .error e => notePending s g.gid { entryOf x.addr l 2 size with cause := e.1 } e.2
       | .ok _ => s)
    | none => s) s

/-- A lane atomic with the addresses `addr` (R283, R284). -/
def laneAmo (s : State) (op : Nat) (w : LaneOps) (u : RegUses) (addr : LaneCtx → Nat → Nat) :
    Host.Outcome State Fault Refusal :=
  laneThen s op w u noTiles fun c =>
    let fn := bits w.imm.toNat 4 5
    let size := dtypeWidth w.dt / 8
    let val (x : Nat) : Nat := x % 2 ^ (8 * size)
    let rs := resolveLanes (fun s x => resolveAtomic s (agentOf c.g) x size) s (c.lanes.map fun i => (i, addr c i))
    if rs.2.any fun r => r.2.2 == .wait then rs.1
    else
      let units := amoUnits fn size (fun l => val (srcB c w w.dt l)) (fun l => val (srcC c w w.dt l)) rs.2
      let asks := units.flatMap fun x => amoAsk (unitEntry size x) size fn (x.folds.getLastD 0) x.cmp x.res
      if asksReady rs.1 c.g asks then
        let v := runUnits c.g fn size rs.1 units
        laneDone (noteLanes (asksDrop v.1 c.g.gid asks) c.g size c.lanes v.2) c w u
          (vecOf w.dt w.vd.toNat (spreadLanes c (v.2.map fun x =>
            (x.lane, match x.val with
                     | .ok v => v
                     | .error _ => 0))))
      else asksSend rs.1 c.g.gid asks

/-- The comparand's use: source C is read for cas only (R283). -/
def useCmp (w : LaneOps) : RegUse := if bits w.imm.toNat 4 5 == 9 then useOf w.dt else useNone

/-- VAMO (R284). -/
def execVamo (w : LaneOps) (s : State) : Host.Outcome State Fault Refusal :=
  laneAmo s 0x96 w ⟨useBase, useOf w.dt, useCmp w, useOf w.dt⟩ fun c => addrAmo c w

/-- VAMOC (R284). DEDUCED (entry 49). -/
def execVamoc (w : LaneOps) (s : State) : Host.Outcome State Fault Refusal :=
  laneAmo s 0x97 w ⟨useOf w.dt, useOf w.dt, useCmp w, useOf w.dt⟩ fun c => addrAmoc c w

end Sys2Proof.Machine
end

