-- ==== Sys2Proof/Machine/Ahead.lean ====
section
/-! DEFINITION. Which scalar words may retire ahead of queued lane words (R99, R133, R134, R372). -/

namespace Sys2Proof.Machine

/-- The lane words that a group's queue holds, each with its block; none where one cannot be fetched at once (R99). -/
def queuedWords (s : State) (g : Group) : Option (List (LaneBlock × Nat)) :=
  (g.queue.flatMap fun b => (List.range (b.count - b.done)).map fun k => (b, laneWordAt s g (b.first + b.done + k))).mapM fun a =>
    (peekLane s g a.2.toNat).map fun bs => (a.1, bytesToNat bs)

/-- The scalar registers that a lane word writes (R118, R133). -/
def laneWrites (w : Nat) : List Nat :=
  let r := rawOfWord w
  match laneForm r.op (dtypeOf r.dt) r.imm with
  | none => []
  | some f =>
    match f.dest with
    | .triple => [r.vd % 64, r.vd % 64 + 1, r.vd % 64 + 2]
    | .scalar => [r.vd % 64]
    | _ => []

/-- A lane word writes a vector register (R118). -/
def laneVector (w : Nat) : Bool :=
  let r := rawOfWord w
  match laneForm r.op (dtypeOf r.dt) r.imm with
  | some f => f.dest == .vector
  | none => false

/-- A lane word loads, stores or does an atomic; `vprf` makes no access (R119, R279). -/
def laneMemory (w : Nat) : Bool := decide (0x90 ≤ (rawOfWord w).op) && decide ((rawOfWord w).op ≤ 0x97)

/-- The address of a lane memory word depends on a vector register (R273). -/
def vectorAddress (w : Nat) : Bool := (rawOfWord w).a.kind == 0 || (rawOfWord w).b.kind == 0

/-- The addresses of a queued lane memory word's active lanes, as its block's snapshot and the vector registers are now (R100,
R274). -/
def laneAddresses (g : Group) (b : LaneBlock) (w : Nat) : List Nat :=
  let r := rawOfWord w
  let c := laneCtx { g with queue := [b] }
  let at_ (f : LaneCtx → LaneOps → Nat → Nat) : List Nat := c.lanes.map (f c (typedLane r))
  match r.op with
  | 0x90 | 0x91 => at_ addrBase
  | 0x92 | 0x93 => at_ addrStride
  | 0x94 | 0x95 => at_ addrWindow
  | 0x96 => at_ addrAmo
  | 0x97 => at_ addrAmoc
  | _ => []

/-- The scalar registers that a scalar word may read or write (R103, R104): of an AMO or MASK word, three from each field on. -/
def scalarUses (w : Nat) : List Nat :=
  let op := bits w 26 6
  let d := bits w 20 6
  let a := bits w 14 6
  let b := bits w 8 6
  if op == 0 then [d, a, b]
  else if 8 ≤ op ∧ op ≤ 0x0A then [d]
  else if op ≤ 0x1B ∨ op == 0x1E then [d, a]
  else if op == 0x1D then [1]
  else if op == 0x20 then [bits w 12 6]
  else if op == 0x22 then [d]
  else if op == 0x23 ∨ op == 0x24 then [d, d + 1, d + 2, a, a + 1, a + 2, b, b + 1, b + 2]
  else []

/-- The address of a scalar load, store or atomic; none for any other word (R104, R110). -/
def scalarAddress (g : Group) (w : Nat) : Option Nat :=
  let op := bits w 26 6
  let at_ (r : Nat) (o : Nat) : Option Nat :=
    some (sregIn g.scalars r + (BitVec.ofNat 14 o).signExtend 64).toNat
  if 0x0B ≤ op ∧ op ≤ 0x11 then at_ (bits w 14 6) (bits w 0 14)
  else if 0x12 ≤ op ∧ op ≤ 0x15 then at_ (bits w 20 6) (bits w 0 14)
  else if op == 0x23 then at_ (bits w 14 6) 0
  else none

/-- A scalar word may retire ahead of queued lane words, by what it is: no X or CREAM function, and of the SYS functions only
`nop`, an `srd` of no register that lane words may change, and an `swr` (R372). Which registers those are beyond the ones R372
names is a DESIGN CHOICE (entry 13). -/
def aheadKind (w : Nat) : Bool :=
  let op := bits w 26 6
  op != 0x21 && op != 0x25 &&
    (op != 0x22 ||
      (match bits w 0 8 with
       | 0x00 | 0x0A => true
       | 0x09 => bits w 8 12 != 0x015 && bits w 8 12 != 0x017
       | _ => false))

/-- No byte of the aligned 8 at `x` can be one of the aligned 8 at `y`, whatever the page tables say: of two addresses that are
translated the place in a page differs, and no on-chip map address is one of them (R134, R260, R265). -/
def placesApart (x y : Nat) : Bool :=
  x / 8 != y / 8 && x / 2 ^ 40 != 0xFFFFE0 && y / 2 ^ 40 != 0xFFFFE0 &&
    (decide (2 ^ 52 ≤ x) || decide (2 ^ 52 ≤ y) || x / 8 % 8192 != y / 8 % 8192)

/-- A scalar access at `x` is of no byte that a queued lane word loads or stores. The address of one that an earlier queued word may
still change is not known: `vec` and `sca` say that one before these writes a vector or a scalar register (R134). -/
def accessAhead (g : Group) (x : Nat) : (vec sca : Bool) → List (LaneBlock × Nat) → Bool
  | _, _, [] => true
  | vec, sca, (b, w) :: rest =>
    (!laneMemory w || (!sca && !(vec && vectorAddress w) && (laneAddresses g b w).all (placesApart x))) &&
      accessAhead g x (vec || laneVector w) (sca || !(laneWrites w).isEmpty) rest

/-- A scalar word may retire ahead of the queued lane words: it touches no register that one of them writes, and its access is of
none of their bytes and of none of the group's own registers (R99, R133, R134, R372). Where an address is not yet known it waits:
DESIGN CHOICE (entry 13). -/
def runsAhead (s : State) (g : Group) (w : Nat) : Bool :=
  match queuedWords s g with
  | none => false
  | some ws =>
    aheadKind w && !(ws.any fun x => (laneWrites x.2).any fun r => (scalarUses w).contains r) &&
      (match scalarAddress g w with
       | none => true
       | some a => !chipKind12 a && accessAhead g a false false ws)

/-- A queued lane word loads or stores, so that a fault which a scalar word ahead of it notes would come before its own (R280). -/
def laneMemoryQueued (s : State) (g : Group) : Bool :=
  match queuedWords s g with
  | none => true
  | some ws => ws.any fun x => laneMemory x.2

end Sys2Proof.Machine
end

