-- ==== Sys2Proof/Machine/Codec.lean ====
section
/-! DEFINITION. How the model lays out in bytes what the queue-state object of a migration carries (R384): each value follows
the one before it, numbers with their length in front. The spec gives no layout; `Config.carriedMask` stands over these bytes
(DESIGN CHOICE, entry 45). -/

namespace Sys2Proof.Machine

/-- A way to write values of a type as bytes, and to read one back from the front of a list. -/
structure Codec (α : Type) where
  put : α → List Byte
  get : List Byte → Option (α × List Byte)

/-- A number: its length in bytes in unary, and its bytes. -/
def natC : Codec Nat where
  put n := List.replicate (n.log2 / 8 + 1) 1#8 ++ 0#8 :: natToBytes (n.log2 / 8 + 1) n
  get bs :=
    let k := (bs.takeWhile fun b => b == 1#8).length
    let r := bs.drop (k + 1)
    if k < bs.length then some (bytesToNat (r.take k), r.drop k) else none

/-- A pair, one part after the other. -/
def pairC {α β : Type} (a : Codec α) (b : Codec β) : Codec (α × β) where
  put x := a.put x.1 ++ b.put x.2
  get bs := (a.get bs).bind fun x => (b.get x.2).map fun y => ((x.1, y.1), y.2)

/-- Values that another type stands for. -/
def isoC {α β : Type} (f : α → β) (g : β → α) (c : Codec α) : Codec β where
  put y := c.put (g y)
  get bs := (c.get bs).map fun x => (f x.1, x.2)

/-- `n` values read one after another. -/
def getMany {α : Type} (c : Codec α) : Nat → List Byte → Option (List α × List Byte)
  | 0, bs => some ([], bs)
  | n + 1, bs => (c.get bs).bind fun x => (getMany c n x.2).map fun y => (x.1 :: y.1, y.2)

/-- A list: its length, and its values. -/
def listC {α : Type} (c : Codec α) : Codec (List α) where
  put l := natC.put l.length ++ (l.map c.put).flatten
  get bs := (natC.get bs).bind fun n => getMany c n.1 n.2

/-- A value that may be absent, as a list of at most one. -/
def optC {α : Type} (c : Codec α) : Codec (Option α) := isoC (fun l => l.head?) (fun x => x.toList) (listC c)

/-- A bit, and a bit vector, as their numbers. -/
def boolC : Codec Bool := isoC (fun n => n == 1) (fun b => if b then 1 else 0) natC
def bvC (w : Nat) : Codec (BitVec w) := isoC (BitVec.ofNat w) (fun v => v.toNat) natC

/-- A `VState` as its number. -/
def vStateC : Codec VState :=
  isoC (fun n => match n with | 0 => .never | 1 => .live | _ => .dead)
    (fun x => match x with | .never => 0 | .live => 1 | .dead => 2) natC

/-- A `CmdState` as its number. -/
def cmdStateC : Codec CmdState :=
  isoC (fun n => match n with | 0 => .queued | 1 => .started | 2 => .completed | 3 => .faulted | _ => .cancelled)
    (fun x => match x with | .queued => 0 | .started => 1 | .completed => 2 | .faulted => 3 | .cancelled => 4) natC

/-- A `CopyState` as its number. -/
def copyStateC : Codec CopyState :=
  isoC (fun n => match n with | 0 => .issued | 1 => .started | 2 => .finished | 3 => .faulted | _ => .aborted)
    (fun x => match x with | .issued => 0 | .started => 1 | .finished => 2 | .faulted => 3 | .aborted => 4) natC

/-- A `TStatus` as its number. -/
def tStatusC : Codec TStatus :=
  isoC (fun n => match n with | 0 => .waiting | 1 => .fired | 2 => .completed | 3 => .failed | _ => .cancelled)
    (fun x => match x with | .waiting => 0 | .fired => 1 | .completed => 2 | .failed => 3 | .cancelled => 4) natC

/-- A `BodyState` as its number. -/
def bodyStateC : Codec BodyState :=
  isoC (fun n => match n with | 0 => .none | 1 => .waiting | _ => .handling)
    (fun x => match x with | .none => 0 | .waiting => 1 | .handling => 2) natC

/-- A status as four numbers. -/
def gStatusC : Codec GStatus :=
  isoC
    (fun (k, d, c, n) => match k with
      | 0 => .bound d c n
      | 1 => .ready
      | 2 => .waiting
      | 3 => .trapped
      | _ => .ended)
    (fun x => match x with
      | .bound d c n => (0, d, c, n)
      | .ready => (1, 0, 0, 0)
      | .waiting => (2, 0, 0, 0)
      | .trapped => (3, 0, 0, 0)
      | .ended => (4, 0, 0, 0))
    (pairC natC (pairC natC (pairC natC natC)))

/-- A wait as its four numbers (R369). -/
def waitC : Codec Wait :=
  isoC (fun l => waitOfValues (l.getD 0 0) (l.getD 1 0) (l.getD 2 0) (l.getD 3 0)) waitValues (listC natC)

/-- What an access does, as two numbers. -/
def accessOpC : Codec AccessOp :=
  isoC
    (fun (k, n) => match k with
      | 0 => .read
      | 1 => .write
      | _ => .atomic n)
    (fun x => match x with
      | .read => (0, 0)
      | .write => (1, 0)
      | .atomic n => (2, n))
    (pairC natC natC)

/-- A `VReg` as bytes. -/
def vRegC : Codec VReg :=
  isoC
    (fun (x0, x1) => ⟨x0, x1⟩)
    (fun x => (x.st, x.lanes)) <|
    pairC vStateC <| listC (bvC 32)

/-- A `Perm` as bytes. -/
def permC : Codec Perm :=
  isoC
    (fun (x0, x1, x2) => ⟨x0, x1, x2⟩)
    (fun x => (x.size, x.items, x.solving)) <|
    pairC natC <| pairC (listC natC) <| boolC

/-- A `LaneBlock` as bytes. -/
def laneBlockC : Codec LaneBlock :=
  isoC
    (fun (x0, x1, x2, x3, x4, x5) => ⟨x0, x1, x2, x3, x4, x5⟩)
    (fun x => (x.first, x.count, x.done, x.snap, x.pc, x.skid)) <|
    pairC natC <| pairC natC <| pairC natC <| pairC (listC (pairC natC (bvC 64))) <| pairC (bvC 64) <| natC

/-- A `AccessEntry` as bytes. -/
def accessEntryC : Codec AccessEntry :=
  isoC
    (fun (x0, x1, x2, x3, x4, x5) => ⟨x0, x1, x2, x3, x4, x5⟩)
    (fun x => (x.addr, x.lane, x.kind, x.size, x.cause, x.note)) <|
    pairC (bvC 64) <| pairC natC <| pairC natC <| pairC natC <| pairC natC <| natC

/-- A `Pending` as bytes. -/
def pendingC : Codec Pending :=
  isoC
    (fun (x0, x1, x2, x3, x4) => ⟨x0, x1, x2, x3, x4⟩)
    (fun x => (x.entries, x.further, x.keys, x.refused, x.instrs)) <|
    pairC (listC accessEntryC) <| pairC natC <| pairC (listC natC) <| pairC natC <| natC

/-- A `MatrixSet` as bytes. -/
def matrixSetC : Codec MatrixSet :=
  isoC
    (fun (x0, x1, x2, x3, x4, x5, x6, x7, x8, x9, x10, x11, x12, x13) => ⟨x0, x1, x2, x3, x4, x5, x6, x7, x8, x9, x10, x11,
    x12, x13⟩)
    (fun x => (x.typeA, x.typeB, x.baseA, x.strideA, x.baseB, x.strideB, x.grp, x.param, x.tileD, x.acc, x.tileP, x.mcFirst,
    x.mcLast, x.mcOps)) <|
    pairC natC <| pairC natC <| pairC (bvC 64) <| pairC (bvC 64) <| pairC (bvC 64) <| pairC (bvC 64) <| pairC natC <|
    pairC (bvC 64) <| pairC natC <| pairC boolC <| pairC natC <| pairC natC <| pairC natC <| natC

/-- A `CopySet` as bytes. -/
def copySetC : Codec CopySet :=
  isoC
    (fun (x0, x1, x2, x3, x4, x5, x6, x7) => ⟨x0, x1, x2, x3, x4, x5, x6, x7⟩)
    (fun x => (x.rowBytes, x.rows, x.srcStride, x.dstStride, x.doneAddr, x.doneValue, x.permMode, x.permReg)) <|
    pairC natC <| pairC natC <| pairC (bvC 64) <| pairC (bvC 64) <| pairC (bvC 64) <| pairC (bvC 64) <| pairC natC <| natC

/-- A `Command` as bytes. -/
def commandC : Codec Command :=
  isoC
    (fun (x0, x1, x2, x3, x4, x5, x6, x7) => ⟨x0, x1, x2, x3, x4, x5, x6, x7⟩)
    (fun x => (x.id, x.scale, x.set, x.preds, x.batch, x.st, x.rows, x.faults)) <|
    pairC natC <| pairC boolC <| pairC matrixSetC <| pairC (listC natC) <| pairC natC <| pairC cmdStateC <|
    pairC (listC (listC (bvC 8))) <| listC accessEntryC

/-- A `Copy` as bytes. -/
def copyC : Codec Copy :=
  isoC
    (fun (x0, x1, x2, x3, x4, x5, x6, x7, x8, x9, x10, x11, x12, x13) => ⟨x0, x1, x2, x3, x4, x5, x6, x7, x8, x9, x10, x11,
    x12, x13⟩)
    (fun x => (x.num, x.batch, x.set, x.perm, x.src, x.dst, x.fill, x.die, x.core, x.own, x.st, x.bytes, x.word, x.fault)) <|
    pairC natC <| pairC natC <| pairC copySetC <| pairC permC <| pairC (bvC 64) <| pairC (bvC 64) <| pairC (optC (bvC 64)) <|
    pairC natC <| pairC natC <| pairC boolC <| pairC copyStateC <| pairC natC <| pairC boolC <| optC accessEntryC

/-- A `CopyTrace` as bytes. -/
def copyTraceC : Codec CopyTrace :=
  isoC
    (fun (x0, x1, x2, x3, x4) => ⟨x0, x1, x2, x3, x4⟩)
    (fun x => (x.num, x.batch, x.cohort, x.off, x.old)) <|
    pairC natC <| pairC natC <| pairC natC <| pairC natC <| bvC 8

/-- A `PeerAccess` as bytes. -/
def peerAccessC : Codec PeerAccess :=
  isoC
    (fun (x0, x1, x2, x3, x4, x5, x6, x7, x8, x9, x10, x11, x12, x13, x14, x15) => ⟨x0, x1, x2, x3, x4, x5, x6, x7, x8, x9,
    x10, x11, x12, x13, x14, x15⟩)
    (fun x => (x.ticket, x.pos, x.pkg, x.addr, x.size, x.op, x.data, x.comparand, x.stamp, x.release, x.cover, x.copy, x.entry,
    x.reply, x.instr, x.redone)) <|
    pairC natC <| pairC natC <| pairC natC <| pairC natC <| pairC natC <| pairC accessOpC <| pairC (listC (bvC 8)) <|
    pairC (listC (bvC 8)) <| pairC natC <| pairC (optC natC) <| pairC (listC natC) <| pairC natC <| pairC accessEntryC <|
    pairC (optC (pairC boolC (listC (bvC 8)))) <| pairC (bvC 64) <| boolC

/-- A `Watch` as bytes. -/
def watchC : Codec Watch :=
  isoC
    (fun (x0, x1, x2, x3, x4) => ⟨x0, x1, x2, x3, x4⟩)
    (fun x => (x.index, x.kind, x.va, x.place, x.len)) <|
    pairC natC <| pairC natC <| pairC (bvC 64) <| pairC natC <| natC

/-- A `Region` as bytes. -/
def regionC : Codec Region :=
  isoC
    (fun (x0, x1, x2, x3, x4, x5, x6, x7, x8, x9, x10, x11, x12, x13, x14, x15, x16, x17, x18, x19, x20, x21, x22, x23, x24,
    x25, x26, x27) => ⟨x0, x1, x2, x3, x4, x5, x6, x7, x8, x9, x10, x11, x12, x13, x14, x15, x16, x17, x18, x19, x20, x21, x22,
    x23, x24, x25, x26, x27⟩)
    (fun x => (x.part, x.id, x.addr, x.parent, x.flags, x.prio, x.opDefault, x.dieMask, x.slotCap, x.parkCap, x.scratchCap,
    x.tileCap, x.handler, x.bodyBuf, x.counterArea, x.consent, x.counterPlace, x.active, x.activations, x.counters, x.slots,
    x.parked, x.scratch, x.tiles, x.mismatchSent, x.authWritten, x.watch, x.demand)) <|
    pairC natC <| pairC natC <| pairC (bvC 64) <| pairC (optC natC) <| pairC natC <| pairC natC <| pairC natC <| pairC natC <|
    pairC natC <| pairC natC <| pairC natC <| pairC natC <| pairC (bvC 64) <| pairC (bvC 64) <| pairC (bvC 64) <|
    pairC (bvC 64) <| pairC natC <| pairC boolC <| pairC natC <| pairC (listC (pairC natC (bvC 64))) <| pairC natC <|
    pairC natC <| pairC natC <| pairC natC <| pairC boolC <| pairC boolC <| pairC (listC watchC) <| listC (pairC natC (bvC 32))

/-- A `Latch` as bytes. -/
def latchC : Codec Latch :=
  isoC
    (fun (x0, x1) => ⟨x0, x1⟩)
    (fun x => (x.record, x.regions)) <|
    pairC (listC (bvC 8)) <| listC regionC

/-- A `Group` as bytes. -/
def groupC : Codec Group :=
  isoC
    (fun (x0, x1, x2, x3, x4, x5, x6, x7, x8, x9, x10, x11, x12, x13, x14, x15, x16, x17, x18, x19, x20, x21, x22, x23, x24,
    x25, x26, x27, x28, x29, x30, x31, x32, x33, x34, x35, x36, x37, x38, x39, x40, x41, x42, x43, x44, x45, x46, x47, x48,
    x49, x50, x51, x52, x53, x54, x55, x56, x57, x58, x59, x60, x61) => ⟨x0, x1, x2, x3, x4, x5, x6, x7, x8, x9, x10, x11, x12,
    x13, x14, x15, x16, x17, x18, x19, x20, x21, x22, x23, x24, x25, x26, x27, x28, x29, x30, x31, x32, x33, x34, x35, x36,
    x37, x38, x39, x40, x41, x42, x43, x44, x45, x46, x47, x48, x49, x50, x51, x52, x53, x54, x55, x56, x57, x58, x59, x60,
    x61⟩)
    (fun x => (x.gid, x.part, x.auth, x.task, x.region, x.index, x.ix, x.iy, x.iz, x.lanes, x.vcount, x.tcount, x.die,
    x.cohort, x.status, x.level, x.quantum, x.bindSeq, x.boundAt, x.readySeq, x.wait, x.image, x.saved, x.pc, x.scalars,
    x.mode, x.seed, x.pinned, x.retiredS, x.retiredL, x.stamp, x.live, x.queue, x.vregs, x.perms, x.tiles, x.pend, x.mset,
    x.cset, x.cmds, x.nextCmd, x.cmdBatch, x.copies, x.nextCopy, x.copyBatch, x.prov, x.chooseS, x.chooseM, x.chooseX, x.body,
    x.bodyState, x.ordinal, x.serves, x.peers, x.stores, x.seen, x.fenced, x.dirty, x.rotating, x.wraps, x.latch, x.traces)) <|
    pairC natC <| pairC natC <| pairC natC <| pairC natC <| pairC natC <| pairC natC <| pairC natC <| pairC natC <|
    pairC natC <| pairC natC <| pairC natC <| pairC natC <| pairC natC <| pairC natC <| pairC gStatusC <| pairC natC <|
    pairC natC <| pairC natC <| pairC natC <| pairC natC <| pairC waitC <| pairC (optC natC) <| pairC boolC <|
    pairC (bvC 64) <| pairC (listC (pairC natC (bvC 64))) <| pairC (bvC 64) <| pairC (bvC 64) <| pairC (bvC 64) <|
    pairC (bvC 64) <| pairC (bvC 64) <| pairC natC <| pairC (bvC 96) <| pairC (listC laneBlockC) <| pairC (listC vRegC) <|
    pairC (listC permC) <| pairC (listC (listC (pairC natC (bvC 32)))) <| pairC pendingC <| pairC matrixSetC <|
    pairC copySetC <| pairC (listC commandC) <| pairC natC <| pairC natC <| pairC (listC copyC) <| pairC natC <| pairC natC <|
    pairC (listC (pairC natC (bvC 64))) <| pairC natC <| pairC natC <| pairC natC <| pairC (listC (bvC 8)) <|
    pairC bodyStateC <| pairC natC <| pairC (optC natC) <| pairC (listC peerAccessC) <| pairC (listC (pairC natC natC)) <|
    pairC natC <| pairC boolC <| pairC (bvC 128) <| pairC boolC <| pairC natC <| pairC (optC latchC) <| listC copyTraceC

/-- A `Cohort` as bytes. -/
def cohortC : Codec Cohort :=
  isoC
    (fun (x0, x1, x2, x3, x4, x5, x6, x7, x8) => ⟨x0, x1, x2, x3, x4, x5, x6, x7, x8⟩)
    (fun x => (x.id, x.part, x.task, x.die, x.size, x.frames, x.bytes, x.barCount, x.barArrived)) <|
    pairC natC <| pairC natC <| pairC natC <| pairC natC <| pairC natC <| pairC (listC natC) <|
    pairC (listC (pairC natC (bvC 8))) <| pairC (listC (pairC natC (bvC 64))) <| listC (pairC natC natC)

/-- A `Offer` as bytes. -/
def offerC : Codec Offer :=
  isoC
    (fun (x0, x1, x2, x3, x4, x5, x6, x7, x8) => ⟨x0, x1, x2, x3, x4, x5, x6, x7, x8⟩)
    (fun x => (x.ticket, x.part, x.record, x.fn, x.queue, x.head, x.status, x.hold, x.latch)) <|
    pairC natC <| pairC natC <| pairC (bvC 64) <| pairC natC <| pairC natC <| pairC natC <| pairC natC <| pairC boolC <|
    optC latchC

/-- A `Task` as bytes. -/
def taskC : Codec Task :=
  isoC
    (fun (x0, x1, x2, x3, x4, x5, x6, x7, x8, x9, x10, x11, x12, x13, x14, x15, x16, x17, x18, x19, x20, x21, x22, x23, x24,
    x25, x26, x27, x28, x29, x30, x31, x32, x33) => ⟨x0, x1, x2, x3, x4, x5, x6, x7, x8, x9, x10, x11, x12, x13, x14, x15, x16,
    x17, x18, x19, x20, x21, x22, x23, x24, x25, x26, x27, x28, x29, x30, x31, x32, x33⟩)
    (fun x => (x.part, x.handle, x.region, x.entry, x.laneBase, x.gx, x.gy, x.gz, x.lanes, x.vcount, x.tcount, x.restartable,
    x.dieMask, x.hint, x.prio, x.scratch, x.ranges, x.doneAddr, x.doneValue, x.arg, x.preds, x.status, x.firing, x.fireSeq,
    x.next, x.redo, x.ended, x.faulted, x.held, x.handler, x.serves, x.onDies, x.floors, x.spans)) <|
    pairC natC <| pairC natC <| pairC natC <| pairC (bvC 64) <| pairC (bvC 64) <| pairC natC <| pairC natC <| pairC natC <|
    pairC natC <| pairC natC <| pairC natC <| pairC boolC <| pairC natC <| pairC natC <| pairC natC <| pairC natC <|
    pairC (listC (pairC natC natC)) <| pairC (bvC 64) <| pairC (bvC 64) <| pairC (bvC 64) <| pairC (listC natC) <|
    pairC tStatusC <| pairC natC <| pairC natC <| pairC natC <| pairC (listC (pairC natC natC)) <| pairC (listC natC) <|
    pairC boolC <| pairC (optC offerC) <| pairC boolC <| pairC natC <| pairC (listC natC) <| pairC (listC natC) <|
    listC (pairC natC (pairC natC natC))

/-- A `ParkEntry` as bytes. -/
def parkEntryC : Codec ParkEntry :=
  isoC
    (fun (x0, x1, x2, x3) => ⟨x0, x1, x2, x3⟩)
    (fun x => (x.handle, x.part, x.region, x.tiles)) <|
    pairC natC <| pairC natC <| pairC natC <| listC (listC (pairC natC (bvC 32)))

/-- A `VQueue` as bytes. -/
def vQueueC : Codec VQueue :=
  isoC
    (fun (x0, x1, x2, x3, x4, x5, x6, x7, x8, x9, x10, x11, x12, x13, x14) => ⟨x0, x1, x2, x3, x4, x5, x6, x7, x8, x9, x10,
    x11, x12, x13, x14⟩)
    (fun x => (x.index, x.size, x.vector, x.enabled, x.broken, x.desc, x.driver, x.device, x.descAt, x.driverAt, x.deviceAt,
    x.lastAvail, x.usedIdx, x.signalled, x.stopped)) <|
    pairC natC <| pairC natC <| pairC natC <| pairC boolC <| pairC boolC <| pairC natC <| pairC natC <| pairC natC <|
    pairC (listC (optC natC)) <| pairC (listC (optC natC)) <| pairC (listC (optC natC)) <| pairC natC <| pairC natC <|
    pairC natC <| boolC

/-- A `LaunchFn` as bytes. -/
def launchFnC : Codec LaunchFn :=
  isoC
    (fun (x0, x1, x2, x3, x4, x5, x6, x7, x8, x9, x10, x11, x12, x13, x14) => ⟨x0, x1, x2, x3, x4, x5, x6, x7, x8, x9, x10,
    x11, x12, x13, x14⟩)
    (fun x => (x.fn, x.part, x.status, x.select, x.devSelect, x.drvSelect, x.features, x.configVector, x.isr, x.errQueue,
    x.errCause, x.errValue, x.errSeen, x.unsupported, x.queues)) <|
    pairC natC <| pairC natC <| pairC natC <| pairC natC <| pairC natC <| pairC natC <| pairC natC <| pairC natC <|
    pairC natC <| pairC natC <| pairC natC <| pairC natC <| pairC boolC <| pairC natC <| listC vQueueC

/-- A `Ring` as bytes. -/
def ringC : Codec Ring :=
  isoC
    (fun (x0, x1, x2, x3, x4) => ⟨x0, x1, x2, x3, x4⟩)
    (fun x => (x.base, x.entries, x.produced, x.lost, x.gap)) <|
    pairC natC <| pairC natC <| pairC natC <| pairC natC <| boolC

/-- A `Replica` as bytes. -/
def replicaC : Codec Replica :=
  isoC
    (fun (x0, x1, x2) => ⟨x0, x1, x2⟩)
    (fun x => (x.base, x.pages, x.die)) <|
    pairC natC <| pairC natC <| natC

/-- A `ArenaUse` as bytes. -/
def arenaUseC : Codec ArenaUse :=
  isoC
    (fun (x0, x1, x2) => ⟨x0, x1, x2⟩)
    (fun x => (x.die, x.base, x.len)) <|
    pairC natC <| pairC natC <| natC

/-- A `Switch` as bytes. -/
def switchC : Codec Switch :=
  isoC
    (fun (x0, x1, x2, x3, x4, x5, x6) => ⟨x0, x1, x2, x3, x4, x5, x6⟩)
    (fun x => (x.step, x.records, x.taken, x.gained, x.retired, x.failed, x.notices)) <|
    pairC natC <| pairC (listC (listC replicaC)) <| pairC (listC arenaUseC) <| pairC (listC (pairC natC replicaC)) <|
    pairC (listC (pairC natC replicaC)) <| pairC (listC natC) <| listC natC

/-- A `Forward` as bytes. -/
def forwardC : Codec Forward :=
  isoC
    (fun (x0, x1, x2, x3) => ⟨x0, x1, x2, x3⟩)
    (fun x => (x.expert, x.replica, x.version, x.next)) <|
    pairC natC <| pairC replicaC <| pairC natC <| natC

/-- A `Grad` as bytes. -/
def gradC : Codec Grad :=
  isoC
    (fun (x0, x1, x2, x3, x4, x5, x6, x7, x8) => ⟨x0, x1, x2, x3, x4, x5, x6, x7, x8⟩)
    (fun x => (x.region, x.version, x.expert, x.replica, x.addr, x.count, x.dest, x.word, x.value)) <|
    pairC natC <| pairC natC <| pairC natC <| pairC natC <| pairC natC <| pairC natC <| pairC natC <| pairC natC <| bvC 64

/-- A `Table` as bytes. -/
def tableC : Codec Table :=
  isoC
    (fun (x0, x1, x2, x3, x4, x5, x6, x7, x8, x9, x10, x11, x12, x13, x14, x15, x16) => ⟨x0, x1, x2, x3, x4, x5, x6, x7, x8,
    x9, x10, x11, x12, x13, x14, x15, x16⟩)
    (fun x => (x.part, x.area, x.pages, x.experts, x.rowBytes, x.slots, x.arenas, x.version, x.versions, x.dieVersion, x.heat,
    x.lastHeat, x.uses, x.switch, x.forwards, x.grads, x.submitted)) <|
    pairC natC <| pairC natC <| pairC (listC natC) <| pairC natC <| pairC natC <| pairC natC <|
    pairC (listC (pairC natC natC)) <| pairC natC <| pairC (listC (pairC natC (listC (listC replicaC)))) <|
    pairC (listC (pairC natC (bvC 32))) <| pairC (listC (pairC natC (bvC 32))) <| pairC (listC (pairC natC (bvC 32))) <|
    pairC (listC arenaUseC) <| pairC (optC switchC) <| pairC (listC forwardC) <| pairC (listC gradC) <|
    listC (pairC natC (pairC natC natC))

/-- A `LooseBody` as bytes. -/
def looseBodyC : Codec LooseBody :=
  isoC
    (fun (x0, x1, x2, x3, x4) => ⟨x0, x1, x2, x3, x4⟩)
    (fun x => (x.part, x.region, x.ordinal, x.bytes, x.fires)) <|
    pairC natC <| pairC natC <| pairC natC <| pairC (listC (bvC 8)) <| boolC

end Sys2Proof.Machine
end

