-- ==== Sys2Proof/Machine/Crypto.lean ====
section
/-! DEFINITION. The cryptographic functions that the spec names: SM3, HMAC-SM3 and the key derivation function of GB/T 32918 (R24,
R27), SM4 in XTS mode (R28), and the SM2 signatures and public-key encryption (R36, R41, R42, R413, R416). What they compute is
PRESUMED from the public standards GB/T 32905, 32907, 32918 and IEEE 1619 (entry 5). -/

namespace Sys2Proof.Machine

/-! ### Bytes -/

/-- A number as `n` bytes, the highest first. -/
def natToBE (n v : Nat) : List Byte := (natToBytes n v).reverse

/-- The number that some bytes give, the highest first. -/
def beToNat (bs : List Byte) : Nat := bytesToNat bs.reverse

/-- The bytewise exclusive or of two lists. -/
def xorBytes (a b : List Byte) : List Byte := List.zipWith (fun x y => x ^^^ y) a b

/-- The character codes of an ASCII text. -/
def ascii (t : String) : List Byte := t.toList.map fun c => BitVec.ofNat 8 c.toNat

/-- A 256-bit value as it lies in memory, byte 0 first. -/
def digestBytes (d : BitVec 256) : List Byte := natToBytes 32 d.toNat

/-- 32 bytes as they lie in memory, kept as one value. -/
def digestOf (bs : List Byte) : BitVec 256 := BitVec.ofNat 256 (bytesToNat bs)

/-! ### SM3 -/

/-- The eight words of an SM3 state. -/
structure Sm3 where
  a : Word32
  b : Word32
  c : Word32
  d : Word32
  e : Word32
  f : Word32
  g : Word32
  h : Word32
  deriving DecidableEq, Repr

/-- The SM3 state before the first block. -/
def Sm3.start : Sm3 :=
  ⟨0x7380166F, 0x4914B2B9, 0x172442D7, 0xDA8A0600, 0xA96F30BC, 0x163138AA, 0xE38DEE4D, 0xB0FB0E4E⟩

/-- The permutations of SM3. -/
def sm3P0 (x : Word32) : Word32 := x ^^^ x.rotateLeft 9 ^^^ x.rotateLeft 17
def sm3P1 (x : Word32) : Word32 := x ^^^ x.rotateLeft 15 ^^^ x.rotateLeft 23

/-- The expanded words of a block, the latest first, `n` more of them. -/
def sm3Expand : Nat → List Word32 → List Word32
  | 0, w => w
  | n + 1, w =>
    let at_ (k : Nat) : Word32 := w.getD (k - 1) 0
    sm3Expand n
      ((sm3P1 (at_ 16 ^^^ at_ 9 ^^^ (at_ 3).rotateLeft 15) ^^^ (at_ 13).rotateLeft 7 ^^^ at_ 6) :: w)

/-- One round of SM3, of number `j`, with its two expanded words. -/
def sm3Round (j : Nat) (x : Sm3) (w w4 : Word32) : Sm3 :=
  let t : Word32 := if j < 16 then 0x79CC4519 else 0x7A879D8A
  let s := (x.a.rotateLeft 12 + x.e + t.rotateLeft (j % 32)).rotateLeft 7
  let ff := if j < 16 then x.a ^^^ x.b ^^^ x.c else (x.a &&& x.b) ||| (x.a &&& x.c) ||| (x.b &&& x.c)
  let gg := if j < 16 then x.e ^^^ x.f ^^^ x.g else (x.e &&& x.f) ||| (~~~x.e &&& x.g)
  let t1 := ff + x.d + (s ^^^ x.a.rotateLeft 12) + (w ^^^ w4)
  let t2 := gg + x.h + s + w
  ⟨t1, x.a, x.b.rotateLeft 9, x.c, sm3P0 t2, x.e, x.f.rotateLeft 19, x.g⟩

/-- The rounds from `j` on, over the expanded words in order. -/
def sm3Rounds : Nat → Nat → Sm3 → List Word32 → Sm3
  | 0, _, x, _ => x
  | n + 1, j, x, ws => sm3Rounds n (j + 1) (sm3Round j x (ws.headD 0) (ws.getD 4 0)) ws.tail

/-- The 16 big-endian words of a block. -/
def sm3Words (block : List Byte) : List Word32 :=
  (List.range 16).map fun i => BitVec.ofNat 32 (beToNat ((block.drop (4 * i)).take 4))

/-- A block taken into an SM3 state. -/
def sm3Block (x : Sm3) (block : List Byte) : Sm3 :=
  let y := sm3Rounds 64 0 x (sm3Expand 52 (sm3Words block).reverse).reverse
  ⟨x.a ^^^ y.a, x.b ^^^ y.b, x.c ^^^ y.c, x.d ^^^ y.d, x.e ^^^ y.e, x.f ^^^ y.f, x.g ^^^ y.g, x.h ^^^ y.h⟩

/-- `n` blocks taken into an SM3 state. -/
def sm3Blocks : Nat → Sm3 → List Byte → Sm3
  | 0, x, _ => x
  | n + 1, x, bs => sm3Blocks n (sm3Block x (bs.take 64)) (bs.drop 64)

/-- The message with its padding and its length in bits. -/
def sm3Pad (bs : List Byte) : List Byte :=
  bs ++ 0x80#8 :: List.replicate ((119 - bs.length % 64) % 64) 0#8 ++ natToBE 8 (8 * bs.length)

/-- The SM3 digest of some bytes, 32 bytes. -/
def sm3 (bs : List Byte) : List Byte :=
  let m := sm3Pad bs
  let x := sm3Blocks (m.length / 64) Sm3.start m
  ([x.a, x.b, x.c, x.d, x.e, x.f, x.g, x.h].map fun w => natToBE 4 w.toNat).flatten

/-- The HMAC-SM3 of some bytes under a key of at most 64 bytes. -/
def hmacSm3 (key bs : List Byte) : List Byte :=
  let k := key ++ List.replicate (64 - key.length) 0#8
  sm3 (xorBytes k (List.replicate 64 0x5C#8) ++ sm3 (xorBytes k (List.replicate 64 0x36#8) ++ bs))

/-- The key derivation function of GB/T 32918 with SM3: `n` bytes derived from some bytes. -/
def kdf (z : List Byte) (n : Nat) : List Byte :=
  (((List.range (divUp n 32)).map fun i => sm3 (z ++ natToBE 4 (i + 1))).flatten).take n

/-- The 128-bit key that a label derives from a partition secret (R27). That the label follows the secret is PRESUMED (entry 5). -/
def partitionKey (secret : BitVec 256) (label : String) : List Byte := kdf (digestBytes secret ++ ascii label) 16

/-! ### SM4 -/

/-- The substitution table of SM4. -/
def sm4Box0 : List Nat :=
  [0xD6, 0x90, 0xE9, 0xFE, 0xCC, 0xE1, 0x3D, 0xB7, 0x16, 0xB6, 0x14, 0xC2, 0x28, 0xFB, 0x2C, 0x05,
   0x2B, 0x67, 0x9A, 0x76, 0x2A, 0xBE, 0x04, 0xC3, 0xAA, 0x44, 0x13, 0x26, 0x49, 0x86, 0x06, 0x99,
   0x9C, 0x42, 0x50, 0xF4, 0x91, 0xEF, 0x98, 0x7A, 0x33, 0x54, 0x0B, 0x43, 0xED, 0xCF, 0xAC, 0x62,
   0xE4, 0xB3, 0x1C, 0xA9, 0xC9, 0x08, 0xE8, 0x95, 0x80, 0xDF, 0x94, 0xFA, 0x75, 0x8F, 0x3F, 0xA6]
def sm4Box1 : List Nat :=
  [0x47, 0x07, 0xA7, 0xFC, 0xF3, 0x73, 0x17, 0xBA, 0x83, 0x59, 0x3C, 0x19, 0xE6, 0x85, 0x4F, 0xA8,
   0x68, 0x6B, 0x81, 0xB2, 0x71, 0x64, 0xDA, 0x8B, 0xF8, 0xEB, 0x0F, 0x4B, 0x70, 0x56, 0x9D, 0x35,
   0x1E, 0x24, 0x0E, 0x5E, 0x63, 0x58, 0xD1, 0xA2, 0x25, 0x22, 0x7C, 0x3B, 0x01, 0x21, 0x78, 0x87,
   0xD4, 0x00, 0x46, 0x57, 0x9F, 0xD3, 0x27, 0x52, 0x4C, 0x36, 0x02, 0xE7, 0xA0, 0xC4, 0xC8, 0x9E]
def sm4Box2 : List Nat :=
  [0xEA, 0xBF, 0x8A, 0xD2, 0x40, 0xC7, 0x38, 0xB5, 0xA3, 0xF7, 0xF2, 0xCE, 0xF9, 0x61, 0x15, 0xA1,
   0xE0, 0xAE, 0x5D, 0xA4, 0x9B, 0x34, 0x1A, 0x55, 0xAD, 0x93, 0x32, 0x30, 0xF5, 0x8C, 0xB1, 0xE3,
   0x1D, 0xF6, 0xE2, 0x2E, 0x82, 0x66, 0xCA, 0x60, 0xC0, 0x29, 0x23, 0xAB, 0x0D, 0x53, 0x4E, 0x6F,
   0xD5, 0xDB, 0x37, 0x45, 0xDE, 0xFD, 0x8E, 0x2F, 0x03, 0xFF, 0x6A, 0x72, 0x6D, 0x6C, 0x5B, 0x51]
def sm4Box3 : List Nat :=
  [0x8D, 0x1B, 0xAF, 0x92, 0xBB, 0xDD, 0xBC, 0x7F, 0x11, 0xD9, 0x5C, 0x41, 0x1F, 0x10, 0x5A, 0xD8,
   0x0A, 0xC1, 0x31, 0x88, 0xA5, 0xCD, 0x7B, 0xBD, 0x2D, 0x74, 0xD0, 0x12, 0xB8, 0xE5, 0xB4, 0xB0,
   0x89, 0x69, 0x97, 0x4A, 0x0C, 0x96, 0x77, 0x7E, 0x65, 0xB9, 0xF1, 0x09, 0xC5, 0x6E, 0xC6, 0x84,
   0x18, 0xF0, 0x7D, 0xEC, 0x3A, 0xDC, 0x4D, 0x20, 0x79, 0xEE, 0x5F, 0x3E, 0xD7, 0xCB, 0x39, 0x48]
def sm4Box : List Nat := sm4Box0 ++ sm4Box1 ++ sm4Box2 ++ sm4Box3

/-- The substitution of SM4 on each byte of a word. -/
def sm4Tau (x : Word32) : Word32 :=
  BitVec.ofNat 32 ((List.range 4).foldl (fun n i => n + sm4Box.getD (bits x.toNat (8 * i) 8) 0 * 2 ^ (8 * i)) 0)

/-- The mixing functions of the cipher and of its key schedule. -/
def sm4T (x : Word32) : Word32 :=
  let b := sm4Tau x
  b ^^^ b.rotateLeft 2 ^^^ b.rotateLeft 10 ^^^ b.rotateLeft 18 ^^^ b.rotateLeft 24
def sm4TKey (x : Word32) : Word32 :=
  let b := sm4Tau x
  b ^^^ b.rotateLeft 13 ^^^ b.rotateLeft 23

/-- Four words of an SM4 block or key. -/
structure Sm4 where
  a : Word32
  b : Word32
  c : Word32
  d : Word32
  deriving DecidableEq, Repr

/-- The words of 16 bytes. -/
def Sm4.ofBytes (bs : List Byte) : Sm4 :=
  let w (i : Nat) : Word32 := BitVec.ofNat 32 (beToNat ((bs.drop (4 * i)).take 4))
  ⟨w 0, w 1, w 2, w 3⟩

/-- The constant of key schedule round `i`. -/
def sm4Ck (i : Nat) : Word32 := BitVec.ofNat 32 ((List.range 4).foldl (fun n j => n * 256 + (4 * i + j) * 7 % 256) 0)

/-- The round keys from round `i` on, `n` of them. -/
def sm4Keys : Nat → Nat → Sm4 → List Word32
  | 0, _, _ => []
  | n + 1, i, k =>
    let x := k.a ^^^ sm4TKey (k.b ^^^ k.c ^^^ k.d ^^^ sm4Ck i)
    x :: sm4Keys n (i + 1) ⟨k.b, k.c, k.d, x⟩

/-- The 32 round keys of a key of 16 bytes. -/
def sm4Schedule (key : List Byte) : List Word32 :=
  let k := Sm4.ofBytes key
  sm4Keys 32 0 ⟨k.a ^^^ 0xA3B1BAC6, k.b ^^^ 0x56AA3350, k.c ^^^ 0x677D9197, k.d ^^^ 0xB27022DC⟩

/-- The rounds of SM4 over a block. -/
def sm4Rounds : List Word32 → Sm4 → Sm4
  | [], x => x
  | k :: ks, x => sm4Rounds ks ⟨x.b, x.c, x.d, x.a ^^^ sm4T (x.b ^^^ x.c ^^^ x.d ^^^ k)⟩

/-- A block of 16 bytes encrypted under round keys, or decrypted under the same keys reversed. -/
def sm4Block (keys : List Word32) (block : List Byte) : List Byte :=
  let x := sm4Rounds keys (Sm4.ofBytes block)
  ([x.d, x.c, x.b, x.a].map fun w => natToBE 4 w.toNat).flatten

/-- The product of a tweak with the generator, in the little-endian field of XTS. -/
def xtsNext (t : Nat) : Nat := (2 * t % 2 ^ 128) ^^^ (if t / 2 ^ 127 % 2 == 1 then 0x87 else 0)

/-- `n` blocks of a data unit, each masked with its tweak before and after `f`. -/
def xtsBlocks (f : List Byte → List Byte) : Nat → Nat → List Byte → List Byte
  | 0, _, _ => []
  | n + 1, t, bs =>
    let m := natToBytes 16 t
    xorBytes (f (xorBytes (bs.take 16) m)) m ++ xtsBlocks f n (xtsNext t) (bs.drop 16)

/-- A data unit of whole blocks in XTS mode, under the round keys for its blocks and those for the tweak. -/
def xtsUnit (keys tweakKeys : List Word32) (tweak : BitVec 128) (bs : List Byte) : List Byte :=
  xtsBlocks (sm4Block keys) (bs.length / 16) (bytesToNat (sm4Block tweakKeys (natToBytes 16 tweak.toNat))) bs

/-- A unit of a payload encrypted under the keys that a partition secret derives (R27, R28). -/
def sealUnit (secret : BitVec 256) (tweak : BitVec 128) (bs : List Byte) : List Byte :=
  xtsUnit (sm4Schedule (partitionKey secret "DATA")) (sm4Schedule (partitionKey secret "TWEAK")) tweak bs

/-- A unit of a payload decrypted (R27, R28). -/
def openUnit (secret : BitVec 256) (tweak : BitVec 128) (bs : List Byte) : List Byte :=
  xtsUnit (sm4Schedule (partitionKey secret "DATA")).reverse (sm4Schedule (partitionKey secret "TWEAK")) tweak bs

/-- The HMAC-SM3 of some bytes under the MAC key that a partition secret derives (R27, R28). -/
def objectMac (secret : BitVec 256) (bs : List Byte) : List Byte := hmacSm3 (partitionKey secret "MAC") bs

/-! ### SM2 -/

/-- The prime, the coefficients, the order and the generator of the SM2 curve. -/
def sm2P : Nat := 0xFFFFFFFEFFFFFFFFFFFFFFFFFFFFFFFFFFFFFFFF00000000FFFFFFFFFFFFFFFF
def sm2A : Nat := 0xFFFFFFFEFFFFFFFFFFFFFFFFFFFFFFFFFFFFFFFF00000000FFFFFFFFFFFFFFFC
def sm2B : Nat := 0x28E9FA9E9D9F5E344D5A9E4BCF6509A7F39789F515AB8F92DDBCBD414D940E93
def sm2N : Nat := 0xFFFFFFFEFFFFFFFFFFFFFFFFFFFFFFFF7203DF6B21C6052B53BBF40939D54123
def sm2Gx : Nat := 0x32C4AE2C1F1981195F9904466A39C9948FE30BBFF2660BE1715A4589334C74C7
def sm2Gy : Nat := 0xBC3736A2F4F6779C59BDCEE36B692153D0A9877CC62A474002DF32E52139F0A0

/-- A point of the curve; none is the point at infinity. -/
abbrev Sm2Point := Option (Nat × Nat)

/-- A power modulo `m`, for an exponent of at most `n` bits. -/
def powMod (m : Nat) : Nat → Nat → Nat → Nat
  | 0, _, _ => 1
  | n + 1, b, e =>
    let r := powMod m n (b * b % m) (e / 2)
    if e % 2 == 1 then b * r % m else r

/-- The inverse modulo a prime of 256 bits. -/
def invMod (m x : Nat) : Nat := powMod m 256 (x % m) (m - 2)

/-- The third point on the line of slope `l` through two points, negated. -/
def sm2Third (l x1 y1 x2 : Nat) : Sm2Point :=
  let x3 := (l * l + 2 * sm2P - x1 - x2) % sm2P
  some (x3, (l * (x1 + sm2P - x3) + sm2P - y1) % sm2P)

/-- The sum of two points. -/
def sm2Add (p q : Sm2Point) : Sm2Point :=
  match p, q with
  | none, q => q
  | p, none => p
  | some (x1, y1), some (x2, y2) =>
    if x1 == x2 then
      (if (y1 + y2) % sm2P == 0 then none
       else sm2Third ((3 * x1 * x1 + sm2A) * invMod sm2P (2 * y1) % sm2P) x1 y1 x2)
    else sm2Third ((y2 + sm2P - y1) * invMod sm2P (x2 + sm2P - x1) % sm2P) x1 y1 x2

/-- The multiple of a point by a number of at most `n` bits. -/
def sm2Mul : Nat → Nat → Sm2Point → Sm2Point
  | 0, _, _ => none
  | n + 1, k, p =>
    let r := sm2Mul n (k / 2) (sm2Add p p)
    if k % 2 == 1 then sm2Add p r else r

/-- A multiple of the generator. -/
def sm2Base (k : Nat) : Sm2Point := sm2Mul 256 k (some (sm2Gx, sm2Gy))

/-- The 64 bytes of a point, its coordinates with the highest byte first; the point at infinity has none. -/
def sm2Bytes (p : Sm2Point) : List Byte :=
  match p with
  | some (x, y) => natToBE 32 x ++ natToBE 32 y
  | none => []

/-- The point that 64 bytes give, if it lies on the curve. -/
def sm2Point? (bs : List Byte) : Sm2Point :=
  let x := beToNat (bs.take 32)
  let y := beToNat ((bs.drop 32).take 32)
  if bs.length == 64 && decide (x < sm2P) && decide (y < sm2P) && y * y % sm2P == (x * x * x + sm2A * x + sm2B) % sm2P then some (x, y)
  else none

/-- The number that a signer signs: the digest of its identity and key, and of the message. -/
def sm2Hash (signer : String) (key msg : List Byte) : Nat :=
  let id := ascii signer
  let z := sm3 (natToBE 2 (8 * id.length) ++ id ++ natToBE 32 sm2A ++ natToBE 32 sm2B ++ natToBE 32 sm2Gx ++ natToBE 32 sm2Gy ++ key)
  beToNat (sm3 (z ++ msg))

/-- A 64-byte SM2 signature over some bytes verifies under a public key with a signer ID (R36, R41, R413, R416). -/
def sm2Verify (signer : String) (key msg sig : List Byte) : Bool :=
  let r := beToNat (sig.take 32)
  let s := beToNat ((sig.drop 32).take 32)
  let t := (r + s) % sm2N
  match sm2Point? key with
  | none => false
  | some p =>
    sig.length == 64 && r != 0 && s != 0 && decide (r < sm2N) && decide (s < sm2N) && t != 0 &&
      (match sm2Add (sm2Base s) (sm2Mul 256 t (some p)) with
       | none => false
       | some (x, _) => (sm2Hash signer key msg + x) % sm2N == r)

/-- The public key of a private one, 64 bytes. -/
def sm2Public (d : Nat) : List Byte := sm2Bytes (sm2Base d)

/-- The signature over some bytes with a private key and the random number `k`. -/
def sm2Sign (signer : String) (d k : Nat) (msg : List Byte) : List Byte :=
  match sm2Base k with
  | none => []
  | some (x, _) =>
    let r := (sm2Hash signer (sm2Public d) msg + x) % sm2N
    let s := invMod sm2N (1 + d) * (k + sm2N - r * d % sm2N) % sm2N
    natToBE 32 r ++ natToBE 32 s

/-- Some bytes encrypted to a public key with the random number `k`: the point, the digest, the masked bytes (R42). -/
def sm2Encrypt (key : List Byte) (k : Nat) (plain : List Byte) : List Byte :=
  match sm2Point? key with
  | none => []
  | some p =>
    match sm2Mul 256 k (some p) with
    | none => []
    | some (x, y) =>
      let x2 := natToBE 32 x
      let y2 := natToBE 32 y
      0x04#8 :: sm2Bytes (sm2Base k) ++ sm3 (x2 ++ plain ++ y2) ++ xorBytes plain (kdf (x2 ++ y2) plain.length)

/-- `n` bytes decrypted with a private key; none where the point is not on the curve or the digest differs (R42). -/
def sm2Decrypt (d n : Nat) (bs : List Byte) : Option (List Byte) :=
  if bs.headD 0 != 0x04#8 then none
  else
    match sm2Point? ((bs.drop 1).take 64) with
    | none => none
    | some p =>
      match sm2Mul 256 d (some p) with
      | none => none
      | some (x, y) =>
        let x2 := natToBE 32 x
        let y2 := natToBE 32 y
        let plain := xorBytes ((bs.drop 97).take n) (kdf (x2 ++ y2) n)
        if plain.length == n && sm3 (x2 ++ plain ++ y2) == (bs.drop 65).take 32 then some plain else none

/-! ### Identities (R414) -/

/-- The private identity key of an I/O die, derived from its PUF with the label "IDENTITY" (R414). How the derived number is brought
into the range of private keys is PRESUMED (entry 5). -/
def identitySecret (die : Nat) : Nat := beToNat (kdf (Config.puf die ++ ascii "IDENTITY") 32) % (sm2N - 2) + 1

/-- The identity public key of an I/O die; the package's is die 8's (R414). -/
def identityKey (die : Nat) : List Byte := sm2Public (identitySecret die)

/-- A random number for a signature or an encryption, from the draw of this number (R42, R416). -/
def sm2Nonce (n : Nat) : Nat := (Config.randomDraw n).toNat % (sm2N - 1) + 1

end Sys2Proof.Machine
end

