-- ==== Sys2Proof/Machine/Creamline.lean ====
section
/-! DEFINITION. The Creamline: its messages and their application (R317, R336, R339, R342), the ladle and the frames (R337,
R338, R340), and the instructions that use it (R341, R342). -/

namespace Sys2Proof.Machine

/-- The fabric changed. -/
def modFabric (s : State) (f : Fabric → Fabric) : State := { s with fabric := f s.fabric }

/-- The link to a peer changed. -/
def modLink (s : State) (peer : Nat) (f : Link → Link) : State :=
  modFabric s fun x => { x with links := x.links.map fun l => if l.peer == peer then f l else l }

/-- A partition has a fabric function in another package (R336, R356). -/
def functionElsewhere (s : State) (part : Nat) : Bool := s.fabric.functions.any fun x => x.2 == part && x.1 != s.fabric.pkg

/-- The package that relays a failed stream: the lowest live one with live streams from here to it and from it to the peer, if both
ends are in the group (R333, R340).
Whether a stream between two other packages lives is told from outside (DESIGN CHOICE, entry 64). DEDUCED (entry 33). -/
def relayFor (s : State) (peer : Nat) : Option Nat :=
  (s.fabric.links.filter fun c =>
    s.fabric.livePkgs.contains s.fabric.pkg && s.fabric.livePkgs.contains peer && c.peer != peer && s.fabric.livePkgs.contains c.peer &&
      outLive s c && !s.fabric.farDown.contains (c.peer, peer)).foldl (fun b c =>
    match b with
    | none => some c.peer
    | some x => some (Nat.min x c.peer)) none

/-- Every failed outbound stream goes through its relay, if there is one (R333). -/
def fixRelays (s : State) : State :=
  let fix (l : Link) : Link := if outLive s l then l else { l with relay := relayFor s l.peer }
  modFabric s fun f => { f with links := f.links.map fix }

/-! ### Stores that have arrived -/

/-- A position of a peer's stream has arrived (R316, R333). -/
def arrivedPos (l : Link) (pos : Nat) : Bool := decide (pos ≤ l.arrivedTo) || l.arrived.contains pos

/-- The positions that have arrived, those up to the first gap as one number. -/
def absorb : Nat → Nat → List Nat → Nat × List Nat
  | 0, n, ps => (n, ps)
  | fuel + 1, n, ps => if ps.contains (n + 1) then absorb fuel (n + 1) (ps.filter fun p => p != n + 1) else (n, ps)

/-- A link after the arrival of a position (R316, R333). -/
def noteArrived (pos : Nat) (l : Link) : Link :=
  if arrivedPos l pos then l
  else
    let r := absorb (l.arrived.length + 1) l.arrivedTo (l.arrived ++ [pos])
    { l with arrivedTo := r.1, arrived := r.2 }

/-- The stores that a count counts have all arrived; counts are kept modulo 2^24 (R316, R317, R339). -/
def countMet (l : Link) (cover : List Nat) (count : Nat) : Bool := cover.length % 2 ^ 24 == count && cover.all (arrivedPos l)

/-- The positions of the stores to this package that a message counts (R317). -/
def coverHere (s : State) (m : CreamMsg) : List Nat := (m.marks.filter fun x => x.1 == s.fabric.pkg).map fun x => x.2

/-- A message that waits for no store to this package any more (R318). -/
def messageFreed (s : State) (m : CreamMsg) : CreamMsg :=
  { m with marks := m.marks.filter fun x => x.1 != s.fabric.pkg, counts := listSet m.counts s.fabric.pkg 0 }

/-- Of a peer from which no path leads here any more, the stores on the way have failed with 0x15 and count as arrived: no release
held and no message received waits for them (R318, R343). -/
def settleLost (s : State) : State :=
  let lost := (s.fabric.links.filter fun l => !inboundLive s l).map fun l => l.peer
  if lost.isEmpty then s
  else modFabric s fun f => { f with
    links := f.links.map fun l =>
      if lost.contains l.peer then { l with held := l.held.map fun r => { r with release := r.release.map fun _ => 0, cover := [] } }
      else l
    received := f.received.map fun x => if lost.contains x.2.sender then (x.1, messageFreed s x.2) else x }

/-- The paths to peers after a change of fibres, packages or streams (R333, R343). -/
def pathsChanged (s : State) : State := settleLost (fixRelays s)

/-! ### What a message does -/

/-- The cached translations that an invalidation removes: a stage of a partition, all of it or a range of pages (R268). -/
def invalMatches (part stage base len : Nat) (e : TlbEntry) : Bool :=
  e.part == part &&
    (len == 0 ||
      (let a := if stage == 1 then e.va else e.gpa
       decide (a < base + len * 0x10000) && decide (base < a + e.size)))

/-- Cached translations removed (R268). -/
def dropEntries (s : State) (part stage base len : Nat) : State :=
  { s with tlb := s.tlb.filter fun e => !invalMatches part stage base len e }

/-- A waiting group's wait ends with a value: it goes back to the return list, or, if it still holds its slot, it goes on
there (R93). -/
def finishWait (s : State) (gid : Nat) (v : Word) : State :=
  match group? s gid with
  | none => s
  | some g => if g.status == .waiting then wake s gid v else putGroup s { g with wait := .done v }

/-- The ticket of an own message by its sequence. -/
def ticketOf (s : State) (seq : Nat) : Option Nat := (s.fabric.sent.find? fun x => x.2 == seq).map fun x => x.1

/-- The barrier of a partition as this package keeps it; both counts start at 0 (R342). -/
def barrierOf (s : State) (part id : Nat) : Barrier :=
  (s.fabric.barriers.find? fun b => b.part == part && b.id == id).getD ⟨part, id, 0, 0, []⟩

/-- A barrier replaced; one that has no arrivals is not listed. -/
def putBarrier (s : State) (b : Barrier) : State :=
  modFabric s fun f =>
    let rest := f.barriers.filter fun x => !(x.part == b.part && x.id == b.id)
    { f with barriers := if b.arrived == 0 then rest else b :: rest }

/-- The groups here whose arrival a kind-2 message is. -/
def arrivers (s : State) (seq : Nat) : List Nat :=
  match ticketOf s seq with
  | none => []
  | some t => (s.groups.filter fun g => g.wait == .cbar t).map fun g => g.gid

/-- A kind-2 message: an arrival at a barrier of a partition, which the last one completes. Each package counts for every partition
(R342). -/
def applyBarrier (s : State) (seq : Nat) (m : CreamMsg) : State :=
  let b := barrierOf s m.part m.barrier
  let n := if b.arrived == 0 then m.count else b.count
  let joined := b.joined ++ arrivers s seq
  if n ≤ b.arrived + 1 then
    joined.foldl (fun s gid => finishWait s gid (BitVec.ofNat 64 seq)) (putBarrier s { b with arrived := 0 })
  else putBarrier s { b with count := n, arrived := b.arrived + 1, joined := joined }

/-- The requests to peers that groups of a partition wait for. -/
def ticketsOut (s : State) (part : Nat) : List Nat :=
  (s.groups.filter fun g => g.part == part).flatMap fun g =>
    (g.peers.filter fun p => p.reply.isNone).map fun p => p.ticket

/-- A kind-3 message: an own one removes the entries that its descriptor names, and the accesses to peers that may have been
translated through them are noted; of a peer's, whose descriptor lies there, all entries of the partition go, which this package
acknowledges to the peer when those accesses are over (R268). DEDUCED (entry 32). -/
def applyInvalidation (s : State) (seq : Nat) (m : CreamMsg) : State :=
  match (ticketOf s seq).bind fun t => s.invals.find? fun j => j.ticket == t with
  | some j =>
    let s1 := dropEntries s j.part j.stage j.base j.len
    { s1 with invals := s1.invals.map fun x => if x.ticket == j.ticket then { x with applied := true, tickets := ticketsOut s j.part }
      else x }
  | none =>
    let s1 := dropEntries s m.part 1 0 0
    { s1 with
      nextId := s1.nextId + 1
      invals := s1.invals ++ [⟨s1.nextId, none, 0, 0, m.part, 1, 0, 0, true, true, ticketsOut s1 m.part, [], m.sender⟩] }

/-- A kind-5 message: the partition's function in a package is torn down, what load caches hold of that package goes, its allowances
go back, and the partition's barrier counts return to 0 (R336, R342). -/
def applyTeardown (s : State) (m : CreamMsg) : State :=
  let lines := { s with cache := s.cache.filter fun c => c.code || decide (c.line < peerBase) ||
    (c.line - peerBase) / 0x100000000000000 % 16 != m.arg }
  modFabric lines fun f => { f with
    tornDown := (m.arg, m.part) :: f.tornDown.filter fun x => x != (m.arg, m.part)
    functions := f.functions.filter fun x => x != (m.arg, m.part)
    barriers := f.barriers.filter fun b => b.part != m.part
    links := f.links.map fun l =>
      if m.arg == f.pkg || m.arg == l.peer then
        { l with allowance := Sparse.set l.allowance m.part 0, granted := Sparse.set l.granted m.part 0 }
      else l }

/-- A kind-4 message: `xe.ver` reports its sequence (R356, R359). -/
def applyNotice (s : State) (seq : Nat) (m : CreamMsg) : State :=
  modFabric s fun f => { f with kind4 := Sparse.set f.kind4 m.part (BitVec.ofNat 64 seq) }

/-- The effect of a message by its kind (R339). -/
def messageEffect (s : State) (seq : Nat) (m : CreamMsg) : State :=
  match m.kind with
  | 2 => applyBarrier s seq m
  | 3 => applyInvalidation s seq m
  | 4 => applyNotice s seq m
  | 5 => applyTeardown s m
  | _ => s

/-- The groups that wait for a sequence that has been applied go back to the return list (R93, R341). -/
def wakeAcquirers (s : State) : State :=
  (s.groups.filter fun g => match g.wait with
    | .cacq n => g.status == .waiting && decide (n ≤ s.fabric.applied)
    | _ => false).foldl (fun s g => joinReady s g.gid) s

/-- A message applied: its effect is made, and those who wait for it go on (R317, R339). -/
def applyMessage (s : State) (seq : Nat) (m : CreamMsg) : State :=
  let s1 := modFabric s fun f => { f with received := f.received.filter fun x => x.1 != seq, applied := seq }
  let s2 := messageEffect s1 seq m
  wakeAcquirers (modFabric s2 fun f => { f with sent := f.sent.filter fun x => x.2 != seq })

/-- The store count of a message for this package is met: its stores have arrived, or failed with 0x15 because no path leads here
from their sender (R317, R318, R319, R339, R343). -/
def messageMet (s : State) (m : CreamMsg) : Bool :=
  m.sender == s.fabric.pkg ||
    (match link? s m.sender with
     | some l => !inboundLive s l || countMet l (coverHere s m) (m.counts.getD s.fabric.pkg 0)
     | none => true)

/-- The next message in sequence that may be applied: every live package holds its frame, and its store count is met (R317,
R337, R339). -/
def nextMessage (s : State) : Option (Nat × CreamMsg) :=
  let f := s.fabric
  match f.received.find? fun x => x.1 == f.applied + 1 with
  | none => none
  | some x =>
    if x.1 < f.confirmed && messageMet s x.2 then some x else none

/-- An event that applies the next message if it is of one of these kinds. -/
def applyNext (s : State) (kinds : Nat → Bool) : Host.Outcome State Fault Refusal :=
  .next <|
    match nextMessage s with
    | none => s
    | some x => if kinds x.2.kind then applyMessage s x.1 x.2 else s

/-- RELEASE_MESSAGE_APPLY; messages of reserved kinds are applied as nothing (R317, R339). -/
def execReleaseMessageApply (s : State) : Host.Outcome State Fault Refusal :=
  applyNext s fun k => k == 1 || k == 0 || decide (6 ≤ k)

/-- BARRIER_MESSAGE_APPLY (R342). -/
def execBarrierMessageApply (s : State) : Host.Outcome State Fault Refusal := applyNext s fun k => k == 2

/-- INVALIDATION_MESSAGE_APPLY (R268). -/
def execInvalidationMessageApply (s : State) : Host.Outcome State Fault Refusal := applyNext s fun k => k == 3

/-- VERSION_NOTICE_MESSAGE_APPLY (R356). -/
def execVersionNoticeMessageApply (s : State) : Host.Outcome State Fault Refusal := applyNext s fun k => k == 4

/-- TEARDOWN_NOTICE_APPLY (R336). -/
def execTeardownNoticeApply (s : State) : Host.Outcome State Fault Refusal := applyNext s fun k => k == 5

/-! ### Sending -/

/-- The groups that wait for their own message's frame receive its sequence (R341). -/
def deliverSequence (s : State) (ticket seq : Nat) : State :=
  (s.groups.filter fun g => g.wait == .crel ticket).foldl (fun s g => finishWait s g.gid (BitVec.ofNat 64 seq)) s

/-- Messages of a frame received: they take their sequences, own ones are matched with the queue, and of a sender from which no path
leads here no store is waited for (R318, R337, R338). -/
def receiveMessages (s : State) : List CreamMsg → State
  | [] => s
  | m :: ms =>
    let seq := s.fabric.nextSeq
    let lost := (s.fabric.links.find? fun l => l.peer == m.sender).any fun l => !inboundLive s l
    let s1 := modFabric s fun f =>
      { f with nextSeq := seq + 1, received := f.received ++ [(seq, if lost then messageFreed s m else m)] }
    let s2 :=
      if m.sender != s.fabric.pkg then s1
      else
        match s1.fabric.queue with
        | [] => s1
        | q :: rest =>
          deliverSequence (modFabric s1 fun f => { f with queue := rest, sent := f.sent ++ [(q.1, seq)] }) q.1 seq
    receiveMessages s2 ms

/-- A message of this package queued under a ticket; alone in its group, the package sequences and applies it at once (R337). -/
def sendMessage (s : State) (ticket : Nat) (m : CreamMsg) : State :=
  let s1 := modFabric s fun f => { f with queue := f.queue ++ [(ticket, m)] }
  if s.fabric.size ≤ 1 then
    let seq := s1.fabric.nextSeq
    applyMessage (modFabric (receiveMessages s1 [m]) fun f => { f with confirmed := f.nextSeq }) seq m
  else s1

/-- A group's uncovered store counts by target package, modulo 2^24 (R317, R339). -/
def storeCounts (g : Group) : List Nat := (List.range 16).map fun t => (uncovered g t).length % 2 ^ 24

/-- A message with no partition, barrier, count or argument of its own. -/
def plainMessage (s : State) (kind part : Nat) : CreamMsg :=
  ⟨kind, part, s.fabric.pkg, 0, 0, 0, List.replicate 16 0, []⟩

/-- A message sent for a group with its store counts, which it covers; the group waits for it (R341, R386). -/
def sendFor (s : State) (g : Group) (w : Nat → Wait) (m : CreamMsg) : State :=
  let t := s.nextId
  let s1 := putGroup { s with nextId := t + 1 } { g with stores := [], wait := w t }
  sendMessage (countRegion s1 g.part g.region 0x0D 1) t { m with counts := storeCounts g, marks := g.stores }

/-- After a message is sent, a group whose wait is over already goes on with its value; another gives up its slot (R93,
R341). -/
def afterSend (s : State) (gid : Nat) (k : State → Group → Word → State) : State :=
  match group? s gid with
  | none => s
  | some g =>
    match g.wait with
    | .done v => k s g v
    | w => sleep s g w

/-! ### Instructions -/

/-- CREL: a release at .fab over every store that happens before it, so it waits for those of other groups that its own counts do
not cover (R310, R317, R341). -/
def execCrel (d : Reg) (s : State) : Host.Outcome State Fault Refusal :=
  onDrained s fun g =>
    match g.wait with
    | .done v => retire s (setSreg g d v)
    | _ =>
      if !othersDone s g then releaseBegun s g
      else afterSend (sendFor (acquireAt s g 3) g .crel (plainMessage s 1 g.part)) g.gid fun s g v => retire s (setSreg g d v)

/-- An acquire of sequence `n` at .fab that raises the stamp (R341). -/
def acquireSeq (s : State) (g : Group) (n : Nat) (f : Group → Group) : State :=
  retire (acquireAt s g 4) (f { g with stamp := Nat.max g.stamp n })

/-- CACQ (R317, R341). -/
def execCacq (a : Reg) (s : State) : Host.Outcome State Fault Refusal :=
  onDrained s fun g =>
    let n := (sreg g a).toNat
    if n == 0 then retire s g
    else if n ≤ s.fabric.applied then acquireSeq s g n id
    else sleep s g (.cacq n)

/-- CSEQ (R341). -/
def execCseq (d : Reg) (s : State) : Host.Outcome State Fault Refusal :=
  onDrained s fun g => retire s (setSreg g d (BitVec.ofNat 64 s.fabric.applied))

/-- CBAR (R341, R342). -/
def execCbar (d a b : Reg) (s : State) : Host.Outcome State Fault Refusal :=
  onDrained s fun g =>
    scalarOk (decide (b.toNat ≤ 15)) s g <|
      let ends (s : State) (g : Group) (v : Word) : State := acquireSeq s g v.toNat fun x => setSreg x d v
      match g.wait with
      | .done v => ends s g v
      | _ =>
        xfenceThen s g <|
          if !othersDone s g then releaseBegun s g
          else afterSend (sendFor s g .cbar
            { plainMessage s 2 g.part with barrier := b.toNat, count := (sreg g a).toNat % 2 ^ 32 }) g.gid ends

/-! ### The ladle -/

/-- The live package after `p` in the ladle's order (R337). -/
def nextLive (f : Fabric) (p : Nat) : Nat :=
  match sortBy (fun a b => decide (a ≤ b)) f.livePkgs with
  | [] => p
  | q :: qs => ((q :: qs).find? fun x => decide (p < x)).getD q

/-- The holder puts its next frame on the medium, up to seven messages of its queue, or passes the ladle (R337). -/
def sendFrame (s : State) : State :=
  let f := s.fabric
  if f.queue.isEmpty then modFabric s fun f => { f with ladle := false, visit := 0, holder := nextLive f f.pkg }
  else
    let fr : Frame :=
      { seq := f.nextSeq, sender := f.pkg, number := f.visit, passes := f.visit == 7 || decide (f.queue.length ≤ 7),
        msgs := (f.queue.take 7).map fun x => x.2 }
    modFabric s fun f => { f with flight := some fr }

/-- LADLE_ARRIVE at the holder: this package sends its frames or passes the ladle; a peer that has no frame to send passes it on
(R337). -/
def execLadleArrive (s : State) : Host.Outcome State Fault Refusal :=
  let f := s.fabric
  .next (if f.size ≤ 1 || f.flight.isSome || f.visit != 0 then s
    else if f.holder == f.pkg then sendFrame (modFabric s fun f => { f with ladle := true })
    else modFabric s fun f => { f with holder := nextLive f f.holder })

/-- The messages of the frame on the medium have been received here. -/
def frameReceived (f : Fabric) (fr : Frame) : Bool := f.nextSeq == fr.seq + fr.msgs.length

/-- CREAMLINE_FRAME_RECEIVE: a good frame of the holder, in sequence, is taken once; a bad one is rejected and changes nothing
(R337). -/
def execCreamlineFrameReceive (frame : Frame) (crcOk : Bool) (s : State) : Host.Outcome State Fault Refusal :=
  let f := s.fabric
  .next (if f.size ≤ 1 || !crcOk || frame.sender != f.holder || frame.seq != f.nextSeq || 7 < frame.msgs.length then s
    else
      match f.flight with
      | some x =>
        if x == frame && !frameReceived f x then receiveMessages s frame.msgs else s
      | none =>
        if frame.sender == f.pkg then s
        else receiveMessages (modFabric s fun f => { f with flight := some frame }) frame.msgs)

/-- CREAMLINE_FRAME_ACKNOWLEDGED: every live package has the frame; its messages may be applied, and the holder goes on or the
ladle passes (R337). -/
def execCreamlineFrameAcknowledged (s : State) : Host.Outcome State Fault Refusal :=
  let f := s.fabric
  .next <|
    match f.flight with
    | none => s
    | some fr =>
      if !frameReceived f fr then s
      else
        let s1 := modFabric s fun f => { f with flight := none, confirmed := f.nextSeq }
        if fr.passes then modFabric s1 fun f => { f with ladle := false, visit := 0, holder := nextLive f fr.sender }
        else
          let s2 := modFabric s1 fun f => { f with visit := f.visit + 1 }
          if f.ladle then sendFrame s2 else s2

/-- CREAMLINE_FRAME_REJECT: the holder puts the same frame with the same sequences on the medium again; its messages still
wait for every live package's acknowledgement (R337). -/
def execCreamlineFrameReject (s : State) : Host.Outcome State Fault Refusal := .next s

/-- LADLE_SILENCE_TIMEOUT: the former holder, which may be this package, leaves; what not all had acknowledged of it is dropped, and
the lowest live package holds a new ladle (R340). -/
def execLadleSilenceTimeout (s : State) : Host.Outcome State Fault Refusal :=
  let f := s.fabric
  .next (if f.size ≤ 1 then s
    else
      let live := f.livePkgs.filter fun p => p != f.holder
      let low := live.foldl Nat.min 16
      let s1 := pathsChanged <| modFabric s fun f => { f with
        livePkgs := live, ladle := false, holder := low, visit := 0, flight := none, nextSeq := f.confirmed
        received := f.received.filter fun x => decide (x.1 < f.confirmed) }
      if low == f.pkg then sendFrame (modFabric s1 fun f => { f with ladle := true }) else s1)

end Sys2Proof.Machine
end

