-- ==== Sys2Proof/Machine/Device.lean ====
section
/-! DEFINITION. Memory as units of the device read and write it for a partition: ranges of virtual addresses through both
stages (R23, R265), and structures that a group's instruction reads as its own data (R350, R360, R383, R408). -/

namespace Sys2Proof.Machine

/-! ### Ranges of virtual addresses -/

/-- Where a range of virtual addresses lies, piece by piece: the place and length of each page's share; or a failure with its
cause. -/
inductive Places where
  | ok (ps : List (Nat × Nat))
  | fail (cause : Nat)

/-- The agent of a unit of the device that acts for a partition (R23). -/
def unitAgent (part : Nat) : Agent := ⟨part, true, 0, 8, 0⟩

/-- A range of `n` bytes from `va` on, in memory of this package, of a peer or of the host, with the translations it caches; a
refusal sends its envelope (R21, R263, R265). -/
def devPlaces (part : Nat) (acc : Acc) : Nat → State → Nat → Nat → State × Places
  | 0, s, _, _ => (s, .ok [])
  | fuel + 1, s, va, n =>
    if n == 0 then (s, .ok [])
    else
      let k := Nat.min n (0x10000 - va % 0x10000)
      let r := resolve s (unitAgent part) (va % 2 ^ 64) acc
      match r.2 with
      | .fail c gov => (refusalEnvelope r.1 gov, .fail c)
      | .wait => (r.1, .fail 0x12)
      | .ok (.mem p) =>
        if rangeBad r.1 p k then (r.1, .fail 0x12)
        else
          let q := devPlaces part acc fuel r.1 (va + k) (n - k)
          (q.1, match q.2 with
                | .ok ps => .ok ((p, k) :: ps)
                | x => x)
      | .ok _ => (r.1, .fail 0x12)

/-- A range of virtual addresses of a partition. -/
def devRange (s : State) (part : Nat) (acc : Acc) (va n : Nat) : State × Places :=
  devPlaces part acc (n / 0x10000 + 2) s va n

/-- Bytes stored to the pieces of a range, as every watcher sees them. -/
def placesWrite (w : Writer) : State → List (Nat × Nat) → List Byte → State
  | s, [], _ => s
  | s, (p, k) :: rest, bs => placesWrite w (storeBytes s w (.mem p) (bs.take k)) rest (bs.drop k)

/-- A unit of the device as a writer of class `cls` (R271). -/
def unitWriter (part cls : Nat) : Writer := ⟨cls, part, 0, 0, 8, 192, 0⟩

/-- `n` bytes of a partition's virtual memory, and the state after the access; none where some byte cannot be read. -/
def devGet (s : State) (part va n : Nat) : State × Option (List Byte) :=
  let r := devRange s part .load va n
  (r.1, match r.2 with
        | .ok ps => some (placesRead r.1 ps)
        | .fail _ => none)

/-- `n` bytes of a partition's virtual memory; none where some byte cannot be read. -/
def devRead (s : State) (part va n : Nat) : Option (List Byte) := (devGet s part va n).2

/-- An unsigned value of a partition's virtual memory. -/
def devNat (s : State) (part va n : Nat) : Option Nat := (devRead s part va n).map bytesToNat

/-- Bytes stored to a partition's virtual memory, and whether they were; nothing is stored where some byte cannot be. -/
def devSet (s : State) (w : Writer) (va : Nat) (bs : List Byte) : State × Bool :=
  match devRange s w.part .store va bs.length with
  | (s1, .ok ps) => (placesWrite w s1 ps bs, true)
  | (s1, .fail _) => (s1, false)

/-- Bytes stored to a partition's virtual memory; none where some byte cannot be written. -/
def devWrite (s : State) (w : Writer) (va : Nat) (bs : List Byte) : Option State :=
  let r := devSet s w va bs
  if r.2 then some r.1 else none

/-- Several ranges: the pieces of those before the first failure, and whether that is all of them. -/
inductive ManyPlaces where
  | ok (all : Bool) (pss : List (List (Nat × Nat)))

/-- Several ranges of virtual addresses of a partition, each with its access, its address and its length. -/
def devMany (part : Nat) : State → List (Acc × Nat × Nat) → State × ManyPlaces
  | s, [] => (s, .ok true [])
  | s, (acc, va, n) :: rest =>
    let r := devRange s part acc va n
    match r.2 with
    | .fail _ => (r.1, .ok false [])
    | .ok ps =>
      let q := devMany part r.1 rest
      (q.1, match q.2 with
            | .ok b pss => .ok b (ps :: pss))

/-! ### Structures that an instruction reads -/

/-- What the read of a structure by an instruction gives: its bytes; a failure of its first failing 8 bytes; or a wait, with
the requests to peers that it still needs. -/
inductive DataRead where
  | ok (bs : List Byte)
  | fail (e : AccessEntry) (gov : Option EnvPlace)
  | wait

/-- `n` pieces of `k` bytes read as a group's data, with the requests to peers that they need (R350). -/
def dataPieces (g : Group) (k : Nat) : Nat → State → Nat → State × List PeerAsk × DataRead
  | 0, s, _ => (s, [], .ok [])
  | n + 1, s, va =>
    let x := va % 2 ^ 64
    let e : AccessEntry := ⟨BitVec.ofNat 64 x, 0xFB, 0, 8, 0, 0⟩
    let r := resolve s (agentOf g) x .load
    let asks := loadAsk e k r.2
    match r.2 with
    | .fail c gov => (r.1, [], .fail { e with cause := c } gov)
    | .wait => (r.1, [], .wait)
    | .ok l =>
      match asks.findSome? (peerNow r.1 g) with
      | some (.error c) => (r.1, [], .fail { e with cause := c } none)
      | y =>
        let v := match y with
          | some (.ok d) => (r.1, (d ++ List.replicate k 0).take k)
          | _ => loadBytes r.1 (agentOf g).die (agentOf g).core l k
        let q := dataPieces g k n v.1 (va + k)
        (q.1, asks ++ q.2.1, match q.2.2 with
          | .ok bs => .ok (v.2 ++ bs)
          | d => d)

/-- A structure of `n` bytes read in pieces of `align` bytes for an instruction, and then what the instruction does with it; a
structure that is not aligned to `align` fails with 0x14, and a failed read is noted as pending (R157, R350). -/
def withData (s : State) (g : Group) (va align n : Nat) (bad : State → State) (k : State → List Byte → State) : State :=
  if va % align != 0 then
    bad (notePending s g.gid ⟨BitVec.ofNat 64 va, 0xFB, 0, 8, 0x14, 0⟩ none)
  else
    let r := dataPieces g align (n / align) s va
    match r.2.2 with
    | .fail e gov => bad (notePending r.1 g.gid e gov)
    | .wait => r.1
    | .ok bs => if asksReady r.1 g r.2.1 then k (asksDrop r.1 g.gid r.2.1) bs else asksSend r.1 g.gid r.2.1

end Sys2Proof.Machine
end

