-- ==== Sys2Proof/Machine/LaneCross.lean ====
section
/-! DEFINITION. The cross-lane instructions, 0x70 to 0x78 (R223 to R229). -/

namespace Sys2Proof.Machine

/-- Lane `k` of source A, zero out of range or exited (R142, R223). -/
def gatherLane (c : LaneCtx) (w : LaneOps) (k : Nat) : Nat :=
  if k < c.n && c.isLive k then srcA c w w.dt k else 0

/-- VGATH (R223). -/
def execVgath (w : LaneOps) (s : State) : Host.Outcome State Fault Refusal :=
  laneOp s 0x70 w ⟨useOf w.dt, useIndex w.dt, useNone, useOf w.dt⟩ fun c =>
    elementwise c w.dt w.vd.toNat false fun i => ⟨gatherLane c w (srcB c w .n32 i), 0⟩

/-- VBCAST (R223). -/
def execVbcast (w : LaneOps) (s : State) : Host.Outcome State Fault Refusal :=
  laneOp s 0x71 w ⟨useOf w.dt, useNone, useNone, useOf w.dt⟩ fun c =>
    elementwise c w.dt w.vd.toNat false fun i => ⟨gatherLane c w (srcB c w .n32 i), 0⟩

/-- The operation of a reduction at one node (R224): 0 add, 1 min, 2 max, 3 and, 4 or, 5 xor. -/
def redNode (c : LaneCtx) (rs : RoundSel) (t : DType) (op idx a b : Nat) : FRes :=
  if dtypeFloat t then
    match op with
    | 0 => faddVal (laneRnd c rs t idx) (fmtOf t) (finput c.g.mode (fmtOf t) a) (finput c.g.mode (fmtOf t) b)
    | 1 => fminmax c.g.mode (laneRnd c .rne t 0) (fmtOf t) false false a b
    | _ => fminmax c.g.mode (laneRnd c .rne t 0) (fmtOf t) true false a b
  else
    match op with
    | 0 => ⟨intResult c.g.mode t (intOf t a + intOf t b), 0⟩
    | 1 => ⟨if intOf t b < intOf t a then b else a, 0⟩
    | 2 => ⟨if intOf t a < intOf t b then b else a, 0⟩
    | 3 => ⟨a &&& b, 0⟩
    | 4 => ⟨a ||| b, 0⟩
    | _ => ⟨a ^^^ b, 0⟩

/-- The identity of a reduction (R224). -/
def redIdentity (t : DType) (op : Nat) : Nat :=
  if dtypeFloat t then
    match op with
    | 0 => signBit (fmtOf t) true
    | 1 => infBits (fmtOf t)
    | _ => signBit (fmtOf t) true + infBits (fmtOf t)
  else
    match op with
    | 1 => intBits (dtypeWidth t) (intMax t)
    | 2 => intBits (dtypeWidth t) (intMin t)
    | 3 => 2 ^ dtypeWidth t - 1
    | _ => 0

/-- One level of the tree: pairs combined, an empty leaf skipped (R203). -/
def redLevel (f : Nat → Nat → Nat → FRes) : Nat → List (Option FRes) → List (Option FRes)
  | node, p :: q :: rest =>
    let y := match p, q with
      | none, none => none
      | some x, none => some x
      | none, some x => some x
      | some x, some z =>
        let r := f node x.bits z.bits
        some ⟨r.bits, r.ex ||| x.ex ||| z.ex⟩
    y :: redLevel f (node + 1) rest
  | _, rest => rest

/-- The seven levels (R203); the exceptions of every node gather on the way. -/
def redTree (f : Nat → Nat → Nat → FRes) (leaves : List (Option FRes)) : Option FRes :=
  let x := [0, 1, 2, 3, 4, 5, 6].foldl (fun x l => redLevel f (128 - 128 / 2 ^ l) x) leaves
  x.headD none

/-- A lane's value as a reduction or scan takes it: a subnormal floating input is a zero under mode bit 32 (R193). -/
def redInput (c : LaneCtx) (t : DType) (v : Nat) : Nat := if dtypeFloat t then inputBits c.g.mode (fmtOf t) v else v

/-- A value that a reduction or scan delivers: a NaN is the default NaN, and a subnormal floating result is flushed under mode
bit 33, one that no operation has changed too (R193, R196). -/
def redResult (c : LaneCtx) (t : DType) (r : FRes) : FRes :=
  if dtypeFloat t then
    let v := fdecode (fmtOf t) r.bits
    if isNan v then nanRes (fmtOf t) (r.ex ||| snan v) else flushRes (laneRnd c .rne t 0) (fmtOf t) r.bits r.ex
  else r

/-- The 128 leaves: the active lanes' values (R203). -/
def redLeaves (c : LaneCtx) (v : Nat → Nat) : List (Option FRes) :=
  (List.range 128).map fun i => if decide (i < c.n) && c.active i then some ⟨v i, 0⟩ else none

/-- A reduction or scan takes draws: a floating addition under stochastic rounding (R189). DEDUCED (entry 48). -/
def redDraws (c : LaneCtx) (w : LaneOps) (op : Nat) : Bool := dtypeFloat w.dt && op == 0 && laneDraws c w.rs w.dt

/-- A reduction's scalar result: sign-extended for i32, zero-extended otherwise (R224). -/
def redScalar (t : DType) (b : Nat) : Word :=
  if t == .i32 then BitVec.ofNat 64 (intBits 64 (intOf .i32 b)) else BitVec.ofNat 64 b

/-- VRED (R203, R224). -/
def execVred (w : LaneOps) (s : State) : Host.Outcome State Fault Refusal :=
  let op := bits w.imm.toNat 0 3
  let scalar := bitOf w.imm.toNat 4
  laneOp s 0x72 w ⟨useOf w.dt, useNone, useNone, if scalar then useNone else useOf w.dt⟩ fun c =>
    let leaves := redLeaves c fun i => redInput c w.dt (srcA c w w.dt i)
    let r := redResult c w.dt ((redTree (redNode c w.rs w.dt op) leaves).getD ⟨redIdentity w.dt op, 0⟩)
    { laneNothing with
      vec := if scalar then [] else vecOf w.dt w.vd.toNat (List.replicate c.n r.bits)
      scalar := if scalar then some (redScalar w.dt r.bits) else none
      ex := r.ex
      draws := redDraws c w op }

/-- The prefixes of the active lanes in order: each lane with its prefix and the one before it (R225). -/
def scanGo (f : Nat → Nat → Nat → FRes) (v : Nat → Nat) : List Nat → FRes → List (Nat × FRes × Nat)
  | [], _ => []
  | a :: rest, p =>
    let r := f (a * 8) p.bits (v a)
    (a, r, p.bits) :: scanGo f v rest r

/-- VSCAN (R225). -/
def execVscan (w : LaneOps) (s : State) : Host.Outcome State Fault Refusal :=
  let op := bits w.imm.toNat 0 3
  let exclusive := bitOf w.imm.toNat 3
  laneOp s 0x73 w ⟨useOf w.dt, useNone, useNone, useOf w.dt⟩ fun c =>
    let v (i : Nat) : Nat := redInput c w.dt (srcA c w w.dt i)
    let ps : List (Nat × FRes × Nat) := match c.lanes with
      | [] => []
      | a :: rest =>
        let p := redResult c w.dt ⟨v a, 0⟩
        (a, p, redIdentity w.dt op) :: scanGo (redNode c w.rs w.dt op) v rest p
    let out (i : Nat) : Nat :=
      match ps.find? fun p => p.1 == i with
      | some p => if exclusive then p.2.2 else p.2.1.bits
      | none => 0
    { laneNothing with
      vec := vecOf w.dt w.vd.toNat ((List.range c.n).map out)
      ex := ps.foldl (fun x p => x ||| p.2.1.ex) 0
      draws := redDraws c w op }

/-- The key of a lane under `.num`: every NaN alike, −0 as +0 (R226). -/
def numKey (t : DType) (b : Nat) : Nat :=
  match fdecode (fmtOf t) b with
  | .nan _ => defaultNan (fmtOf t)
  | .num _ m _ => if m == 0 then 0 else b
  | .inf _ => b

/-- VMATCH (R226). -/
def execVmatch (w : LaneOps) (s : State) : Host.Outcome State Fault Refusal :=
  laneOp s 0x74 w ⟨useOf w.dt, useNone, useNone, useOf w.dt⟩ fun c =>
    let keys := (List.range c.n).map fun i =>
      let b := srcA c w w.dt i
      if bitOf w.imm.toNat 0 then numKey w.dt b else b
    let key (i : Nat) : Nat := keys.getD i 0
    elementwise c w.dt w.vd.toNat false fun i =>
      let same := c.lanes.filter fun l => key l == key i
      ⟨if bitOf w.imm.toNat 1 then (same.filter fun l => decide (l < i)).length else same.headD i, 0⟩

/-- VBALLOT (R227). -/
def execVballot (w : LaneOps) (s : State) : Host.Outcome State Fault Refusal :=
  laneOp s 0x75 w ⟨useOf w.dt, useNone, useNone, useNone⟩ fun c =>
    { laneNothing with triple := some (laneBits c fun i => srcA c w w.dt i != 0) }

/-- The selected lanes: live and set in the triple of imm21[5:0] (R228). -/
def selectedLanes (c : LaneCtx) (w : LaneOps) : List Nat :=
  let t := tripleIn c.sc (bits w.imm.toNat 0 6)
  (List.range c.n).filter fun i => c.isLive i && bitOf t i

/-- VCOMPACT (R228). -/
def execVcompact (w : LaneOps) (s : State) : Host.Outcome State Fault Refusal :=
  laneOp s 0x76 w ⟨useOf w.dt, useNone, useNone, useOf w.dt⟩ fun c =>
    let sel := selectedLanes c w
    elementwise c w.dt w.vd.toNat false fun i =>
      match sel[c.lanes.idxOf i]? with
      | some l => ⟨srcA c w w.dt l, 0⟩
      | none => ⟨0, 0⟩

/-- VEXPAND (R142, R228). -/
def execVexpand (w : LaneOps) (s : State) : Host.Outcome State Fault Refusal :=
  laneOp s 0x77 w ⟨useOf w.dt, useNone, useNone, useOf w.dt⟩ fun c =>
    let sel := selectedLanes c w
    elementwise c w.dt w.vd.toNat false fun i =>
      if sel.contains i then ⟨gatherLane c w (sel.idxOf i), 0⟩ else ⟨regValue c (dtypeWide w.dt) w.vd.toNat i, 0⟩

/-- VLANEID (R229). -/
def execVlaneid (w : LaneOps) (s : State) : Host.Outcome State Fault Refusal :=
  laneOp s 0x78 w ⟨useNone, useNone, useNone, useOf w.dt⟩ fun c =>
    elementwise c w.dt w.vd.toNat false fun i =>
      match bits w.imm.toNat 0 2 with
      | 0 => ⟨i, 0⟩
      | 1 => ⟨(c.lanes.filter fun l => decide (l < i)).length, 0⟩
      | 2 => ⟨((List.range c.n).filter fun l => c.isLive l && decide (l < i)).length, 0⟩
      | _ => ⟨c.count, 0⟩

end Sys2Proof.Machine
end

