-- ==== Sys2Proof/Machine/LaneTile.lean ====
section
/-! DEFINITION. The permutation instructions, 0xB0 to 0xB9 (R250 to R257), and the tile instructions, 0xC0 to 0xC3 (R248,
R249). -/

namespace Sys2Proof.Machine

/-! ### Permutations -/

/-- Item `i` of a permutation register (R250). -/
def permAt (q : Perm) (i : Nat) : Nat := q.items.getD i i

/-- A permutation register of a group. -/
def permOf (g : Group) (q : Nat) : Perm := g.perms.getD q ⟨128, [], false⟩

/-- A permutation of `n` items, its route solve begun (R257). -/
def permMake (n : Nat) (f : Nat → Nat) : Perm := ⟨n, (List.range n).map f, true⟩

/-- A write of a permutation register (R251, R257). -/
def setPerm (q : Nat) (p : Perm) (g : Group) : Group := { g with perms := listSet g.perms q p }

/-- The number of the destination register, vd[3:0] (R251). -/
def qDest (w : LaneOps) : Nat := w.vd.toNat % 16

/-- The register named by imm21[3:0] (R251). -/
def qSrcA (c : LaneCtx) (w : LaneOps) : Perm := permOf c.g (bits w.imm.toNat 0 4)

/-- The register named by imm21[7:4] (R251). -/
def qSrcB (c : LaneCtx) (w : LaneOps) : Perm := permOf c.g (bits w.imm.toNat 4 4)

/-- A size source: a scalar in full, or a special's value as lane 0 has it (R251, R252). DEDUCED (entry 24). -/
def qSize (c : LaneCtx) (x : LaneSrc) : Nat :=
  if x.kind == .scalar then (sregIn c.sc (x.field.toNat % 64)).toNat else specialSource c x.field.toNat 0

/-- A size that a permutation may have (R250). -/
def qSizeOk (n : Nat) : Bool := decide (2 ≤ n) && decide (n ≤ 128)

/-- The index vector of `qld`: byte `i` mod 4 of lane `i` div 4 of A (R252). -/
def qVector (c : LaneCtx) (w : LaneOps) : List Nat :=
  (List.range 128).map fun i => bits (srcA c w .n32 (i / 4)) (8 * (i % 4)) 8

/-- The check of an index vector: 0 valid, 1 not bijective, 2 size (R252). -/
def qCheck (n : Nat) (v : List Nat) : Nat :=
  if !qSizeOk n then 2
  else if isPermutation n (v.take n) then 0
  else 1

/-- The inverse of item `j`: where it stands (R253). -/
def permInv (q : Perm) (j : Nat) : Nat := if j < q.size then q.items.idxOf j else j

/-- `f` applied `k` times. -/
def iterate (f : Nat → Nat) : Nat → Nat → Nat
  | 0, x => x
  | k + 1, x => iterate f k (f x)

/-- The items of the cycle of `i`, at most `n` of them (R255). -/
def cycleFrom (q : Perm) (i : Nat) : Nat → Nat → List Nat
  | 0, _ => []
  | n + 1, x => if permAt q x == i then [x] else x :: cycleFrom q i n (permAt q x)

/-- The cycle of an item. -/
def cycleOf (q : Perm) (i : Nat) : List Nat := cycleFrom q i q.size i

/-- The cycles of a permutation, each by its lowest item (R255). -/
def cycleHeads (q : Perm) : List Nat := (List.range q.size).filter fun i => (cycleOf q i).all fun x => decide (i ≤ x)

/-- A fact about a permutation (R255). -/
def cycleFact (q : Perm) (sel i : Nat) : Nat :=
  match sel with
  | 0 => (cycleHeads q).length
  | 1 => if i < q.size then (cycleOf q i).length else if i < 128 then 1 else 0
  | 2 => Nat.min (2 ^ 32 - 1) ((cycleHeads q).foldl (fun a i => Nat.lcm a (cycleOf q i).length) 1)
  | 3 => ((List.range q.size).filter fun i => permAt q i == i).length
  | _ => (q.size - (cycleHeads q).length) % 2

/-- Swaps of the shuffle from item `i` down to 1 (R254). -/
def shuffle (seed : Word) : Nat → List Nat → List Nat
  | 0, p => p
  | i + 1, p =>
    let j := (draw seed (i + 1)).toNat / 2 ^ 32 * (i + 2) / 2 ^ 32
    shuffle seed i (listSet (listSet p (i + 1) (p.getD j 0)) j (p.getD (i + 1) 0))

/-- No vector register is named. -/
def usesNone : RegUses := ⟨useNone, useNone, useNone, useNone⟩

/-- A permutation instruction that takes a size: it traps 0x0A outside 2 to 128, or writes qd (R253). -/
def qSized (s : State) (op : Nat) (w : LaneOps) (f : LaneCtx → Nat → LaneOut) : Host.Outcome State Fault Refusal :=
  laneThen s op w usesNone noTiles fun c =>
    let n := qSize c w.a
    if qSizeOk n then laneCommit s c w usesNone (f c n) else trapLane s c.g 0x0A

/-- QLD (R252). -/
def execQld (w : LaneOps) (s : State) : Host.Outcome State Fault Refusal :=
  let u : RegUses := ⟨useOf w.dt, useNone, useNone, useNone⟩
  laneThen s 0xB0 w u noTiles fun c =>
    let n := qSize c w.b
    let v := qVector c w
    match qCheck n v with
    | 0 => laneCommit s c w u { laneNothing with eff := setPerm (qDest w) (permMake n fun i => v.getD i 0) }
    | 1 => trapLane s c.g 0x09
    | _ => trapLane s c.g 0x0A

/-- QLDT (R252). -/
def execQldt (w : LaneOps) (s : State) : Host.Outcome State Fault Refusal :=
  laneOp s 0xB1 w ⟨useOf w.dt, useNone, useNone, useNone⟩ fun c =>
    { laneNothing with scalar := some (BitVec.ofNat 64 (qCheck (qSize c w.b) (qVector c w))) }

/-- QST (R253). -/
def execQst (w : LaneOps) (s : State) : Host.Outcome State Fault Refusal :=
  laneOp s 0xB2 w ⟨useNone, useNone, useNone, useOf w.dt⟩ fun c =>
    let q := qSrcA c w
    elementwise c w.dt w.vd.toNat false fun l =>
      ⟨if l < 32 then
        permAt q (4 * l) + 2 ^ 8 * permAt q (4 * l + 1) + 2 ^ 16 * permAt q (4 * l + 2) + 2 ^ 24 * permAt q (4 * l + 3)
       else if l == 32 then q.size else 0, 0⟩

/-- QID (R253). -/
def execQid (w : LaneOps) (s : State) : Host.Outcome State Fault Refusal :=
  qSized s 0xB3 w fun _ n => { laneNothing with eff := setPerm (qDest w) (permMake n id) }

/-- QCOMP (R253). -/
def execQcomp (w : LaneOps) (s : State) : Host.Outcome State Fault Refusal :=
  laneOp s 0xB4 w usesNone fun c =>
    let a := qSrcA c w
    let b := qSrcB c w
    { laneNothing with eff := setPerm (qDest w) (permMake (Nat.max a.size b.size) fun i => permAt a (permAt b i)) }

/-- QINV (R253). -/
def execQinv (w : LaneOps) (s : State) : Host.Outcome State Fault Refusal :=
  laneOp s 0xB5 w usesNone fun c =>
    let a := qSrcA c w
    { laneNothing with eff := setPerm (qDest w) (permMake a.size (permInv a)) }

/-- QPOW: each item moves along its cycle by the power modulo the cycle's length (R253). -/
def execQpow (w : LaneOps) (s : State) : Host.Outcome State Fault Refusal :=
  laneOp s 0xB6 w usesNone fun c =>
    let a := qSrcA c w
    let k : Int := signedOf 8 (sregIn c.sc (w.a.field.toNat % 64)).toNat
    { laneNothing with eff := setPerm (qDest w) (permMake a.size fun i =>
        iterate (permAt a) (k % ((cycleOf a i).length : Int)).toNat i) }

/-- QRAND (R254). -/
def execQrand (w : LaneOps) (s : State) : Host.Outcome State Fault Refusal :=
  qSized s 0xB7 w fun c n =>
    let p := shuffle c.g.seed (n - 1) (List.range n)
    { laneNothing with draws := true, eff := setPerm (qDest w) (permMake n fun i => p.getD i 0) }

/-- QCYC (R255). -/
def execQcyc (w : LaneOps) (s : State) : Host.Outcome State Fault Refusal :=
  laneOp s 0xB8 w usesNone fun c =>
    let i := (sregIn c.sc (w.a.field.toNat % 64)).toNat
    { laneNothing with scalar := some (BitVec.ofNat 64 (cycleFact (qSrcA c w) (bits w.imm.toNat 8 3) i)) }

/-- QAPP: it waits for the register's route solve (R256, R257). -/
def execQapp (w : LaneOps) (s : State) : Host.Outcome State Fault Refusal :=
  let u : RegUses := ⟨useOf w.dt, useNone, useNone, useOf w.dt⟩
  laneThen s 0xB9 w u noTiles fun c =>
    let q := qSrcA c w
    if q.solving then s
    else
      laneCommit s c w u (elementwise c w.dt w.vd.toNat false fun i =>
        ⟨gatherLane c w (if bitOf w.imm.toNat 11 then permInv q i else permAt q i), 0⟩)

/-- ROUTE_SOLVE_COMPLETE (R257). -/
def execRouteSolveComplete (gid q : Nat) (s : State) : Host.Outcome State Fault Refusal :=
  .next (modGroup s gid fun g =>
    { g with perms := listSet g.perms q { permOf g q with solving := false } })

/-! ### Tiles -/

/-- The tiles a tile instruction names: one, or an even pair for f64 (R231, R248, R249). -/
def tilesOf (w : LaneOps) : TileUse := ⟨bits w.imm.toNat 0 3, if dtypeWide w.dt then 2 else 1, dtypeWide w.dt⟩

/-- The numbers of the tiles. -/
def tileNums (t : TileUse) : List Nat := (List.range t.count).map fun k => t.first + k

/-- The element that lane `i` names, its index source given (R248). -/
def tileElem (w : LaneOps) (x : Nat → Nat) (i : Nat) : Nat := x i + if bitOf w.imm.toNat 3 then i else 0

/-- An element of a tile or of a tile pair (R231). -/
def readTile (g : Group) (t : TileUse) (e : Nat) : Nat :=
  (Sparse.get (tileAt g t.first) e).toNat + if t.count == 2 then 2 ^ 32 * (Sparse.get (tileAt g (t.first + 1)) e).toNat else 0

/-- A group with an element of a tile or of a tile pair written (R231). -/
def writeTile (t : TileUse) (e v : Nat) (g : Group) : Group :=
  let g1 := { g with tiles := listSet g.tiles t.first (Sparse.set (tileAt g t.first) e (BitVec.ofNat 32 v)) }
  if t.count == 2 then
    { g1 with tiles := listSet g1.tiles (t.first + 1) (Sparse.set (tileAt g1 (t.first + 1)) e (BitVec.ofNat 32 (v / 2 ^ 32))) }
  else g1

/-- A group with the active lanes' values written to their elements in ascending lane order (R248). -/
def writeTileLanes (c : LaneCtx) (w : LaneOps) (t : TileUse) (g : Group) : Group :=
  c.lanes.foldl (fun g i =>
    let e := tileElem w (srcB c w .n32) i
    if e < 4096 then writeTile t e (srcA c w w.dt i) g else g) g

/-- VACRD (R248). -/
def execVacrd (w : LaneOps) (s : State) : Host.Outcome State Fault Refusal :=
  let u : RegUses := ⟨useIndex w.dt, useNone, useNone, useOf w.dt⟩
  let t := tilesOf w
  laneThen s 0xC0 w u t fun c =>
    if tileBusy c.g (tileNums t) false then s
    else
      laneCommit s c w u (elementwise c w.dt w.vd.toNat false fun i =>
        let e := tileElem w (srcA c w .n32) i
        ⟨if e < 4096 then readTile c.g t e else 0, 0⟩)

/-- VACWR: the highest lane wins an element (R248). -/
def execVacwr (w : LaneOps) (s : State) : Host.Outcome State Fault Refusal :=
  let u : RegUses := ⟨useOf w.dt, useIndex w.dt, useNone, useNone⟩
  let t := tilesOf w
  laneThen s 0xC1 w u t fun c =>
    if tileBusy c.g (tileNums t) true then s
    else
      laneCommit s c w u { laneNothing with eff := writeTileLanes c w t, tiles := tileNums t }

/-- The first number from `h` on that is no park handle in use and not 0 (R249). DESIGN CHOICE (entry 28). -/
def freeHandle (s : State) : Nat → Word32 → Word32
  | 0, h => h
  | n + 1, h => if h == 0 || s.parks.any (fun p => p.handle == h.toNat) then freeHandle s n (h + 1) else h

/-- The tiles in the package's park store (R249). -/
def parkedTiles (s : State) : Nat := s.parks.foldl (fun n p => n + p.tiles.length) 0

/-- VPARK (R249). -/
def execVpark (w : LaneOps) (s : State) : Host.Outcome State Fault Refusal :=
  let t := tilesOf w
  laneThen s 0xC2 w usesNone t fun c =>
    if tileBusy c.g (tileNums t) true then s
    else if !withinCaps (chain s c.g.part c.g.region) (fun r => r.parked) (fun r => r.parkCap) t.count then
      trapLane s c.g 0x22
    else if 4096 < parkedTiles s + t.count then trapLane s c.g 0x23
    else
      let h := freeHandle s 4200 (Config.parkHandle s.nextId)
      let s1 := chargeUp s c.g.part c.g.region fun r => { r with parked := r.parked + t.count }
      let s2 := { s1 with nextId := s1.nextId + 1,
                          parks := s1.parks ++ [⟨h.toNat, c.g.part, c.g.region, (tileNums t).map (tileAt c.g)⟩] }
      laneCommit s2 c w usesNone
        { laneNothing with
          scalar := some (BitVec.ofNat 64 h.toNat)
          eff := fun g => { g with tiles := (tileNums t).foldl (fun ts k => listSet ts k []) g.tiles }
          tiles := tileNums t }

/-- VUNPARK (R249). -/
def execVunpark (w : LaneOps) (s : State) : Host.Outcome State Fault Refusal :=
  let t := tilesOf w
  laneThen s 0xC3 w usesNone t fun c =>
    if tileBusy c.g (tileNums t) true then s
    else
      let h := (sregIn c.sc (w.a.field.toNat % 64)).toNat
      match s.parks.find? fun p => p.handle == h && p.part == c.g.part && p.region == c.g.region with
      | none => trapLane s c.g 0x01
      | some p =>
        if p.tiles.length != t.count then trapLane s c.g 0x01
        else
          let s1 := chargeUp s c.g.part c.g.region fun r => { r with parked := r.parked - t.count }
          laneCommit { s1 with parks := s1.parks.filter fun x => x != p } c w usesNone
            { laneNothing with
              eff := fun g => { g with tiles := ((tileNums t).zip p.tiles).foldl (fun ts x => listSet ts x.1 x.2) g.tiles }
              tiles := tileNums t }

end Sys2Proof.Machine
end

