-- ==== Sys2Proof/Machine/Churn.lean ====
section
/-! DEFINITION. The Churn: the expert table (R350 to R352), heat and the operator's settings (R353 to R355), the switch (R356,
R357), pins and forwarding (R358, R359), the merge of gradients (R360), and `vroute` (R258). -/

namespace Sys2Proof.Machine

/-- The registered table of a partition (R350). -/
def table? (s : State) (part : Nat) : Option Table := s.tables.find? fun t => t.part == part

/-- The state with a partition's table replaced. -/
def putTable (s : State) (t : Table) : State :=
  { s with tables := s.tables.map fun x => if x.part == t.part then t else x }

/-- The bytes of an inbox below a weight base (R352). -/
def inboxHead (t : Table) : Nat := divUp (0x80 + 8 * t.slots) 128 * 128
def inboxSize (t : Table) : Nat := divUp (inboxHead t + t.slots * t.rowBytes) 0x10000 * 0x10000

/-- The inbox of a replica (R352). -/
def inboxOf (t : Table) (r : Replica) : Nat := r.base - inboxSize t

/-- The whole range of a replica that the Churn made: its inbox and its weight pages (R352). -/
def replicaUse (t : Table) (r : Replica) : ArenaUse := ⟨r.die, inboxOf t r, inboxSize t + r.pages * 0x10000⟩

/-- The records of a version that lies in a frame (R351). -/
def versionRecords (t : Table) (v : Nat) : Option (List (List Replica)) :=
  (t.versions.find? fun x => x.1 == v).map fun x => x.2

/-- The replicas of an expert in a version; none at or above the table's experts. -/
def replicasOf (t : Table) (v e : Nat) : List Replica := ((versionRecords t v).getD []).getD e []

/-- The Churn as a writer (R271). -/
def churnWriter (part : Nat) : Writer := unitWriter part 5

/-- A range of an arena zeroed page by page (R350, R357, R358). A page that cannot be written when its turn comes stays as it is
(DESIGN CHOICE, entry 39). -/
def zeroUse (part : Nat) (s : State) (u : ArenaUse) : State :=
  (List.range (u.len / 0x10000)).foldl
    (fun s k => (devSet s (churnWriter part) (u.base + k * 0x10000) (List.replicate 0x10000 0)).1) s

/-- Ranges of an arena zeroed. -/
def zeroUses (part : Nat) (s : State) (us : List ArenaUse) : State := us.foldl (zeroUse part) s

/-- A version is pinned by a group, one that is saved or has ended included (R355, R359). -/
def versionPinned (s : State) (part v : Nat) : Bool := s.groups.any fun g => g.part == part && g.pinned.toNat == v

/-- A version has a submission that is not merged yet (R355). -/
def versionPending (t : Table) (v : Nat) : Bool := t.grads.any fun x => x.version == v

/-! ### The operator's settings (R354) -/

/-- The settings hot, cold, pool, frozen and failures of a partition. -/
def hotOf (s : State) (part : Nat) : Nat := bits (Sparse.get s.churn0 part).toNat 0 32
def coldOf (s : State) (part : Nat) : Nat := bits (Sparse.get s.churn0 part).toNat 32 32
def poolOf (s : State) (part : Nat) : Nat := bits (Sparse.get s.churn1 part).toNat 0 8
def frozenOf (s : State) (part : Nat) : Bool := bitOf (Sparse.get s.churn1 part).toNat 8
def failuresOf (s : State) (part : Nat) : Nat := bits (Sparse.get s.churn1 part).toNat 32 32

/-- A write of one dword of the settings: failures and the reserved bits keep what they read (R8, R354). -/
def churnSettingWrite (s : State) (part k : Nat) (v : Word) : State :=
  if k == 0 then { s with churn0 := Sparse.set s.churn0 part v }
  else
    let x := (v &&& 0x1FF) ||| (Sparse.get s.churn1 part &&& 0xFFFFFFFF00000000)
    { s with churn1 := Sparse.set s.churn1 part x }

/-- One more failure of a partition, saturating, with its envelope to the operator (R354, R357, R358). -/
def churnFailure (s : State) (part version expert : Nat) : State :=
  let old := (Sparse.get s.churn1 part).toNat
  let new := BitVec.ofNat 64 (bits old 0 32 + 2 ^ 32 * Nat.min (bits old 32 32 + 1) (2 ^ 32 - 1))
  let s1 := { s with churn1 := Sparse.set s.churn1 part new }
  envelope s1 .operator 8 0 (bits version 0 32 + 2 ^ 32 * bits expert 0 16) (noPlace part 0 0)

/-! ### Registration (R350, R351) -/

/-- The fields of a descriptor are valid (R350). -/
def tableDescOk (bs : List Byte) : Bool :=
  let f (o n : Nat) : Nat := bytesAt bs o n
  f 0 8 % 0x200000 == 0 && decide (1 ≤ f 8 4) && decide (f 8 4 ≤ 4096) && decide (64 ≤ f 0xC 4) &&
    decide (f 0xC 4 ≤ 4096) && f 0xC 4 % 64 == 0 &&
    ((List.range 16).any fun k => f 0x10 4 == 2 ^ (k + 1)) && f 0x14 44 == 0 && f 0xC0 64 == 0 &&
    (List.range 8).all fun d => f (0x40 + 16 * d) 8 % 0x10000 == 0 && f (0x48 + 16 * d) 8 % 0x10000 == 0

/-- A replica entry (R351). -/
def entryAt (bs : List Byte) (o : Nat) : Replica := ⟨bytesAt bs o 8, bytesAt bs (o + 8) 4, bytesAt bs (o + 12) 1⟩

/-- A primary's entry is valid (R351). -/
def primaryOk (bs : List Byte) (o : Nat) : Bool :=
  let r := entryAt bs o
  r.base % 0x10000 == 0 && r.pages != 0 && decide (r.die < 8) && bytesAt bs (o + 13) 3 == 0

/-- An entry names no replica, and its reserved bytes are zero (R351). -/
def noReplicaAt (bs : List Byte) (o : Nat) : Bool := bytesAt bs (o + 12) 1 == 0xFF && bytesAt bs (o + 13) 3 == 0

/-- Frame 0 holds a primary for every expert below `n`, and no other replica (R351). -/
def frame0Ok (n : Nat) (bs : List Byte) : Bool :=
  (List.range 4096).all fun e =>
    let rec_ := (bs.drop (128 * e)).take 128
    (if e < n then primaryOk rec_ 0 else noReplicaAt rec_ 0) &&
      (List.range 7).all fun r => noReplicaAt rec_ (16 * (r + 1))

/-- The places of the 32 pages of a table area, each of which the agent reads and writes; none if some page is not in local
memory (R350). A refusal sends its envelope (R21). -/
def areaPages (ag : Agent) : Nat → State → Nat → State × Option (List Nat)
  | 0, s, _ => (s, some [])
  | n + 1, s, va =>
    let r := resolve s ag va .atomic
    match r.2 with
    | .ok (.mem p) =>
      let q := areaPages ag n r.1 (va + 0x10000)
      (q.1, if p < hbmSize then q.2.map fun ps => p :: ps else none)
    | .fail _ gov => (refusalEnvelope r.1 gov, none)
    | _ => (r.1, none)

/-- The table that a descriptor and frame 0 register (R350). -/
def newTable (part : Nat) (desc frame : List Byte) (pages : List Nat) : Table :=
  let n := bytesAt desc 8 4
  { part := part, area := bytesAt desc 0 8, pages := pages, experts := n, rowBytes := bytesAt desc 0xC 4,
    slots := bytesAt desc 0x10 4,
    arenas := (List.range 8).map fun d => (bytesAt desc (0x40 + 16 * d) 8, bytesAt desc (0x48 + 16 * d) 8),
    version := 1, versions := [(1, (List.range n).map fun e => [entryAt (frame.drop (128 * e)) 0])],
    dieVersion := [(0, 1), (1, 1), (2, 1), (3, 1), (4, 1), (5, 1), (6, 1), (7, 1)], heat := [], lastHeat := [], uses := [],
    switch := none, forwards := [], grads := [], submitted := [] }

/-- A reply of an X function retires its instruction (R112). -/
def xeReply (d : Reg) (gid n : Nat) (s : State) : State := retireIn s gid fun g => setSreg g d (BitVec.ofNat 64 n)

/-- The unregistration (R350). -/
def unregister (s : State) (g : Group) (d : Reg) : State :=
  match table? s g.part with
  | none => xeReply d g.gid 0 s
  | some t =>
    if (s.groups.any fun x => x.part == g.part && x.pinned != 0) || !t.forwards.isEmpty || !t.grads.isEmpty then
      xeReply d g.gid 3 s
    else
      let s1 := zeroUses g.part s t.uses
      xeReply d g.gid 0 { s1 with tables := s1.tables.filter fun x => x.part != g.part }

/-- The registration, once its descriptor has been read (R350, R351). -/
def registerTable (s : State) (gid : Nat) (d : Reg) (desc : List Byte) : State :=
  match group? s gid with
  | none => s
  | some g =>
    if !tableDescOk desc then xeReply d gid 1 s
    else
      withData s g (bytesAt desc 0 8) 64 0x80000 (xeReply d gid 1) fun s frame =>
        let r := areaPages { agentOf g with unit := true } 32 s (bytesAt desc 0 8)
        match r.2 with
        | none => xeReply d gid 1 r.1
        | some pages =>
          if !frame0Ok (bytesAt desc 8 4) frame then xeReply d gid 1 r.1
          else if (table? s g.part).isSome then xeReply d gid 2 r.1
          else xeReply d gid 0 { r.1 with tables := r.1.tables ++ [newTable g.part desc frame pages] }

/-- XE_REG (R350). -/
def execXeReg (d a : Reg) (s : State) : Host.Outcome State Fault Refusal :=
  onDrained s fun g =>
    if a.toNat == 0 then unregister s g d
    else withData s g (sreg g a).toNat 64 256 (xeReply d g.gid 1) fun s desc => registerTable s g.gid d desc

/-! ### Reading the Churn (R353, R359) -/

/-- The heat of an expert on a die in the last closed window (R353). -/
def lastHeatOn (t : Table) (e die : Nat) : Nat := (Sparse.get t.lastHeat (die * 4096 + e)).toNat

/-- The heat of an expert over all dies in the last closed window (R353). -/
def totalHeat (t : Table) (e : Nat) : Nat := (List.range 8).foldl (fun n d => n + lastHeatOn t e d) 0

/-- XE_HEAT (R353). -/
def execXeHeat (d a b : Reg) (s : State) : Host.Outcome State Fault Refusal :=
  onDrained s fun g =>
    let e := (sreg g a).toNat
    let k := (sreg g b).toNat
    let v := match table? s g.part with
      | none => 0
      | some t => if t.experts ≤ e || 8 < k then 0 else if k == 8 then totalHeat t e else lastHeatOn t e k
    retire s (setSreg g d (BitVec.ofNat 64 v))

/-- The current version on a die (R356). -/
def versionOn (s : State) (part die : Nat) : Nat :=
  match table? s part with
  | none => 0
  | some t => (Sparse.get t.dieVersion die).toNat

/-- XE_VER (R359). -/
def execXeVer (d a : Reg) (s : State) : Host.Outcome State Fault Refusal :=
  onDrained s fun g =>
    let t := table? s g.part
    let v := match (sreg g a).toNat with
      | 0 => versionOn s g.part (seatOf g).1
      | 1 => ((t.bind fun t => t.switch).map fun w => w.step).getD 0
      | 2 => (Sparse.get s.fabric.kind4 g.part).toNat
      | 3 => failuresOf s g.part
      | _ => 0
    retire s (setSreg g d (BitVec.ofNat 64 v))

/-! ### Pins (R359) -/

/-- A group with a pin gives it up only when its accesses are performed and its copies have finished (R359). -/
def unpinWaits (g : Group) : Bool := !peersDone g || !copiesDone g

/-- XE_UNPIN (R359). -/
def execXeUnpin (d : Reg) (y : BitVec 1) (s : State) : Host.Outcome State Fault Refusal :=
  onDrained s fun g =>
    if unpinWaits g then s else retire s { xResult g d y g.pinned with pinned := 0 }

/-- XE_PIN (R309, R359). -/
def execXePin (d : Reg) (y : BitVec 1) (s : State) : Host.Outcome State Fault Refusal :=
  onDrained s fun g =>
    if g.pinned != 0 && unpinWaits g then s
    else
      let v := BitVec.ofNat 64 (versionOn s g.part (seatOf g).1)
      retire (acquireAt s g 3) { xResult g d y v with pinned := v }

/-- PIN_RELEASE_AT_END: a group that has ended gives up its pin once its copies have finished (R359). -/
def execPinReleaseAtEnd (gid : Nat) (s : State) : Host.Outcome State Fault Refusal :=
  .next (modGroup s gid fun g => if g.status == .ended && copiesDone g then { g with pinned := 0 } else g)

/-! ### Routing (R258) -/

/-- The replica that a lane's expert and key choose in a version, with its index (R258). -/
def routeTo (t : Table) (v e k : Nat) : Option (Replica × Nat) :=
  match replicasOf t v e with
  | [] => none
  | r :: rs =>
    let n := k % (rs.length + 1)
    (r :: rs)[n]?.map fun x => (x, n)

/-- One lookup of an expert on a die counted, saturating (R353). -/
def countHeat (die : Nat) (m : Sparse 32) (e : Nat) : Sparse 32 :=
  let x := (Sparse.get m (die * 4096 + e)).toNat
  Sparse.set m (die * 4096 + e) (BitVec.ofNat 32 (Nat.min (x + 1) (2 ^ 32 - 1)))

/-- VROUTE (R258, R353). -/
def execVroute (w : LaneOps) (s : State) : Host.Outcome State Fault Refusal :=
  let u : RegUses := ⟨useOf .n32, useOf .n32, useNone, ⟨4, true⟩⟩
  laneThen s 0xC4 w u noTiles fun c =>
    if c.g.pinned == 0 then trapLane s c.g 0x01
    else
      let at_ (i : Nat) : Option (Replica × Nat) :=
        match table? s c.g.part with
        | none => none
        | some t => routeTo t c.g.pinned.toNat (srcA c w .n32 i) (srcB c w .n32 i)
      let col (f : Option (Replica × Nat) → Nat) : List Nat := (List.range c.n).map fun i => f (at_ i)
      let vd := w.vd.toNat
      let found := c.lanes.filterMap fun i => (at_ i).map fun _ => srcA c w .n32 i
      let s1 := { s with tables := s.tables.map fun t =>
        if t.part == c.g.part then { t with heat := found.foldl (countHeat (seatOf c.g).1) t.heat } else t }
      laneCommit s1 c w u { laneNothing with vec :=
        [(vd, col fun x => (x.map fun r => r.1.die).getD 0xFFFFFFFF), (vd + 1, col fun x => (x.map fun r => r.2).getD 0),
         (vd + 2, col fun x => (x.map fun r => r.1.base % 2 ^ 32).getD 0),
         (vd + 3, col fun x => (x.map fun r => r.1.base / 2 ^ 32).getD 0)] }

/-! ### The window's decisions (R355) -/

/-- The lowest address of a die's arena at which `n` bytes are free (R352). -/
def arenaFit (arenas : List (Nat × Nat)) (uses : List ArenaUse) (die n : Nat) : Option Nat :=
  let a := arenas.getD die (0, 0)
  let mine := uses.filter fun u => u.die == die
  (sortBy (fun x y => decide (x ≤ y)) (a.1 :: mine.map fun u => u.base + u.len)).find? fun x =>
    decide (x + n ≤ a.1 + a.2) && mine.all fun u => decide (x + n ≤ u.base) || decide (u.base + u.len ≤ x)

/-- What a window has decided so far. -/
structure Decided where
  records : List (List Replica)
  uses : List ArenaUse
  gained : List (Nat × Replica)
  retired : List (Nat × Replica)

/-- Another retirement has a free forwarding record (R355, R358). -/
def recordFree (t : Table) (x : Decided) : Bool := decide (t.forwards.length + x.retired.length < 64)

/-- The replicas of an expert after its forced retirements, and the retirements so far (R355). -/
def forcedOut (t : Table) (dieOk : Nat → Bool) (e : Nat) : Decided → List Replica → List Replica × Decided
  | x, [] => ([], x)
  | x, r :: rs =>
    if !dieOk r.die && recordFree t x then forcedOut t dieOk e { x with retired := x.retired ++ [(e, r)] } rs
    else
      let q := forcedOut t dieOk e x rs
      (r :: q.1, q.2)

/-- A new replica of an expert on the lowest die that qualifies (R355). -/
def gainReplica (t : Table) (dieOk : Nat → Bool) (x : Decided) (recs : List Replica) : Option (Replica × ArenaUse) :=
  let pages := (recs.head?.map fun r => r.pages).getD 0
  let n := inboxSize t + pages * 0x10000
  (List.range 8).findSome? fun d =>
    if dieOk d && !(recs.any fun r => r.die == d) then
      (arenaFit t.arenas x.uses d n).map fun a => (⟨a + inboxSize t, pages, d⟩, ⟨d, a, n⟩)
    else none

/-- The decision for one expert (R355). -/
def decideExpert (s : State) (t : Table) (x : Decided) (e : Nat) (old : List Replica) : Decided :=
  let dieOk (d : Nat) : Bool := bitOf (poolOf s t.part) d && leased s d t.part
  let total := totalHeat t e
  let hot := hotOf s t.part != 0 && decide (hotOf s t.part ≤ total)
  let cold := coldOf s t.part != 0 && decide (total < coldOf s t.part)
  match old with
  | [] => { x with records := x.records ++ [[]] }
  | p :: rs =>
    let q := forcedOut t dieOk e x rs
    let recs := p :: q.1
    let y := q.2
    if hot && !cold && decide (recs.length < 8) && decide (y.gained.length < 16) then
      (match gainReplica t dieOk y recs with
       | none => { y with records := y.records ++ [recs] }
       | some (r, u) =>
         { y with records := y.records ++ [recs ++ [r]], uses := y.uses ++ [u], gained := y.gained ++ [(e, r)] })
    else if cold && !hot && decide (1 < recs.length) && recordFree t y then
      { y with records := y.records ++ [recs.dropLast],
               retired := y.retired ++ (recs.getLast?.toList.map fun r => (e, r)) }
    else { y with records := y.records ++ [recs] }

/-- The decisions for the experts from `e` on. -/
def decideAll (s : State) (t : Table) : Decided → Nat → List (List Replica) → Decided
  | x, _, [] => x
  | x, e, recs :: rest => decideAll s t (decideExpert s t x e recs) (e + 1) rest

/-- A window makes decisions (R355, R356). -/
def mayDecide (s : State) (t : Table) : Bool :=
  !frozenOf s t.part && t.switch.isNone && decide (t.version < 0xFFFFFFFF) &&
    (t.version < 4 || !(versionPinned s t.part (t.version - 3) || versionPending t (t.version - 3))) &&
    !halted s t.part

/-- CHURN_WINDOW_CLOSE: the counters are read and cleared, and a switch begins if a decision is made (R353, R355). -/
def execChurnWindowClose (part : Nat) (s : State) : Host.Outcome State Fault Refusal :=
  .next <|
    match table? s part with
    | none => s
    | some t0 =>
      let t := { t0 with lastHeat := t0.heat, heat := [] }
      if !mayDecide s t then putTable s t
      else
        let x := decideAll s t ⟨[], t.uses, [], []⟩ 0 ((versionRecords t t.version).getD [])
        if x.gained.isEmpty && x.retired.isEmpty then putTable s t
        else
          putTable s { t with
            uses := x.uses
            switch := some ⟨1, x.records, x.gained.map fun r => replicaUse t r.2, x.gained, x.retired, [], []⟩ }

/-! ### The switch (R356, R357) -/

/-- The switch of a table changed. -/
def setSwitch (s : State) (t : Table) (w : Switch) : State := putTable s { t with switch := some w }

/-- The primary of an expert in the current version. -/
def primaryOf (t : Table) (e : Nat) : Replica := (replicasOf t t.version e).headD ⟨0, 0, 0⟩

/-- The new replicas copied one after another, with the experts whose copy faults (R352, R356). -/
def copyReplicas (t : Table) : State → List (Nat × Replica) → State × List Nat
  | s, [] => (s, [])
  | s, (e, r) :: rest =>
    let p := primaryOf t e
    let m := devMany t.part s
      [(.load, p.base, p.pages * 0x10000), (.store, inboxOf t r, inboxSize t), (.store, r.base, r.pages * 0x10000)]
    match m.2 with
    | .ok true [src, inbox, dst] =>
      let bs := placesRead m.1 src
      let s1 := placesWrite (churnWriter t.part) m.1 inbox (List.replicate (inboxSize t) 0)
      copyReplicas t (placesWrite (churnWriter t.part) s1 dst bs) rest
    | _ =>
      let q := copyReplicas t m.1 rest
      (q.1, e :: q.2)

/-- The experts whose copy differs from the primary as it stands, or cannot be read back (R356, R357, R362). -/
def differing (t : Table) : State → List (Nat × Replica) → State × List Nat
  | s, [] => (s, [])
  | s, (e, r) :: rest =>
    let p := primaryOf t e
    let a := devGet s t.part p.base (p.pages * 0x10000)
    let b := devGet a.1 t.part r.base (r.pages * 0x10000)
    let q := differing t b.1 rest
    (q.1, if a.2.isSome && a.2 == b.2 then q.2 else e :: q.2)

/-- A record as a frame holds it: eight entries, the unused ones with die 0xFF (R351). Base and pages of an unused entry are
those of the record of the version before (DESIGN CHOICE, entry 39). -/
def recordBytes (old : List Byte) (rs : List Replica) : List Byte :=
  ((List.range 8).map fun i =>
    match rs[i]? with
    | some r => natToBytes 8 r.base ++ natToBytes 4 r.pages ++ natToBytes 1 r.die ++ natToBytes 3 0
    | none => natToBytes 12 (bytesAt old (16 * i) 12) ++ natToBytes 1 0xFF ++ natToBytes 3 0).flatten

/-- A frame in full, after the frame of the version before (R351, R356). -/
def frameBytes (old : List Byte) (recs : List (List Replica)) : List Byte :=
  ((List.range 4096).map fun e => recordBytes ((old.drop (128 * e)).take 128) (recs.getD e [])).flatten

/-- The address of the frame of a version (R351). -/
def frameBase (t : Table) (v : Nat) : Nat := t.area + 0x80000 * ((v - 1) % 4)

/-- The eight pages of a frame (R351). -/
def framePages (t : Table) (v : Nat) : List (Acc × Nat × Nat) :=
  (List.range 8).map fun k => (Acc.store, frameBase t v + 0x10000 * k, 0x10000)

/-- A retirement takes effect: the tail is read, the retired word is written, and a forwarding record is made (R358). -/
def retireReplica (part : Nat) (v : Nat) (s : State) (x : Nat × Replica) : State :=
  match table? s part with
  | none => s
  | some t =>
    let inbox := inboxOf t x.2
    let r := devGet s part inbox 8
    let t0 := bytesToNat (r.2.getD [])
    let s1 := (devSet r.1 (churnWriter part) (inbox + 8) (natToBytes 8 (2 ^ 63 + t0 % 2 ^ 63))).1
    putTable s1 { t with forwards := t.forwards ++ [⟨x.1, x.2, v, t0⟩] }

/-- The submissions of a version that leaves the frames, and of which some replica has not submitted, complete with all ones (R360).
DESIGN CHOICE (entry 39). -/
def dropSubmissions (s : State) (t : Table) (v : Nat) : State :=
  (t.grads.filter fun x => decide (x.version + 4 ≤ v)).foldl (fun s x =>
    (devSet s (churnWriter t.part) x.word (natToBytes 8 (2 ^ 64 - 1))).1) s

/-- The version notice sent to the dies, and a message where the partition has a function in another package (R356). -/
def publishVersion (s0 : State) (t : Table) (w : Switch) : State :=
  let v := t.version + 1
  let s := dropSubmissions s0 t v
  let s1 := putTable s { t with
    version := v
    versions := (t.versions.filter fun x => decide (v < x.1 + 4)) ++ [(v, w.records)]
    submitted := t.submitted.filter fun x => decide (v < x.1 + 4)
    grads := t.grads.filter fun x => decide (v < x.version + 4)
    switch := some { w with step := 4, notices := List.range 8 } }
  let s2 := w.retired.foldl (retireReplica t.part v) s1
  if !functionElsewhere s t.part then s2
  else sendMessage { s2 with nextId := s2.nextId + 1 } s2.nextId { plainMessage s2 4 t.part with arg := v }

/-- Every replica that a version lists for an expert has submitted its gradient (R360). -/
def setFull (t : Table) (v e : Nat) : Bool :=
  (List.range (replicasOf t v e).length).all fun r => t.grads.any fun x => x.version == v && x.expert == e && x.replica == r

/-- The submissions of the version whose frame a switch takes are complete for some expert: their merge comes first (R360). -/
def mergeFirst (t : Table) : Bool :=
  t.grads.any fun x => decide (x.version + 3 ≤ t.version) && setFull t x.version x.expert

/-- The lowest expert of a page of a frame whose record cannot be written (R357). -/
def unwritable (s : State) (t : Table) (v page : Nat) : Nat :=
  (((List.range 512).map fun e => 512 * page + e).find? fun e =>
    match (devRange s t.part .store (frameBase t v + 128 * e) 128).2 with
    | .fail _ => true
    | .ok _ => false).getD (512 * page)

/-- CHURN_SWITCH_PUBLISH: a switch takes its next step. The replicas are copied; then they are verified, the frame is written
and the version is published. A step that fails notes the experts, and goes no further (R356, R357). The grain is a DESIGN
CHOICE (entry 39). -/
def execChurnSwitchPublish (part : Nat) (s : State) : Host.Outcome State Fault Refusal :=
  .next <|
    match table? s part with
    | none => s
    | some t =>
      match t.switch with
      | none => s
      | some w =>
        if !w.failed.isEmpty then s
        else if w.step == 1 then
          let r := copyReplicas t s w.gained
          match r.2 with
          | [] => setSwitch r.1 t { w with step := 2 }
          | es => setSwitch r.1 t { w with failed := es }
        else if w.step == 2 && !mergeFirst t then
          let x := differing t s w.gained
          match x.2 with
          | [] =>
            let o := devGet x.1 part (frameBase t t.version) 0x80000
            let m := devMany part o.1 (framePages t (t.version + 1))
            (match m.2 with
             | .ok false pss => setSwitch m.1 t { w with failed := [unwritable m.1 t (t.version + 1) pss.length] }
             | .ok true pss =>
               publishVersion (placesWrite (churnWriter part) m.1 pss.flatten (frameBytes (o.2.getD []) w.records)) t w)
          | es => setSwitch x.1 t { w with failed := es }
        else s

/-- The ranges that a switch took go back to their arenas, zeroed (R350, R357). -/
def rollBack (s : State) (t : Table) (w : Switch) : State :=
  putTable (zeroUses t.part s w.taken) { t with switch := none, uses := t.uses.filter fun u => !w.taken.contains u }

/-- CHURN_SWITCH_FAIL: a switch with a failed copy, comparison or frame write is rolled back (R357). -/
def execChurnSwitchFail (part : Nat) (s : State) : Host.Outcome State Fault Refusal :=
  .next <|
    match table? s part with
    | none => s
    | some t =>
      match t.switch with
      | none => s
      | some w =>
        match w.failed with
        | [] => s
        | e :: es => churnFailure (rollBack s t w) part (t.version + 1) (es.foldl Nat.min e)

/-- A die enters reset: a switch that copies to it and is not published fails, and the die leaves the pool (R357, R362). -/
def churnDieReset (die : Nat) (s : State) (t : Table) : State :=
  match t.switch with
  | none => s
  | some w =>
    match w.gained.filter fun x => x.2.die == die with
    | [] => s
    | x :: xs =>
      if w.step == 4 then s
      else
        let s1 := churnFailure (rollBack s t w) t.part (t.version + 1) (w.failed.foldl Nat.min (xs.foldl (fun n y => Nat.min n y.1) x.1))
        let pool := Sparse.get s1.churn1 t.part &&& ~~~(BitVec.ofNat 64 (2 ^ die))
        { s1 with churn1 := Sparse.set s1.churn1 t.part pool }

/-- VERSION_NOTICE: a die's current version rises; with the last die the switch is over (R356). -/
def execVersionNotice (part die : Nat) (s : State) : Host.Outcome State Fault Refusal :=
  .next <|
    match table? s part with
    | none => s
    | some t =>
      match t.switch with
      | none => s
      | some w =>
        if !w.notices.contains die then s
        else
          let rest := w.notices.filter fun d => d != die
          putTable s { t with
            dieVersion := Sparse.set t.dieVersion die (BitVec.ofNat 32 t.version)
            switch := if rest.isEmpty then none else some { w with notices := rest } }

/-! ### Forwarding (R358) -/

/-- Forwarding record `n` of a partition's table. -/
def forwardAt (s : State) (part n : Nat) : Option (Table × Forward) :=
  (table? s part).bind fun t => t.forwards[n]?.map fun f => (t, f)

/-- A forwarding record goes on with the next slot. -/
def slotDone (s : State) (part n : Nat) : State :=
  let step (f : Forward) : Forward := { f with next := f.next + 1 }
  { s with tables := s.tables.map fun t =>
      if t.part == part then
        { t with forwards := listSet t.forwards n (step (t.forwards.getD n ⟨0, ⟨0, 0, 0⟩, 0, 0⟩)) }
      else t }

/-- A slot is dropped (R358). -/
def slotDropped (s : State) (part n : Nat) (f : Forward) : State :=
  churnFailure (slotDone s part n) part f.version f.expert

/-- SLOT_FORWARD: the next slot of a retired inbox, its tag set, goes to the primary of the current version: claim, row, tag. A
step that faults drops the slot (R358). The grain is a DESIGN CHOICE (entry 39). -/
def execSlotForward (part n : Nat) (s : State) : Host.Outcome State Fault Refusal :=
  .next <|
    match forwardAt s part n with
    | none => s
    | some (t, f) =>
      let w := churnWriter part
      let k := f.next % t.slots
      let inbox := inboxOf t f.replica
      let seen := devGet s part (inbox + 0x80 + 8 * k) 8
      if seen.2.map bytesToNat != some (f.next + 1) then seen.1
      else
        let target := inboxOf t (primaryOf t f.expert)
        let m := devMany part seen.1 [(.atomic, target, 8)]
        match m.2 with
        | .ok true [tail] =>
          let u := bytesToNat (placesRead m.1 tail)
          let j := u % t.slots
          let q := devMany part m.1
            [(.load, inbox + inboxHead t + k * t.rowBytes, t.rowBytes), (.store, target + inboxHead t + j * t.rowBytes, t.rowBytes),
             (.store, target + 0x80 + 8 * j, 8)]
          let claim (s : State) : State := placesWrite w s tail (natToBytes 8 (u + 1))
          (match q.2 with
           | .ok true [src, dst, tag] =>
             let row := placesRead q.1 src
             slotDone (placesWrite w (placesWrite w (claim q.1) dst row) tag (natToBytes 8 (u + 1))) part n
           | .ok _ [src, dst] =>
             slotDropped (placesWrite w (claim q.1) dst (placesRead q.1 src)) part n f
           | _ => slotDropped (claim q.1) part n f)
        | _ => slotDropped m.1 part n f

/-- No pin and no pending submission remains on a version that lists a replica (R358). -/
def replicaFree (s : State) (t : Table) (f : Forward) : Bool :=
  t.versions.all fun x => !(x.2.getD f.expert []).contains f.replica ||
    !(versionPinned s t.part x.1 || versionPending t x.1)

/-- FORWARDING_RECORD_END: the record goes, and its replica's pages, zeroed, go back to the arena (R358). -/
def execForwardingRecordEnd (part n : Nat) (s : State) : Host.Outcome State Fault Refusal :=
  .next <|
    match forwardAt s part n with
    | none => s
    | some (t, f) =>
      let r := devGet s part (inboxOf t f.replica) 8
      if !replicaFree s t f || decide (f.next < bytesToNat (r.2.getD [])) then r.1
      else
        let u := replicaUse t f.replica
        putTable (zeroUse part r.1 u) { t with
          forwards := t.forwards.eraseIdx n
          uses := t.uses.filter fun x => x != u }

/-! ### Gradients (R360) -/

/-- A submission's descriptor is valid (R360). -/
def gradOk (bs : List Byte) : Bool :=
  let f (o n : Nat) : Nat := bytesAt bs o n
  f 7 1 == 0 && f 8 8 % 64 == 0 && decide (1 ≤ f 0x10 4) && decide (f 0x10 4 ≤ 2 ^ 24) && f 0x14 4 == 0 &&
    (if f 6 1 == 0 then f 0x18 8 % 64 == 0 else f 0x18 8 == 0) && f 0x20 8 % 8 == 0 && f 0x30 16 == 0

/-- The merges with submissions outstanding in the package (R360). -/
def mergesOpen (s : State) : List (Nat × Nat × Nat) :=
  (s.tables.flatMap fun t => t.grads.map fun x => (t.part, x.version, x.expert)).eraseDups

/-- A submission whose descriptor has been read (R360). -/
def submitGrad (s0 : State) (d : Reg) (g : Group) (s : State) (bs : List Byte) : State :=
  let f (o n : Nat) : Nat := bytesAt bs o n
  let v := f 0 4
  let e := f 4 2
  let r := f 6 1
  if !gradOk bs then xeReply d g.gid 1 s
  else
    match table? s g.part with
    | none => xeReply d g.gid 3 s
    | some t =>
      if (replicasOf t v e).length ≤ r then xeReply d g.gid 3 s
      else if t.submitted.contains (v, e, r) then xeReply d g.gid 2 s
      else if !(mergesOpen s).contains (g.part, v, e) && decide (64 ≤ (mergesOpen s).length) then s0
      else
        xeReply d g.gid 0 (putTable s { t with
          submitted := t.submitted ++ [(v, e, r)]
          grads := t.grads ++ [⟨g.region, v, e, r, f 8 8, f 0x10 4, f 0x18 8, f 0x20 8, BitVec.ofNat 64 (f 0x28 8)⟩] })

/-- XE_GRAD (R360). -/
def execXeGrad (d a : Reg) (s : State) : Host.Outcome State Fault Refusal :=
  onDrained s fun g =>
    if !(g.peers.all fun p => p.reply.isSome || p.copy != 0 || p.op == .read) then s
    else withData s g (sreg g a).toNat 8 64 (xeReply d g.gid 1) fun s1 bs => submitGrad s d g s1 bs

/-- Element `i` of the merge of gradients: the sum in ascending replica order (R202, R360). -/
def mergedElem (gs : List (List Byte)) (i : Nat) : Nat :=
  match gs with
  | [] => 0
  | g :: rest => rest.foldl (fun d r => faddBits (fmtOf .f32) d (bytesAt r (4 * i) 4)) (bytesAt g (4 * i) 4)

/-- The completion words of submissions written where they can be (R360). -/
def gradWords (part : Nat) (value : Grad → Nat) (s : State) (subs : List Grad) : State :=
  subs.foldl (fun s x => (devSet s (churnWriter part) x.word (natToBytes 8 (value x))).1) s

/-- GRADIENT_MERGE: every replica of the version has submitted; the sum is written, and then each completion value; counts that
differ, or a fault, leave the destination as it is and complete with all ones (R360). -/
def execGradientMerge (part version expert : Nat) (s : State) : Host.Outcome State Fault Refusal :=
  .next <|
    match table? s part with
    | none => s
    | some t =>
      let n := (replicasOf t version expert).length
      let subs := (List.range n).filterMap fun r =>
        t.grads.find? fun x => x.version == version && x.expert == expert && x.replica == r
      match subs with
      | [] => s
      | x :: xs =>
        if subs.length != n || halted s part then s
        else
          let done (s : State) : State := { s with tables := s.tables.map fun t =>
            if t.part == part then
              { t with grads := t.grads.filter fun y => !(y.version == version && y.expert == expert) }
            else t }
          let ones (s : State) : State := done (gradWords part (fun _ => 2 ^ 64 - 1) s subs)
          if !(xs.all fun y => y.count == x.count) then ones s
          else
            let m := devMany part s
              ((Acc.store, x.dest, 4 * x.count) :: subs.map fun y => (Acc.load, y.addr, 4 * x.count))
            match m.2 with
            | .ok true (dst :: srcs) =>
              let gs := srcs.map (placesRead m.1)
              let out := ((List.range x.count).map fun i => natToBytes 4 (mergedElem gs i)).flatten
              let s1 := placesWrite (churnWriter part) m.1 dst out
              done (gradWords part (fun y => y.value.toNat) s1 subs)
            | _ => ones m.1

end Sys2Proof.Machine
end

