-- ==== Sys2Proof/Machine/Fabric.lean ====
section
/-! DEFINITION. The fabric as this package sees it: requests of peers performed here (R316, R330, R334, R341), the answers to
its own (R330, R333, R335, R336), and the links with their fibres, relays and wavelengths (R331 to R333, R412). -/

namespace Sys2Proof.Machine

/-! ### Requests of peers -/

/-- The partition's function in this package is torn down (R336). DEDUCED (entry 37). -/
def functionGone (s : State) (part : Nat) : Bool := s.fabric.tornDown.contains (s.fabric.pkg, part)

/-- A reply to a peer. -/
def replyPeer (s : State) (ok : Bool) (data : List Byte) : State := modFabric s fun f => { f with reply := (ok, data) }

/-- A peer's group as the writer of a store (R271). -/
def peerWriter (r : PeerRequest) : Writer := ⟨7, r.part, 0, 0, 8, 0, r.source⟩

/-- An atomic that another agent performs at a place: its old value and the state after it (R110, R162). -/
def foreignAtomic (s : State) (w : Writer) (place size op : Nat) (data comparand : List Byte) : State × List Byte :=
  let old := Sparse.readLE s.mem place size
  let v := bytesAt data 0 size
  let cmp := bytesAt comparand 0 size
  if op == 9 && old != cmp then (s, natToBytes size old)
  else (storeBytes s w (.mem place) (natToBytes size (amoNew op size old v cmp)), natToBytes size old)

/-- A request into a counter area or an expert table fails; for counters their auditor is told (R21, R53, R351). -/
def refusePeer (s : State) (r : PeerRequest) : State :=
  replyPeer (if inCounterArea s r.addr then refusalEnvelope s (some (countersPlace r.part)) else s) false [0x12]

/-- A request checked against the page ownership table and performed, with its reply; while the partition is
being reset none of its pages is read (R18, R34, R53, R263, R330, R334). -/
def performPeer (s : State) (r : PeerRequest) : State :=
  if functionGone s r.part then replyPeer s false [0x15]
  else if !pageOwned s r.part r.addr then
    replyPeer (refusalEnvelope s (some (pagePlace s r.addr))) false [0x13]
  else if rangeBad s r.addr (Nat.max 1 r.size) || (r.op != .write && readBarred s r.part) then replyPeer s false [0x12]
  else
    match r.op with
    | .read => replyPeer s true (Sparse.getRange s.mem r.addr r.size)
    | .write =>
      if inCounterArea s r.addr || inTableArea s r.addr then refusePeer s r
      else replyPeer (storeBytes s (peerWriter r) (.mem r.addr) (r.data.take r.size)) true []
    | .atomic op =>
      if inCounterArea s r.addr || inTableArea s r.addr then refusePeer s r
      else
        let x := foreignAtomic s (peerWriter r) r.addr r.size op r.data r.comparand
        replyPeer x.1 true x.2

/-- Two requests touch a common byte. -/
def requestsMeet (a b : PeerRequest) : Bool := decide (a.addr < b.addr + b.size) && decide (b.addr < a.addr + a.size)

/-- A release whose counted stores have not all arrived (R316). -/
def releaseWaits (l : Link) (r : PeerRequest) : Bool :=
  match r.release with
  | none => false
  | some n => !countMet l r.cover n

/-- A request performed: it uses up its units of the allowance granted to its partition, and its position has arrived, whether it
succeeded or failed (R316, R318, R335). -/
def performFrom (s : State) (r : PeerRequest) : State :=
  modLink (performPeer s r) r.source fun l =>
    noteArrived r.pos { l with
      granted := Sparse.set l.granted r.part (BitVec.ofNat 32 ((Sparse.get l.granted r.part).toNat - askUnits r.size)) }

/-- A request that is here already: duplicates are dropped by their stream position (R333). -/
def duplicate (l : Link) (r : PeerRequest) : Bool := arrivedPos l r.pos && r.pos != 0 || l.held.any fun h => h.pos == r.pos && r.pos != 0

/-- PEER_REQUEST_ARRIVE: a stamped request waits until its message has been applied, and any request to a page that is being
zeroed waits; a release, a request behind a drain marker, and one that follows a held request to the same bytes are held;
every other is performed (R134, R267, R316, R330, R333, R341). -/
def execPeerRequestArrive (req : PeerRequest) (s : State) : Host.Outcome State Fault Refusal :=
  .next <|
    match link? s req.source with
    | none => s
    | some l =>
      if s.fabric.applied < req.stamp || beingZeroed s req.addr || duplicate l req then s
      else if l.marker || releaseWaits l req || l.held.any (requestsMeet req) then
        modLink s req.source fun l => { l with held := l.held ++ [req] }
      else performFrom s req

/-- The first held request of a link that may be performed: its counted stores have arrived, its page is not being zeroed, and no
request held before it touches its bytes (R267, R316). -/
def heldNext (s : State) (l : Link) : List PeerRequest → List PeerRequest → Option PeerRequest
  | _, [] => none
  | before, r :: rest =>
    if releaseWaits l r || beingZeroed s r.addr || before.any (requestsMeet r) then heldNext s l (before ++ [r]) rest else some r

/-- The held requests of a link performed as far as they can be. -/
def performHeld : Nat → State → Nat → State
  | 0, s, _ => s
  | fuel + 1, s, peer =>
    match link? s peer with
    | none => s
    | some l =>
      match heldNext s l [] l.held with
      | none => s
      | some r => performHeld fuel (performFrom (modLink s peer fun l => { l with held := l.held.erase r }) r) peer

/-- STREAM_RELEASE_PERFORM (R316). -/
def execStreamReleasePerform (source : Nat) (s : State) : Host.Outcome State Fault Refusal :=
  .next <|
    match link? s source with
    | none => s
    | some l => if l.marker then s else performHeld l.held.length s source

/-- DRAIN_MARKER_ARRIVE: traffic on the new path of a peer's stream is performed from here on (R333). -/
def execDrainMarkerArrive (source : Nat) (s : State) : Host.Outcome State Fault Refusal :=
  .next <|
    match link? s source with
    | none => s
    | some l => if l.marker then performHeld l.held.length (modLink s source fun l => { l with marker := false }) source else s

/-! ### Answers -/

/-- The group that waits for the answer to a ticket. -/
def asker (s : State) (ticket : Nat) : Option (Group × PeerAccess) :=
  s.groups.findSome? fun g => (g.peers.find? fun p => p.ticket == ticket && p.reply.isNone).map fun p => (g, p)

/-- The load cache after an answer to a request of a group: what the core held or had asked for of the line is older, and goes; a
whole line is kept if the core still waits for it, so that nothing has come between that an acquire, a store or a newer answer made
visible (R134, R263, R307, R310). -/
def answerCache (s : State) (g : Group) (p : PeerAccess) (line : Option (List Byte)) : State :=
  let key := alignDown (peerKey g.part p.pkg p.addr) 128
  let ag := agentOf g
  let s1 := if isBound g then dropLineAt s ag.die ag.core key else s
  match line, s.cache.find? fun c => c.asked == some p.ticket with
  | some data, some c => { s1 with cache := ⟨c.die, c.core, false, key, Sparse.ofList 0 data, none⟩ :: s1.cache }
  | _, _ => s1

/-- The answer to a load: a whole line for the load cache, or the bytes alone, of which the instruction takes its own (R263, R330).
That a peer may send the one or the other is a DESIGN CHOICE (entry 9). -/
def answerLine (p : PeerAccess) (ok : Bool) (data : List Byte) : Option (List Byte) × List Byte :=
  if ok && p.op == .read && p.copy == 0 && data.length == 128 && decide (p.size < 128) then
    (some data, (data.drop (p.addr % 128)).take p.size)
  else (none, data)

/-- An answer given to a request: a store's acknowledgement ends it, or leaves its failure pending in its place in program order; a
load or atomic keeps the answer for its instruction, unless that makes the request anew; a store of a copy stops the copy (R21,
R280, R291, R318, R330). -/
def answerPeer (s : State) (g : Group) (p : PeerAccess) (ok : Bool) (data : List Byte) : State :=
  match p.op with
  | .write =>
    let g1 := { g with peers := g.peers.filter fun x => x.ticket != p.ticket }
    let e := { p.entry with cause := replyCause data }
    if p.redone && p.copy == 0 then putGroup s g1
    else if ok then
      (if p.copy != 0 && g.copies.any fun c => c.num == p.copy && !c.word then
        countRegion (putGroup s g1) g.part g.region 0x0B p.size
       else putGroup s g1)
    else if p.copy == 0 then putGroup s { g1 with pend := pendAdd g1.pend p.ticket e }
    else putGroup s { g1 with copies := g1.copies.map fun c => if c.num == p.copy then { c with fault := some e } else c }
  | _ =>
    if p.redone then putGroup s { g with peers := g.peers.filter fun x => x.ticket != p.ticket }
    else
      let r := answerLine p ok data
      putGroup (if p.copy == 0 then answerCache s g p r.1 else s)
        { g with peers := g.peers.map fun x => if x.ticket == p.ticket then { x with reply := some (ok, r.2) } else x }

/-- A late reply of a peer is dropped and counted (R331, R336). -/
def replyDropped (s : State) (peer : Nat) : State :=
  modLink s peer fun l => { l with dropped := Nat.min (l.dropped + 1) (2 ^ 32 - 1) }

/-- PEER_REPLY_ARRIVE: an answer reaches its group; one that reaches a function torn down here is dropped and counted (R331,
R336, R386). -/
def execPeerReplyArrive (ticket : Nat) (ok : Bool) (data : List Byte) (s : State) : Host.Outcome State Fault Refusal :=
  .next <|
    match asker s ticket with
    | none =>
      (match s.fabric.late.find? fun x => x.1 == ticket with
       | none => s
       | some x => replyDropped (modFabric s fun f => { f with late := f.late.filter fun y => y.1 != ticket }) x.2)
    | some (g, p) =>
      if s.fabric.tornDown.contains (s.fabric.pkg, g.part) then replyDropped s p.pkg
      else countFabric (answerPeer s g p ok data) g.gid (if ok then data.length else 0)

/-- A store at a position of a stream has failed: the messages that wait to be sent count it no more (R318, R343). -/
def uncounted (s : State) (pkg pos : Nat) : State :=
  let less (m : CreamMsg) : CreamMsg :=
    let marks := m.marks.filter fun y => y != (pkg, pos)
    { m with marks := marks, counts := listSet m.counts pkg ((marks.filter fun y => y.1 == pkg).length % 2 ^ 24) }
  modFabric s fun f => { f with queue := f.queue.map fun x => (x.1, if x.2.marks.contains (pkg, pos) then less x.2 else x.2) }

/-- PEER_UNREACHABLE_TIMEOUT: an access to a peer that no path leads to fails with 0x15; a store counts as arrived, so that no
release or message counts it any more (R318, R333, R343). -/
def execPeerUnreachableTimeout (ticket : Nat) (s : State) : Host.Outcome State Fault Refusal :=
  .next <|
    match asker s ticket with
    | none => s
    | some (g, p) =>
      if reachable s p.pkg g.part then s
      else answerPeer (uncounted s p.pkg p.pos) { g with stores := g.stores.filter fun x => x != (p.pkg, p.pos) } p false [0x15]

/-- ALLOWANCE_GRANT: units for one partition (R335). -/
def execAllowanceGrant (grantee : PeerFunction) (units : Nat) (s : State) : Host.Outcome State Fault Refusal :=
  .next (modLink s grantee.peer fun l =>
    { l with allowance := Sparse.set l.allowance grantee.part (Sparse.get l.allowance grantee.part + BitVec.ofNat 32 units) })

/-- Units granted by this package to a partition of a peer (R335). -/
def grantTo (s : State) (peer part units : Nat) : State :=
  modLink s peer fun l => { l with granted := Sparse.set l.granted part (Sparse.get l.granted part + BitVec.ofNat 32 units) }

/-- A partition's fabric function in another package comes or goes (R336). -/
def peerFunction (s : State) (pkg part : Nat) (present : Bool) : State :=
  modFabric s fun f =>
    let rest := f.functions.filter fun x => x != (pkg, part)
    { f with functions := if present then (pkg, part) :: rest else rest
             tornDown := if present then f.tornDown.filter fun x => x != (pkg, part) else f.tornDown }

/-- The stream between two other packages fails or lives again (R333). -/
def farStream (s : State) (source target : Nat) (up : Bool) : State :=
  let rest := s.fabric.farDown.filter fun x => x != (source, target)
  pathsChanged (modFabric s fun f => { f with farDown := if up then rest else (source, target) :: rest })

/-! ### Links -/

/-- A fibre of a link taken out of service; a stream left without a live fibre goes through its relay, and of a failed inbound
one nothing is performed before its drain marker (R332, R333). -/
def fibreDown (s : State) (peer : Nat) (outbound : Bool) (fibre : Nat) : State :=
  if fibresPerPeer s ≤ fibre then s
  else
    let add (xs : List Nat) : List Nat := if xs.contains fibre then xs else xs ++ [fibre]
    pathsChanged <| modLink s peer fun l =>
      if outbound then { l with outDown := add l.outDown }
      else
        let d := add l.inDown
        { l with inDown := d, marker := l.marker || (d.length == fibresPerPeer s && l.inDown.length != d.length) }

/-- FIBRE_FAIL (R332, R333). -/
def execFibreFail (peer : Nat) (outbound : Bool) (fibre : Nat) (s : State) : Host.Outcome State Fault Refusal :=
  .next (fibreDown s peer outbound fibre)

/-- The wavelengths of a fibre that are out of service. -/
def lostOn (l : Link) (outbound : Bool) (fibre : Nat) : Nat :=
  ((if outbound then l.outLost else l.inLost).filter fun x => x.1 == fibre).length

/-- RING_LOCK_LOSS: a wavelength leaves service, and with its last one the fibre (R331). -/
def execRingLockLoss (peer : Nat) (outbound : Bool) (fibre wave : Nat) (s : State) : Host.Outcome State Fault Refusal :=
  .next <|
    if fibresPerPeer s ≤ fibre || 16 ≤ wave then s
    else
      let add (xs : List (Nat × Nat)) : List (Nat × Nat) := if xs.contains (fibre, wave) then xs else xs ++ [(fibre, wave)]
      let s1 := modLink s peer fun l => if outbound then { l with outLost := add l.outLost } else { l with inLost := add l.inLost }
      match link? s1 peer with
      | none => s1
      | some l => if lostOn l outbound fibre == 16 then fibreDown s1 peer outbound fibre else s1

/-- STREAM_RETURN_TO_DIRECT_PATH: the fibres of a failed stream are live again, and traffic returns to them; of the inbound
stream nothing is performed before the marker that comes with it (R333). -/
def execStreamReturnToDirectPath (peer : Nat) (s : State) : Host.Outcome State Fault Refusal :=
  .next <|
    match link? s peer with
    | none => s
    | some l =>
      pathsChanged <| modLink s peer fun x =>
        { x with
          outDown := if outLive s l then x.outDown else []
          outLost := if outLive s l then x.outLost else []
          inDown := if inLive s l then x.inDown else []
          inLost := if inLive s l then x.inLost else []
          relay := none
          marker := x.marker || !inLive s l }

/-- The link state that the management cores read of a peer (R331). -/
def linkState (s : State) (peer : Nat) : Nat :=
  match link? s peer with
  | none => 0
  | some l =>
    let f := fibresPerPeer s
    (f - l.outDown.length) + 2 ^ 8 * (f - l.inDown.length) + 2 ^ 16 * l.relay.getD 0 +
      (if l.relay.isSome then 2 ^ 20 else 0) + (if pathLive s l then 0 else 2 ^ 21) + 2 ^ 32 * l.dropped

/-- PARKING_WRITE (R8, R412). -/
def execParkingWrite (peer : Nat) (value : Word) (s : State) : Host.Outcome State Fault Refusal :=
  .next (modLink s peer fun l => { l with parking := value &&& 0xFFFFFFFF0001FFFF })

/-- AUTO_PARK: wavelengths 1 to 15 go dark where the register says so (R412). -/
def execAutoPark (peer : Nat) (s : State) : Host.Outcome State Fault Refusal :=
  .next (modLink s peer fun l => if l.parking.getLsbD 16 then { l with parking := l.parking ||| 0xFFFE } else l)

/-- WAVELENGTH_WAKE: traffic toward the peer has lit its dark wavelengths again (R412). DEDUCED (entry 40). -/
def execWavelengthWake (peer : Nat) (s : State) : Host.Outcome State Fault Refusal :=
  .next (modLink s peer fun l => { l with parking := l.parking &&& 0xFFFFFFFFFFFF0000 })

end Sys2Proof.Machine
end

