-- ==== Sys2Proof/Machine/HostLink.lean ====
section
/-! DEFINITION. What hosts and management cores do to the package: the registers of its functions and of the control space
(R8, R16, R66, R67, R69, R391), doorbells (R68), accesses to memory (R314, R401), and the notices of `xh.post` and `xh.notify`
(R408, R409). The registers of a launch function lie as VIRTIO 1.x gives its common configuration. -/

namespace Sys2Proof.Machine

/-! ### Launch functions -/

/-- A launch function with nothing set (R66, R69). -/
def LaunchFn.reset (fn part : Nat) : LaunchFn :=
  { fn := fn, part := part, status := 0, select := 0, devSelect := 0, drvSelect := 0, features := 0, configVector := 0xFFFF,
    isr := 0, errQueue := 0, errCause := 0, errValue := 0, errSeen := false, unsupported := 0, queues := [] }

/-- The state with queue `q` of a function changed; a queue that nothing has written yet stands as after reset. -/
def setQueue (s : State) (fn q : Nat) (f : VQueue → VQueue) : State :=
  modFn s fn fun x =>
    if (vqueue? x q).isSome then { x with queues := x.queues.map fun y => if y.index == q then f y else y }
    else { x with queues := x.queues ++ [f (VQueue.reset q)] }

/-- The features that a launch function offers: VIRTIO_F_RING_INDIRECT_DESC, VIRTIO_F_RING_EVENT_IDX, VIRTIO_F_VERSION_1 and
VIRTIO_F_ACCESS_PLATFORM, with no other bit (R66). The bit numbers 28, 29, 32 and 33 are PRESUMED from VIRTIO (entry 7). -/
def offeredFeatures : Nat := 2 ^ 28 + 2 ^ 29 + 2 ^ 32 + 2 ^ 33

/-- What the driver reads at device_feature: the 32 features that device_feature_select chooses (R66). PRESUMED from VIRTIO (entry
7). -/
def deviceFeature (f : LaunchFn) : Nat := if f.devSelect < 2 then bits offeredFeatures (32 * f.devSelect) 32 else 0

/-- The driver has accepted ACCESS_PLATFORM, and nothing that is not offered (R66). -/
def featuresOk (features : Nat) : Bool := bitOf features 33 && features &&& offeredFeatures == features

/-- device_status after a write of a nonzero value: DEVICE_NEEDS_RESET stays, and FEATURES_OK is not taken with features that
are not accepted (R66, R69). PRESUMED from VIRTIO (entry 7). -/
def statusAfter (f : LaunchFn) (v : Nat) : Nat :=
  (if bitOf v 3 && !featuresOk f.features then v - 8 else v) ||| (f.status &&& 0x40)

/-- The functions' own registers that have no behaviour of their own (R66): 0x00, 0x08 and 0x0C features, 0x10 the
configuration vector, 0x14 device_status with a nonzero value, 0x16 the queue selected, 0x18 its size, 0x1A its vector. The
offsets are PRESUMED from VIRTIO (entry 7). -/
def launchFnWrite (s : State) (fn offset : Nat) (v : Nat) : State :=
  match offset with
  | 0x00 => modFn s fn fun x => { x with devSelect := v % 2 ^ 32 }
  | 0x08 => modFn s fn fun x => { x with drvSelect := v % 2 ^ 32 }
  | 0x0C => modFn s fn fun x =>
    if x.drvSelect == 0 then { x with features := bits x.features 32 32 * 2 ^ 32 + v % 2 ^ 32 }
    else if x.drvSelect == 1 then { x with features := bits x.features 0 32 + v % 2 ^ 32 * 2 ^ 32 }
    else x
  | 0x10 => modFn s fn fun x => { x with configVector := v % 2 ^ 16 }
  | 0x14 => modFn s fn fun x => if v % 256 == 0 then x else { x with status := statusAfter x (v % 256) }
  | 0x16 => modFn s fn fun x => { x with select := v % 2 ^ 16 }
  | 0x18 =>
    match launchFn? s fn with
    | none => s
    | some x => setQueue s fn x.select fun q => if q.enabled then q else { q with size := v % 2 ^ 16 }
  | 0x1A =>
    match launchFn? s fn with
    | none => s
    | some x => setQueue s fn x.select fun q => { q with vector := v % 2 ^ 16 }
  | _ => s

/-- QUEUE_ENABLE: a size that is no power of two from 2 to 4096 leaves the queue disabled (R67). -/
def execQueueEnable (fn queue : Nat) (s : State) : Host.Outcome State Fault Refusal :=
  .next (setQueue s fn queue fun q =>
    if (List.range 12).any fun k => q.size == 2 ^ (k + 1) then { q with enabled := true } else q)

/-- The bytes of a ring of a queue of this size (R66). PRESUMED from VIRTIO (entry 7). -/
def ringLength (ring : RingKind) (size : Nat) : Nat :=
  match ring with
  | .descTable => 16 * size
  | .driver => 6 + 2 * size
  | .device => 6 + 8 * size

/-- A ring's base and the places of its pages, as the write of the base found them. -/
def setRing (ring : RingKind) (base : Nat) (pages : List (Option Nat)) (q : VQueue) : VQueue :=
  match ring with
  | .descTable => { q with desc := base, descAt := pages }
  | .driver => { q with driver := base, driverAt := pages }
  | .device => { q with device := base, deviceAt := pages }

/-- QUEUE_BASE_WRITE: the pages of the ring at its current size are translated now, with the right that the device needs; a base
whose ring is not wholly inside the guest's space breaks the queue (R67, R69). The page that follows a ring within one page is kept
too, for a larger size (DESIGN CHOICE, entry 62). -/
def execQueueBaseWrite (fn queue : Nat) (ring : RingKind) (value : Word) (s : State) : Host.Outcome State Fault Refusal :=
  let v := value.toNat
  let s1 := setQueue s fn queue fun q => setRing ring v [] q
  .next <|
    match launchFn? s1 fn with
    | none => s1
    | some f =>
      match vqueue? f queue, part? s1 f.part with
      | some q, some p =>
        let write := ring == .device
        let r := ringPages s1 p write v (Nat.max 1 (ringLength ring q.size))
        let after := (placeOf2 r.1 p ((v / 0x10000 + 1) * 0x10000) write).toOption
        let s2 := modQueue r.1 fn queue (setRing ring v (r.2 ++ if r.2.length == 1 then [after] else []))
        if r.2.all fun x => x.isSome then s2 else breakQueue s2 fn queue 1 v
      | _, _ => s1

/-- LAUNCH_REQUEST: a doorbell lets an even queue consume; a broken queue's is discarded and recorded (R66, R68, R69). -/
def execLaunchRequest (fn queue : Nat) (s : State) : Host.Outcome State Fault Refusal :=
  .next <|
    match (launchFn? s fn).bind fun f => vqueue? f queue with
    | none => s
    | some q =>
      if q.broken then unsupported s fn
      else if queue % 2 == 1 then s
      else consume 65536 s fn queue

/-- A request came by a launch function: it names the function, and is of the partition that the function serves (R24, R78). -/
def cameBy (s : State) (fn : Nat) (o : Offer) : Bool := o.fn == fn && (launchFn? s fn).any fun f => f.part == o.part

/-- DEVICE_STATUS_RESET: the function's queues and error record return to reset; its requests are forgotten, and its tasks run
on (R69). DEDUCED (entry 43). -/
def execDeviceStatusReset (fn : Nat) (s : State) : Host.Outcome State Fault Refusal :=
  let s1 := modFn s fn fun x => { LaunchFn.reset fn x.part with unsupported := x.unsupported }
  .next { s1 with
    offers := s1.offers.filter fun o => !cameBy s fn o
    tasks := s1.tasks.map fun t => if t.held.any (cameBy s fn) then { t with held := none } else t }

/-- A driver's read of the ISR status of a launch function: the value is given to the host, and the register is 0 again (R66).
PRESUMED from VIRTIO (entry 7). -/
def isrRead (s : State) (fn : Nat) : State :=
  match launchFn? s fn with
  | none => { s with hostRead := [] }
  | some f => { modFn s fn fun x => { x with isr := 0 } with hostRead := [BitVec.ofNat 8 f.isr] }

/-! ### Audit functions (R16, R391) -/

/-- An audit function; one that nothing has written yet has the selection and the ring of reset (R16, R391). -/
def auditFn (s : State) (fn : Nat) : AuditFn := (s.auditFns.find? fun a => a.fn == fn).getD ⟨fn, 0, 0, none, 0⟩

/-- The state with an audit function changed; audit functions are there once boot has ended (R16, R415). -/
def setAudit (s : State) (fn : Nat) (f : AuditFn → AuditFn) : State :=
  if s.boot.booted then { s with auditFns := s.auditFns.filter (fun a => a.fn != fn) ++ [f (auditFn s fn)] } else s

/-- AUDIT_SELECT: a nonzero reserved bit gets an error response (R8, R391). -/
def execAuditSelect (fn : Nat) (value : Word) (s : State) : Host.Outcome State Fault Refusal :=
  .next (setAudit s fn fun a =>
    if value.toNat < 2 ^ 38 then { a with select := value } else { a with unsupported := a.unsupported + 1 })

/-- A ring as it is registered (R43). -/
def Ring.fresh (base entries : Nat) : Ring := ⟨base, entries, 0, 0, false⟩

/-- The number of a ring's entries is a power of two from 16 to 4096, and its base is 64-aligned (R43). -/
def ringOk (base entries : Nat) : Bool :=
  base % 64 == 0 && (List.range 9).any fun k => entries == 2 ^ (k + 4)

/-- The indices and the lost count of a ring set to 0 in its memory (R43). -/
def ringStart (s : State) (base : Nat) (at_ : Nat → Option Nat) : State :=
  [base, base + 8, base + 16].foldl (fun s a =>
    match at_ a with
    | some p => putBytes s p (natToBytes 8 0)
    | none => s) s

/-- AUDIT_RING_REGISTER, once the functions are there (R16, R43, R415). Entries or a base outside the limits register nothing,
and the ring before stays (DESIGN CHOICE, entry 57). -/
def execAuditRingRegister (fn : Nat) (entries : Word) (s : State) : Host.Outcome State Fault Refusal :=
  let base := (auditFn s fn).ringBase.toNat
  .next (if s.boot.booted && ringOk base entries.toNat then
      setAudit (ringStart s base fun a => some (hostBase + a)) fn fun a => { a with ring := some (Ring.fresh base entries.toNat) }
    else s)

/-- The region that an audit function has selected, if the function holds the grant of its partition (R391). -/
def auditRegion (s : State) (a : AuditFn) : Option Region :=
  let id := bits a.select.toNat 0 32
  let part := bits a.select.toNat 32 6
  if (part? s part).any fun p => p.auditFn == some a.fn then
    (match region? s part id with
     | some r => some r
     | none => s.regions.find? fun r => r.part == part && r.id == id)
  else none

/-- The status register of an audit function (R391). -/
def auditStatus (s : State) (a : AuditFn) : Nat :=
  match auditRegion s a with
  | none => 2
  | some r => (if r.active then 0 else 1) + 2 ^ 32 * r.activations

/-- An aligned read of 8 bytes of an audit function's window (R16, R391). -/
def auditWindow (s : State) (a : AuditFn) (offset : Nat) : Word :=
  match auditRegion s a with
  | none => 0
  | some r => Sparse.get r.counters (offset / 8)

/-- An auditor's read of its window: an aligned read of 8 bytes returns the counter; any other gets an error response, which
is recorded and returns no data (R16, R391). Before boot has ended there is no such function (R415). -/
def auditRead (s : State) (fn offset size : Nat) : State :=
  if s.boot.booted && offset % 8 == 0 && size == 8 && decide (offset < 2048) then
    { s with hostRead := natToBytes 8 (auditWindow s (auditFn s fn) offset).toNat }
  else { setAudit s fn fun x => { x with unsupported := x.unsupported + 1 } with hostRead := [] }

/-! ### Register writes -/

/-- A command block submitted through the management cores' interface (R42). -/
def submitOperator (s : State) (block : Nat) : State := { s with cmdHeld := s.cmdHeld ++ [block] }

/-- A command block submitted through a mailbox; a write while busy is discarded and recorded (R39). -/
def submitOwner (s : State) (fn block : Nat) : State :=
  { s with parts := s.parts.map fun (p : Part) =>
      if p.id != 0 && p.mailbox == fn then
        (if p.busy then { p with unsupported := p.unsupported + 1 } else { p with busy := true, command := block })
      else p }

/-- The control-space address of a bind record (R81). -/
def recordAddress (die core slot : Nat) : Nat := 0x1000000 + die * 0x10000 + core * 0x100 + slot * 0x10

/-- A dword write in the slot tables: the high dword is staged, the low one commits (R81, R83). -/
def slotTableWrite (s : State) (offset : Nat) (v : Word) : State :=
  let die := bits offset 16 3
  let core := bits offset 8 8
  let slot := bits offset 4 4
  if 192 ≤ core then s
  else if offset = recordAddress die core slot + 8 then stageRecord s die core slot v
  else if offset = recordAddress die core slot then
    commitRecord s die core slot (v.toNat + 2 ^ 64 * (Sparse.get s.staged (slotIx die core slot)).toNat)
  else s

/-- A management core's write to a control register (R8, R42, R81, R354, R376). -/
def controlWrite (s : State) (offset : Nat) (v : Word) : State :=
  if 0x1000000 ≤ offset ∧ offset < 0x1080000 then slotTableWrite s offset v
  else if 0x830000 ≤ offset ∧ offset < 0x830400 then
    churnSettingWrite s ((offset - 0x830000) / 16) (bits offset 3 1) v
  else if 0x840000 ≤ offset ∧ offset < 0x840100 ∧ bits offset 0 5 = 8 then
    { s with pre821 := Sparse.set s.pre821 ((offset - 0x840000) / 0x20) (v &&& 0xFFFFFFFF) }
  else if offset = 0x870000 then submitOperator s v.toNat
  else s

/-- A write to an audit function's device-specific configuration: 0x10 holds the ring's base, 0x08 is read only (R8, R16, R391). -/
def auditWrite (s : State) (fn offset : Nat) (v : Word) : State :=
  setAudit s fn fun a => if offset == 0x10 then { a with ringBase := v } else a

/-- Any write to an audit function's window gets an error response (R16). -/
def windowWrite (s : State) (fn : Nat) : State := setAudit s fn fun a => { a with unsupported := a.unsupported + 1 }

/-- REGISTER_WRITE: reserved fields and registers that are only read ignore it (R8). -/
def execRegisterWrite (space : RegSpace) (offset : Nat) (value : Word) (s : State) : Host.Outcome State Fault Refusal :=
  .next <|
    match space with
    | .control => controlWrite s offset value
    | .launchFn fn => launchFnWrite s fn offset value.toNat
    | .auditFn fn => auditWrite s fn offset value
    | .auditWindow fn => windowWrite s fn
    | .mailboxFn fn => if offset == 0 then submitOwner s fn value.toNat else s

/-! ### Host accesses (R314) -/

/-- A host agent as a writer (R271). -/
def hostWriter (part : Nat) : Writer := unitWriter part 6

/-- `n` bytes in one page of guest-physical memory that a host agent's access reaches with the rights that it needs (R18, R265). -/
def hostPiece (p : Part) (op : AccessOp) (s : State) (gpa n : Nat) : State × Option Nat :=
  match op with
  | .read => guestPiece p false s gpa n
  | .write => guestPiece p true s gpa n
  | .atomic _ =>
    let r := guestPiece p false s gpa n
    let q := guestPiece p true r.1 gpa n
    (q.1, if r.2.isSome then q.2 else none)

/-- Where a host agent's access to guest-physical memory leads: the pieces by page, or none where one is refused or fails, with the
envelope of a refusal (R18, R21). -/
def hostPlaces (p : Part) (op : AccessOp) (s : State) (gpa n : Nat) : State × Option (List (Nat × Nat)) :=
  pagePlaces (hostPiece p op) (n / 0x10000 + 2) s gpa n

/-- A host agent's access performed at its places; what a read or an atomic returns is the data the host is given. DESIGN
CHOICE (entry 3). -/
def hostPerform (s : State) (r : HostRequest) (ps : List (Nat × Nat)) : State :=
  match r.op with
  | .read => { s with hostRead := placesRead s ps }
  | .write => placesWrite (hostWriter r.part) s ps (r.data.take r.size)
  | .atomic op =>
    match ps with
    | [(a, _)] =>
      let x := foreignAtomic s (hostWriter r.part) a r.size op r.data (r.data.drop r.size)
      { x.1 with hostRead := x.2 }
    | _ => { s with hostRead := [] }

/-- HOST_MEMORY_REQUEST: an access of a host agent to its own memory, or through PCIe or CXL.mem to a page of a partition,
performed at once; a refused one has no effect and returns no data (R18, R21, R314, R401). -/
def execHostMemoryRequest (req : HostRequest) (s : State) : Host.Outcome State Fault Refusal :=
  .next <|
    if req.onHost then hostPerform s req [(hostBase + req.addr, req.size)]
    else
      match part? s req.part with
      | none => { s with hostRead := [] }
      | some p =>
        let r := hostPlaces p req.op s req.addr req.size
        match r.2 with
        | none => { r.1 with hostRead := [] }
        | some ps => hostPerform r.1 req ps

/-! ### Host notices (R408, R409) -/

/-- The function whose queues a group uses: its partition's launch function, or the physical function (R408). -/
def noticeFn (s : State) (g : Group) : Option LaunchFn :=
  if g.part == 0 then s.launchFns.find? fun f => f.part == 0
  else (part? s g.part).bind fun p => launchFn? s p.launchFn

/-- The queue that a notice names: odd, enabled and not broken (R408). -/
def noticeQueue (s : State) (g : Group) (q : Nat) : Option (LaunchFn × VQueue) :=
  match noticeFn s g with
  | none => none
  | some f =>
    match vqueue? f q with
    | none => none
    | some v => if q % 2 == 1 && v.enabled && !v.broken then some (f, v) else none

/-- A notice put into the next available chain of a queue; the reply (R68, R69, R408). The order of the checks is DEDUCED
(entry 46). -/
def postNotice (s : State) (f : LaunchFn) (v : VQueue) (bs : List Byte) : State × Nat :=
  match part? s f.part with
  | none => (s, 2)
  | some p =>
    let r := availIdx s p v
    match r.2 with
    | none => (r.1, 1)
    | some i =>
      if v.size < (i + 2 ^ 16 - v.lastAvail) % 2 ^ 16 then (breakQueue r.1 f.fn v.index 2 i, 2)
      else if i == v.lastAvail then (r.1, 1)
      else
        let h := availHead r.1 p v
        match h.2 with
        | none => (h.1, 1)
        | some head =>
          let c := readChain h.1 p v head
          let s1 := takeAvail c.1 f.fn v.index
          match c.2 with
          | .broken k x => (breakQueue c.1 f.fn v.index k x, 2)
          | .unreadable => (pushUsed s1 f.fn v.index head 0, 3)
          | .ok [d] =>
            if d.write && decide (64 ≤ d.len) then
              let x := guestSet s1 p d.addr bs
              if x.2 then (pushUsed x.1 f.fn v.index head 64, 0) else (pushUsed x.1 f.fn v.index head 0, 3)
            else (pushUsed s1 f.fn v.index head 0, 3)
          | .ok _ => (pushUsed s1 f.fn v.index head 0, 3)

/-- The reply of an X function of the host links, which y = 0 discards (R408, R409). -/
def xhReply (d : Reg) (y : BitVec 1) (gid : Nat) (r : State × Nat) : State :=
  retireIn r.1 gid fun g => xResult g d y (BitVec.ofNat 64 r.2)

/-- XH_POST (R408). -/
def execXhPost (d a b : Reg) (y : BitVec 1) (s : State) : Host.Outcome State Fault Refusal :=
  onDrained s fun g =>
    if !(g.peers.all fun p => p.reply.isSome || p.copy != 0 || p.op == .read) then s
    else
      withData s g (sreg g a).toNat 64 64 (fun s => xhReply d y g.gid (s, 4)) fun s1 bs =>
        match noticeQueue s1 g (sreg g b).toNat with
        | none => xhReply d y g.gid (s1, 2)
        | some (f, v) => xhReply d y g.gid (postNotice s1 f v bs)

/-- VIRTIO_F_RING_EVENT_IDX, feature bit 29, holds the signal back: the used index has not passed the driver's used_event since
the last signal (R409). PRESUMED from VIRTIO (entry 7). -/
def signalHeld (s : State) (f : LaunchFn) (v : VQueue) : State × Bool :=
  match part? s f.part with
  | none => (s, false)
  | some p =>
    if !bitOf f.features 29 then (s, false)
    else
      let r := driverNat s p v (4 + 2 * v.size)
      (r.1, match r.2 with
        | none => false
        | some e => !decide ((v.usedIdx + 2 ^ 17 - e - 1) % 2 ^ 16 < (v.usedIdx + 2 ^ 16 - v.signalled) % 2 ^ 16))

/-- XH_NOTIFY: 1 signalled, 0 suppressed, 2 no such queue; the message itself leaves no state (R409). -/
def execXhNotify (d a : Reg) (y : BitVec 1) (s : State) : Host.Outcome State Fault Refusal :=
  onDrained s fun g =>
    match noticeQueue s g (sreg g a).toNat with
    | none => xhReply d y g.gid (s, 2)
    | some (f, v) =>
      let r := signalHeld s f v
      if r.2 then xhReply d y g.gid (r.1, 0)
      else xhReply d y g.gid (modQueue r.1 f.fn v.index fun q => { q with signalled := q.usedIdx }, 1)

end Sys2Proof.Machine
end

