-- ==== Sys2Proof/Machine/Memory.lean ====
section
/-! DEFINITION. The steps of memory management: translation roots (R266), invalidations (R268), fresh pages (R267), and the
counters' home with the end of a region (R46, R53, R54, R390). -/

namespace Sys2Proof.Machine

/-- A root write acts as an invalidation of every entry of its stage in this package, which has no completion word; it lasts
as long as accesses to peers that may have been translated through the entries are on the way (R266, R268). -/
def rootInvalidate (s : State) (part stage : Nat) : State :=
  let s1 := dropEntries s part stage 0 0
  let ts := ticketsOut s1 part
  if ts.isEmpty then s1
  else
    { s1 with
      nextId := s1.nextId + 1
      invals := s1.invals ++
        [⟨s1.nextId, none, 0, 0, part, stage, 0, 0, true, true, ts, [], s1.fabric.pkg⟩] }

/-- STAGE2_ROOT_WRITE: the root is written, and every entry of the stage goes (R266). The low bits are ignored (DEDUCED,
entry 35). -/
def execStage2RootWrite (part : Nat) (value : Word) (s : State) : Host.Outcome State Fault Refusal :=
  let v := alignDown value.toNat 0x10000
  .next <|
    if 64 ≤ part then s
    else
      match part? s part with
      | none => { s with freeRoots := Sparse.set s.freeRoots part (BitVec.ofNat 64 v) }
      | some p => rootInvalidate (putPart s { p with stage2 := v }) part 2

/-! ### Invalidations -/

/-- The partition that a mailbox function serves (R39). -/
def mailboxPart (s : State) (fn : Nat) : Option Part := s.parts.find? fun p => p.id != 0 && p.mailbox == fn

/-- The place of `n` bytes in one page of partition 0's physical memory; a refusal sends its envelope (R18, R21). -/
def operatorPiece (s : State) (a n : Nat) : State × Option Nat :=
  let s1 := finishPage s a
  if !pageOwned s1 0 a then (unitRefused s1 0x13 a, none)
  else (s1, if rangeBad s1 a n then none else some a)

/-- `n` bytes of partition 0's physical memory, and the state after the access (R42). -/
def operatorGet (s : State) (a n : Nat) : State × Option (List Byte) :=
  let r := pagePlaces operatorPiece (n / 0x10000 + 2) s a n
  (r.1, r.2.map (placesRead r.1))

/-- The place of `n` bytes in one page of the requester's memory: guest-physical of a partition, or physical in partition 0
(R40, R42, R268). -/
def issuerPiece (p : Option Part) (write : Bool) (s : State) (a n : Nat) : State × Option Nat :=
  match p with
  | some p => guestPiece p write s a n
  | none => operatorPiece s a n

/-- Bytes of the requester's memory, and the state after the access. -/
def issuerGet (s : State) (p : Option Part) (a n : Nat) : State × Option (List Byte) := spanGet (issuerPiece p false) s a n

/-- Bytes written to the requester's memory where they can be. -/
def issuerWrite (s : State) (p : Option Part) (a : Nat) (bs : List Byte) : State := (spanSet (issuerPiece p true) s a bs).1

/-- The state after a look at `n` bytes of the requester's memory that are to be written, and whether they can be. -/
def issuerTakes (s : State) (p : Option Part) (a n : Nat) : State × Bool :=
  let r := spanPlaces (issuerPiece p true) s a n
  (r.1, r.2.isSome)

/-- A descriptor of R268 is well formed for its requester: the owner names stage 1, the operator stage 2. DEDUCED (entry
34). -/
def invalOk (owner : Bool) (bs : List Byte) : Bool :=
  let f (o n : Nat) : Nat := bytesAt bs o n
  f 0 1 == (if owner then 1 else 2) && decide (f 2 2 ≤ 1) && f 4 4 == 0 && f 0x28 24 == 0 &&
    (f 2 2 == 0 || (f 8 8 % 0x10000 == 0 && f 0x10 8 != 0))

/-- A request to invalidate: a malformed one writes all ones to its completion word; a good one of the given kind goes out as a
Creamline message, which removes the entries (R268). -/
def invalidate (s : State) (owner : Option Nat) (desc kind : Nat) : State :=
  let who : Option (Option Part) := match owner with
    | none => some none
    | some fn => (mailboxPart s fn).map some
  match who with
  | none => s
  | some p =>
    let r := issuerGet s p desc 64
    match r.2 with
    | none => r.1
    | some bs =>
      let s := r.1
      let word := bytesAt bs 0x18 8
      if !invalOk p.isSome bs then issuerWrite s p word (natToBytes 8 (2 ^ 64 - 1))
      else if bytesAt bs 2 2 != kind then s
      else
        let part := match p with
          | some p => p.id
          | none => bytesAt bs 1 1 % 64
        let t := s.nextId
        let j : InvalJob :=
          { ticket := t, owner := p.map fun p => p.id, addr := word, value := BitVec.ofNat 64 (bytesAt bs 0x20 8),
            part := part, stage := bytesAt bs 0 1, base := bytesAt bs 8 8,
            len := if kind == 0 then 0 else bytesAt bs 0x10 8, root := false, applied := false, tickets := [], acks := [],
            asker := s.fabric.pkg }
        sendMessage { s with nextId := t + 1, invals := s.invals ++ [j] } t { plainMessage s 3 part with arg := desc }

/-- INVALIDATE_ALL (R268). -/
def execInvalidateAll (owner : Option Nat) (desc : Nat) (s : State) : Host.Outcome State Fault Refusal :=
  .next (invalidate s owner desc 0)

/-- INVALIDATE_RANGE (R268). -/
def execInvalidateRange (owner : Option Nat) (desc : Nat) (s : State) : Host.Outcome State Fault Refusal :=
  .next (invalidate s owner desc 1)

/-- This package may acknowledge an invalidation: its entries have gone, and the accesses to peers that may have been translated
through them have been performed (R268). -/
def invalidationOver (s : State) (j : InvalJob) : Bool :=
  j.applied && s.groups.all fun g => g.peers.all fun p => p.reply.isSome || !j.tickets.contains p.ticket

/-- Every package that is asked has acknowledged an invalidation; a package that has left the group is not asked (R268, R340). -/
def allAcknowledged (s : State) (j : InvalJob) : Bool :=
  j.acks.contains s.fabric.pkg && (j.root || s.fabric.livePkgs.all fun k => j.acks.contains k)

/-- A package may acknowledge an invalidation: this one when it is over here, another once its message has been sequenced. Where a
package has left that was waited for, the acknowledgement of one that is there counts as the last (R268, R340). -/
def mayAcknowledge (s : State) (j : InvalJob) (pkg : Nat) : Bool :=
  (!j.acks.contains pkg || allAcknowledged s j) &&
    (if pkg == s.fabric.pkg then invalidationOver s j
     else !j.root && s.fabric.livePkgs.contains pkg && !(s.fabric.queue.any fun x => x.1 == j.ticket))

/-- INVALIDATION_ACKNOWLEDGE by a package; after the last acknowledgement the completion word is written. Of an invalidation that a
peer has sent, this package's acknowledgement goes to the peer, which writes the word (R268). -/
def execInvalidationAcknowledge (ack : InvalAck) (s : State) : Host.Outcome State Fault Refusal :=
  .next <|
    match s.invals.find? fun j => j.ticket == ack.ticket && mayAcknowledge s j ack.pkg with
    | none => s
    | some j0 =>
      let j := { j0 with acks := ack.pkg :: j0.acks }
      let rest := s.invals.filter fun x => x.ticket != ack.ticket
      if !allAcknowledged s j then { s with invals := rest ++ [j] }
      else if j.root then { s with invals := rest }
      else
        let s1 := { s with invals := rest }
        let bs := natToBytes 8 j.value.toNat
        match j.owner with
        | none => issuerWrite s1 none j.addr bs
        | some id =>
          match part? s1 id with
          | none => s1
          | some p => issuerWrite s1 (some p) j.addr bs

/-! ### Fresh pages -/

/-- FRESH_PAGE_ZEROED: the page is zero, belongs to the partition, and its entry is no longer fresh (R267). -/
def execFreshPageZeroed (base : Nat) (s : State) : Host.Outcome State Fault Refusal :=
  .next <|
    match s.zeroing.find? fun j => j.base == base with
    | none => s
    | some j => zeroDone s j

/-! ### Counters and the end of a region -/

/-- The 2 KiB of a region's counters (R53, R386). -/
def counterBytes (r : Region) : List Byte :=
  ((List.range 256).map fun n => natToBytes 8 (Sparse.get r.counters n).toNat).flatten

/-- A region's counters written to their home (R53). -/
def writeCounters (s : State) (r : Region) : State :=
  if r.counterPlace == noCounters then s else putKept s r.part r.counterPlace (counterBytes r)

/-- COUNTER_AREA_UPDATE (R53). -/
def execCounterAreaUpdate (part region : Nat) (s : State) : Host.Outcome State Fault Refusal :=
  .next <|
    match region? s part region with
    | none => s
    | some r => writeCounters s r

/-- A region is done: no task of it is waiting, firing or running, no descendant is active, and its merges are written (R46,
R390). -/
def regionDone (s : State) (r : Region) : Bool :=
  !(s.tasks.any fun t => t.part == r.part && t.region == r.id) &&
    !(s.regions.any fun x => x.active && x.part == r.part && x.parent == some r.id) &&
    !(s.tables.any fun t => t.part == r.part && t.grads.any fun g => g.region == r.id)

/-- The park entries of a region discarded, their charges released (R249). -/
def dropParked (s : State) (part region : Nat) : State :=
  let mine := s.parks.filter fun p => p.part == part && p.region == region
  let n := mine.foldl (fun n p => n + p.tiles.length) 0
  let s1 := chargeUp s part region fun r => { r with parked := r.parked - n }
  { s1 with parks := s1.parks.filter fun p => !(p.part == part && p.region == region) }

/-- A region stops being active: its park entries go, its final counters are written, and the second notice is sent (R54, R249,
R271, R390). -/
def teardown (s : State) (r : Region) : State :=
  let s1 := writeCounters (dropParked s r.part r.id) r
  { s1 with
    regions := s1.regions.map fun x =>
      if x.active && x.part == r.part && x.id == r.id then { x with active := false, watch := [] } else x
    notices := [r.id, r.part, 0, 0, 0, 0] :: s1.notices }

/-- A partition that is being reset: its regions stay active until its envelopes have been counted (R380, R392). DEDUCED
(entry 58). -/
def resetGoesOn (s : State) (part : Nat) : Bool := (part? s part).any fun p => p.st == .resetting

/-- REGION_TEARDOWN (R390). DESIGN CHOICE (entry 56): a launch that is accepted between the end of the region's last task and
this step keeps the region active, with the copy and the counters that it has. -/
def execRegionTeardown (part region : Nat) (s : State) : Host.Outcome State Fault Refusal :=
  .next <|
    match region? s part region with
    | none => s
    | some r => if regionDone s r && !resetGoesOn s part then teardown s r else s

end Sys2Proof.Machine
end

