-- ==== Sys2Proof/Machine/Rdma.lean ====
section
/-! DEFINITION. The queue pairs of the Ethernet ports (R402 to R407): doorbells, requests sent and completed, and requests of
peers. What the wire carries comes in as events; the packets themselves are RoCE v2's. -/

namespace Sys2Proof.Machine

/-- The queue pair with a number. -/
def qp? (s : State) (q : Nat) : Option QueuePair := s.qps.find? fun x => x.q == q

/-- The state with a queue pair's record replaced. -/
def putQp (s : State) (x : QueuePair) : State := { s with qps := s.qps.map fun y => if y.q == x.q then x else y }

/-- The place of byte `o` of a range held by pieces (R404, R407). -/
def pieceAt : List (Nat × Nat) → Nat → Nat
  | [], _ => 0
  | (p, k) :: rest, o => if o < k then p + o else pieceAt rest (o - k)

/-- The pieces of the part of a range from byte `o` on, `n` bytes long. -/
def piecesFrom : List (Nat × Nat) → Nat → Nat → List (Nat × Nat)
  | [], _, _ => []
  | (p, k) :: rest, o, n =>
    if n == 0 then []
    else if k ≤ o then piecesFrom rest (o - k) n
    else (p + o, Nat.min n (k - o)) :: piecesFrom rest 0 (n - Nat.min n (k - o))

/-! ### Completions (R406) -/

/-- The completion queue has a free entry (R404). -/
def cqFree (x : QueuePair) : Bool := decide ((x.cqIdx + 2 ^ 32 - x.cqCons) % 2 ^ 32 < x.cqEntries)

/-- The 32 bytes of a completion entry (R406). -/
def cqBytes (x : QueuePair) (wrid bytes imm opcode status : Nat) : List Byte :=
  natToBytes 8 wrid ++ natToBytes 4 bytes ++ natToBytes 4 imm ++ natToBytes 4 (x.q % 16384) ++ natToBytes 1 opcode ++
    natToBytes 1 status ++ natToBytes 1 (if x.cqIdx / x.cqEntries % 2 == 0 then 1 else 0) ++ natToBytes 9 0

/-- A completion entry written; a status other than success puts the queue pair in error, and so does an entry whose page is not the
partition's any more (R18, R406; the latter a DESIGN CHOICE, entry 8). -/
def cqPut (s : State) (q : Nat) (wrid bytes imm opcode status : Nat) : State :=
  match qp? s q with
  | none => s
  | some x =>
    let r := keptPiece x.part s (pieceAt x.cqAt (32 * (x.cqIdx % x.cqEntries))) 32
    match r.2 with
    | none => putQp r.1 { x with error := true }
    | some a =>
      let s1 := storeBytes r.1 (hostWriter x.part) (.mem a) (cqBytes x wrid bytes imm opcode status)
      putQp s1 { x with cqIdx := (x.cqIdx + 1) % 2 ^ 32, error := x.error || status != 0 }

/-- The outstanding requests of a queue pair completed as flushed, while the completion queue has room (R403, R406). -/
def flushWork : Nat → State → Nat → State
  | 0, s, _ => s
  | fuel + 1, s, q =>
    match qp? s q with
    | none => s
    | some x =>
      match x.work with
      | [] => s
      | w :: rest =>
        if !cqFree x then s
        else flushWork fuel (cqPut (putQp s { x with work := rest }) q w.wrid 0 0 w.opcode 5) q

/-- The oldest outstanding request is over with a status: a success without its flag writes nothing; another status is an
error, and flushes the others, which are all later (R406). -/
def finishWork (s : State) (x : QueuePair) (w : RdmaWork) (status bytes : Nat) : State :=
  let s1 := putQp s { x with work := x.work.drop 1, resends := 0, flushing := status != 0 }
  if status == 0 && !w.signal then s1
  else
    let s2 := cqPut s1 x.q w.wrid bytes 0 w.opcode status
    if status == 0 then s2 else flushWork x.work.length s2 x.q

/-- The envelope to the owner of a local address that fails: class 3, or class 4 for a refusal (R406). -/
def localFault (s : State) (part cause : Nat) : State :=
  envelope s (.owner part) (if cause == 0x13 then 4 else 3) 0 1 (noPlace part 0 0)

/-! ### Doorbells (R404) -/

/-- The queue pair that a mailbox function's doorbell names. -/
def ownQp (s : State) (fn q : Nat) : Option QueuePair :=
  (mailboxPart s fn).bind fun p => (qp? s q).bind fun x => if x.part == p.id then some x else none

/-- RDMA_DOORBELL (R404). -/
def execRdmaDoorbell (fn q : Nat) (value : Word) (s : State) : Host.Outcome State Fault Refusal :=
  .next <|
    match ownQp s fn q with
    | none => s
    | some x => putQp s { x with sendProd := bits value.toNat 0 32, recvProd := bits value.toNat 32 32 }

/-- CQ_CONSUMER_WRITE: entries are free again; the flushing of requests later than a failed one goes on (R404, R406). -/
def execCqConsumerWrite (fn q : Nat) (value : Word) (s : State) : Host.Outcome State Fault Refusal :=
  .next <|
    match ownQp s fn q with
    | none => s
    | some x =>
      let s1 := putQp s { x with cqCons := bits value.toNat 0 32 }
      if x.flushing then flushWork x.work.length s1 q else s1

/-! ### Requests sent (R405) -/

/-- The `n` bytes of entry `idx` of a queue kept on its pages, if there is one below the producer index; an entry whose page is not
the partition's any more leaves the queue pair in error (R18, R404; the latter a DESIGN CHOICE, entry 8). -/
def queueEntry (s : State) (x : QueuePair) (at_ : List (Nat × Nat)) (entries idx prod n : Nat) : State × Option (List Byte) :=
  if entries == 0 || idx == prod then (s, none)
  else
    let r := keptPiece x.part s (pieceAt at_ (n * (idx % entries))) n
    match r.2 with
    | some a => (r.1, some (Sparse.getRange r.1.mem a n))
    | none => (if x.error then s else putQp r.1 { x with error := true }, none)

/-- The bytes of the next send entry, if there is one (R405). -/
def nextSend (s : State) (x : QueuePair) : State × Option (List Byte) :=
  queueEntry s x x.sendAt x.sendEntries x.sendIdx x.sendProd 64

/-- A send entry is valid (R405). -/
def sendOk (bs : List Byte) : Bool :=
  let f (o n : Nat) : Nat := bytesAt bs o n
  decide (1 ≤ f 0 1) && decide (f 0 1 ≤ 4) && decide (f 1 1 < 4) && f 2 2 == 0 && decide (f 0x18 4 ≤ 2 ^ 31) && f 0x28 24 == 0

/-- The packets of a message of `n` bytes (R402, R403). DESIGN CHOICE (entry 8). -/
def packets (x : QueuePair) (n : Nat) : Nat := Nat.max 1 (divUp n (1024 * 2 ^ x.mtu))

/-- The next send entry, if it is of this opcode or of none, is processed: it waits for room and for its fence, completes at
once if the queue pair is in error or the entry is bad, or its local data is read and the request is sent (R404 to R406). -/
def sendNext (q opcode : Nat) (s0 : State) : Host.Outcome State Fault Refusal :=
  .next <|
    match qp? s0 q with
    | none => s0
    | some x =>
      match nextSend s0 x with
      | (s, none) => s
      | (s, some bs) =>
        let f (o n : Nat) : Nat := bytesAt bs o n
        let op := f 0 1
        if (op != opcode && decide (1 ≤ op) && decide (op ≤ 4)) || !cqFree x || halted s x.part then s
        else
          let y := { x with sendIdx := (x.sendIdx + 1) % 2 ^ 32 }
          if x.error then cqPut (putQp s y) q (f 8 8) 0 0 op 5
          else if !sendOk bs then cqPut (putQp s y) q (f 8 8) 0 0 op 1
          else if bitOf (f 1 1) 1 && x.work.any (fun w => w.opcode == 2) then s
          else
            let n := f 0x18 4
            let w : RdmaWork :=
              { opcode := op, signal := bitOf (f 1 1) 0, wrid := f 8 8, local_ := f 0x10 8, len := n,
                imm := if op == 4 then f 4 4 else 0, key := f 0x1C 4, remote := f 0x20 8, data := [] }
            let sent (data : List Byte) : QueuePair :=
              { y with sendPsn := (y.sendPsn + packets y n) % 2 ^ 24, work := y.work ++ [{ w with data := data }] }
            if op == 2 then putQp s (sent [])
            else
              let r := devRange s x.part .load w.local_ n
              match r.2 with
              | .ok ps => putQp r.1 (sent (placesRead r.1 ps))
              | .fail c => localFault (cqPut (putQp r.1 y) q w.wrid 0 0 op 2) x.part c

/-- RDMA_WRITE (R405). -/
def execRdmaWrite (q : Nat) (s : State) : Host.Outcome State Fault Refusal := sendNext q 1 s

/-- RDMA_READ (R405). -/
def execRdmaRead (q : Nat) (s : State) : Host.Outcome State Fault Refusal := sendNext q 2 s

/-- RDMA_SEND (R405). -/
def execRdmaSend (q : Nat) (s : State) : Host.Outcome State Fault Refusal := sendNext q 3 s

/-- RDMA_WRITE_WITH_IMMEDIATE (R405). -/
def execRdmaWriteWithImmediate (q : Nat) (s : State) : Host.Outcome State Fault Refusal := sendNext q 4 s

/-- The oldest outstanding request of a queue pair whose completion queue has room, if it is not to be flushed. -/
def oldestWork (s : State) (q : Nat) : Option (QueuePair × RdmaWork) :=
  (qp? s q).bind fun x => if cqFree x && !x.flushing then x.work.head?.map fun w => (x, w) else none

/-- RDMA_ACK_ARRIVE: the peer has acknowledged the oldest write or send, or refused a request (R406). -/
def execRdmaAckArrive (q : Nat) (ok : Bool) (s : State) : Host.Outcome State Fault Refusal :=
  .next <|
    match oldestWork s q with
    | none => s
    | some (x, w) =>
      if !ok then finishWork s x w 3 0
      else if w.opcode == 2 then s
      else finishWork s x w 0 w.len

/-- RDMA_READ_RESPONSE: the data of the oldest read is performed in local memory (R406). -/
def execRdmaReadResponse (q : Nat) (data : List Byte) (s : State) : Host.Outcome State Fault Refusal :=
  .next <|
    match oldestWork s q with
    | none => s
    | some (x, w) =>
      if w.opcode != 2 || data.length != w.len then s
      else
        let r := devRange s x.part .store w.local_ w.len
        match r.2 with
        | .fail c => localFault (finishWork r.1 x w 2 0) x.part c
        | .ok ps =>
          let s1 := placesWrite (hostWriter x.part) r.1 ps data
          finishWork s1 ((qp? s1 q).getD x) w 0 w.len

/-- RDMA_RETRY: the oldest request is sent again (R405). -/
def execRdmaRetry (q : Nat) (s : State) : Host.Outcome State Fault Refusal :=
  .next <|
    match qp? s q with
    | none => s
    | some x => if x.work.isEmpty then s else putQp s { x with resends := x.resends + 1 }

/-- RDMA_RETRY_EXHAUSTED (R406). -/
def execRdmaRetryExhausted (q : Nat) (s : State) : Host.Outcome State Fault Refusal :=
  .next <|
    match oldestWork s q with
    | none => s
    | some (x, w) => finishWork s x w 4 0

/-- CNP_RECEIVE: the send rate falls (R402). -/
def execCnpReceive (q rate : Nat) (s : State) : Host.Outcome State Fault Refusal :=
  .next <|
    match qp? s q with
    | none => s
    | some x => putQp s { x with rate := some (match x.rate with
        | none => rate
        | some r => Nat.min r rate) }

/-! ### Requests of peers (R407) -/

/-- The pieces that an inbound request may touch: its key names a region of the partition with the right that it needs, and the
region holds its whole range (R407). -/
def inboundPieces (s : State) (part : Nat) (r : RdmaRequest) : Option (List (Nat × Nat)) :=
  match (part? s part).bind fun p => p.regions.find? fun m => m.key == r.key with
  | none => none
  | some m =>
    let right := if r.opcode == 2 then bitOf m.rights 0 else bitOf m.rights 1
    if right && decide (m.base ≤ r.addr) && decide (r.addr + r.size ≤ m.base + m.len) then
      some (piecesFrom m.pieces (r.addr - m.base) r.size)
    else none

/-- The pieces, which lie in a page each, can be reached still, with the envelope of a refusal (R18, R21, R263). -/
def piecesKept (part : Nat) : State → List (Nat × Nat) → State × Bool
  | s, [] => (s, true)
  | s, (p, k) :: rest =>
    let r := keptPiece part s p k
    if r.2.isSome then piecesKept part r.1 rest else (r.1, false)

/-- The next receive entry, if there is one (R405). -/
def nextRecv (s : State) (x : QueuePair) : State × Option (List Byte) :=
  queueEntry s x x.recvAt x.recvEntries x.recvIdx x.recvProd 32

/-- A request refused with a remote access error: nothing is performed, and the owner is told (R407). -/
def inboundRefused (s : State) (part : Nat) : State :=
  { envelope s (.owner part) 4 0 1 (noPlace part 0 0) with hostRead := [] }

/-- The message of a peer is accepted: its packets are counted, and its receive entry, if it takes one, is used up. -/
def inboundTaken (s : State) (x : QueuePair) (r : RdmaRequest) : State :=
  let recv := if 3 ≤ r.opcode then (x.recvIdx + 1) % 2 ^ 32 else x.recvIdx
  putQp s { x with recvPsn := (x.recvPsn + packets x r.size) % 2 ^ 24, recvIdx := recv }

/-- A send of a peer put into the next receive entry's buffer (R405, R406). -/
def inboundSend (s : State) (x : QueuePair) (r : RdmaRequest) (e : List Byte) : State :=
  if bytesAt e 0x10 4 < r.size then cqPut (inboundTaken s x r) x.q (bytesAt e 0 8) 0 0 0x80 6
  else
    let y := devRange s x.part .store (bytesAt e 8 8) r.size
    match y.2 with
    | .fail c => localFault (cqPut (inboundTaken y.1 x r) x.q (bytesAt e 0 8) 0 0 0x80 2) x.part c
    | .ok ps =>
      cqPut (inboundTaken (placesWrite (hostWriter x.part) y.1 ps (r.data.take r.size)) x r) x.q (bytesAt e 0 8) r.size 0 0x80 0

/-- RDMA_INBOUND_REQUEST: 1 write, 2 read, 3 send, 4 write with immediate. A send or a write with immediate that finds no receive
entry or no room for its completion is not taken (R402, R404 to R407). -/
def execRdmaInboundRequest (r : RdmaRequest) (s : State) : Host.Outcome State Fault Refusal :=
  .next <|
    match qp? s r.q with
    | none => s
    | some x =>
      if x.error || halted s x.part then s
      else if r.opcode == 3 then
        (match nextRecv s x with
         | (s, none) => s
         | (s, some e) => if cqFree x then inboundSend s x r e else s)
      else
        match inboundPieces s x.part r with
        | none => inboundRefused s x.part
        | some ps =>
          let k := piecesKept x.part s ps
          if !k.2 then inboundRefused k.1 x.part
          else if r.opcode == 2 then { inboundTaken k.1 x r with hostRead := placesRead k.1 ps }
          else if r.opcode == 1 then inboundTaken (placesWrite (hostWriter x.part) k.1 ps (r.data.take r.size)) x r
          else
            match nextRecv k.1 x with
            | (s, none) => s
            | (s, some e) =>
              if !cqFree x then s
              else
                cqPut (inboundTaken (placesWrite (hostWriter x.part) s ps (r.data.take r.size)) x r) x.q (bytesAt e 0 8) r.size
                  r.imm 0x80 0

/-! ### Release (R403) -/

/-- The send entries below the producer index that have not been taken, completed as flushed (R403, R405, R406). -/
def flushSends : Nat → State → Nat → State
  | 0, s, _ => s
  | fuel + 1, s, q =>
    match qp? s q with
    | none => s
    | some x =>
      match nextSend s x with
      | (s1, none) => s1
      | (s1, some bs) =>
        flushSends fuel (cqPut (putQp s1 { x with sendIdx := (x.sendIdx + 1) % 2 ^ 32 }) q (bytesAt bs 8 8) 0 0 (bytesAt bs 0 1) 5) q

/-- A queue pair released: its outstanding requests and the send entries not taken yet complete as flushed, and it belongs to no
partition (R403). Their entries are written in order even where the owner has left no entry free (DESIGN CHOICE, entry 8). -/
def releaseQp (s : State) (x : QueuePair) : State :=
  let s1 := x.work.foldl (fun s w => cqPut s x.q w.wrid 0 0 w.opcode 5) s
  let s2 := flushSends x.sendEntries s1 x.q
  { s2 with qps := s2.qps.filter fun y => y.q != x.q }

/-- The queue pairs of a partition released (R403). -/
def releaseQps (s : State) (part : Nat) : State := (s.qps.filter fun x => x.part == part).foldl releaseQp s

end Sys2Proof.Machine
end

