-- ==== Sys2Proof/Machine/Commands.lean ====
section
/-! DEFINITION. Command blocks (R40) and the owner's commands (R41): bind, the stage-1 root (R266), watchpoints (R271), the
context store (R369), attestation (R416), the queues of a queue pair (R404) and remote memory regions (R407). -/

namespace Sys2Proof.Machine

/-! ### Command blocks (R40) -/

/-- What a command gives: the state after it and its reply with the operands it returns; or a wait, the command being carried out
still. -/
inductive CmdResult where
  | reply (s : State) (code : Nat) (ret : List (Nat × List Byte))
  | wait (s : State)

/-- The reply of the first check that fails; 0 where none does. -/
def firstFail : List (Nat × Bool) → Nat
  | [] => 0
  | (n, ok) :: rest => if ok then firstFail rest else n

/-- A command refused with its first failing check, without effect; else it is carried out (R40). -/
def cmdChecked (s : State) (checks : List (Nat × Bool)) (k : CmdResult) : CmdResult :=
  match firstFail checks with
  | 0 => k
  | n => .reply s n []

/-- The fields that every block has are valid: the reserved ones zero, the completion word aligned (R40). -/
def blockOk (signed : Bool) (bs : List Byte) : Bool :=
  bytesAt bs 2 2 == 0 && bytesAt bs 0x18 8 == 0 && bytesAt bs 8 8 % 8 == 0 && (signed || bytesAt bs 0xC0 64 == 0)

/-- The completion word takes a write, or there is none (R40), with the state after the look. -/
def wordOk (s : State) (p : Option Part) (bs : List Byte) : State × Bool :=
  if bytesAt bs 8 8 == 0 then (s, true) else issuerTakes s p (bytesAt bs 8 8) 8

/-- A command whose checks before those of addresses pass goes on with the look at its completion word (R40). -/
def cmdAddressed (s : State) (p : Option Part) (bs : List Byte) (checks : List (Nat × Bool)) (k : State → Bool → CmdResult) :
    CmdResult :=
  cmdChecked s checks (k (wordOk s p bs).1 (wordOk s p bs).2)

/-- The end of a command: returned operands, the reply, and then the completion value (R40). -/
def cmdFinish (s : State) (p : Option Part) (block : Nat) (bs : List Byte) (code : Nat) (ret : List (Nat × List Byte)) :
    State :=
  let s1 := ret.foldl (fun s x => issuerWrite s p (block + x.1) x.2) s
  let s2 := issuerWrite s1 p (block + 4) (natToBytes 4 code)
  let w := bytesAt bs 8 8
  if w == 0 || w % 8 != 0 then s2 else issuerWrite s2 p w (natToBytes 8 (bytesAt bs 0x10 8))

/-- The codes of the owner's commands (R41) and of the operator's (R42). -/
def ownerCode (c : Nat) : Bool := decide (1 ≤ c) && decide (c ≤ 8)
def operatorCode (c : Nat) : Bool := decide (0x10 ≤ c) && decide (c ≤ 0x1B)

/-- A partition's mailbox is no longer busy (R39). -/
def mailboxIdle (s : State) (part : Nat) : State :=
  { s with parts := s.parts.map fun (p : Part) => if p.id == part then { p with busy := false, command := 0 } else p }

/-- A submission whose block cannot be read is recorded in the AER status of the mailbox function (R40). -/
def blockUnread (s : State) (part : Nat) : State :=
  { s with parts := s.parts.map fun (p : Part) => if p.id == part then { p with unsupported := p.unsupported + 1 } else p }

/-- An owner's command: the block that is submitted, or was, is read and carried out if it holds this code; a code that no
command has replies 1; a block that cannot be read is recorded (R39 to R41). Before boot has ended there is no mailbox (R415).
DEDUCED (entry 41). -/
def ownerCommand (s : State) (fn block code : Nat) (signed : Bool) (f : State → Part → List Byte → CmdResult) :
    Host.Outcome State Fault Refusal :=
  .next <|
    match mailboxPart s fn with
    | none => s
    | some p =>
      if !s.boot.booted || p.busy && p.command != block || p.rootBusy && code != 2 then s
      else
        let b := if block % 64 == 0 then guestGet s p block 256 else (s, none)
        match b.2 with
        | none => mailboxIdle (blockUnread b.1 p.id) p.id
        | some bs =>
          let c := bytesAt bs 0 2
          let done (s : State) (n : Nat) (ret : List (Nat × List Byte)) : State :=
            mailboxIdle (cmdFinish s (some ((part? s p.id).getD p)) block bs n ret) p.id
          if !p.rootBusy && ownerCode c && c != code then s
          else if !p.rootBusy && (!ownerCode c || !blockOk signed bs) then done b.1 1 []
          else
            match f b.1 p bs with
            | .wait s1 => s1
            | .reply s1 n ret => done s1 n ret

/-- An operator's command, from the block at the head of those submitted or from one submitted now; a package whose boot has not
ended takes none (R40, R42, R415). DEDUCED (entry 41). -/
def operatorCommand (s : State) (block code : Nat) (f : State → List Byte → CmdResult) : Host.Outcome State Fault Refusal :=
  .next <|
    if !s.boot.booted || (!s.cmdHeld.isEmpty && s.cmdHeld.head? != some block) then s
    else
      let pop (s : State) : State := { s with cmdHeld := s.cmdHeld.drop 1 }
      let b := if block % 64 == 0 then issuerGet s none block 256 else (s, none)
      match b.2 with
      | none => pop b.1
      | some bs =>
        let c := bytesAt bs 0 2
        if operatorCode c && c != code then s
        else if !operatorCode c || !blockOk false bs then pop (cmdFinish b.1 none block bs 1 [])
        else
          match f b.1 bs with
          | .wait s1 => s1
          | .reply s1 n ret => pop (cmdFinish s1 none block bs n ret)

/-! ### Bind, roots and watchpoints -/

/-- The pages of a context store, each in the partition's memory with read and write rights, and the state after the look (R369). -/
def storePagesOf (s : State) (p : Part) (base len : Nat) : State × Option (List Nat) :=
  let r := guestPages s p false base len
  let w := guestPages r.1 p true base len
  (w.1, if r.2.isSome then w.2 else none)

/-- A context store's range: whole 64 KiB pages, not empty (R369). -/
def storeRangeOk (base len : Nat) : Bool := base % 0x10000 == 0 && len != 0 && len % 0x10000 == 0

/-- A ring's whole range can be written for its owner, and its consumer index read (R43), with the state after the look. -/
def ownerRingMapped (s : State) (p : Part) (base entries : Nat) : State × Bool :=
  let w := guestPages s p true base (0x40 + 32 * entries)
  let r := guestPlace p false w.1 base
  (r.1, w.2.isSome && r.2.isSome)

/-- A partition that becomes OWNED has its fabric function here again (R336). -/
def fabricUp (s : State) (part : Nat) : State :=
  modFabric s fun f => { f with tornDown := f.tornDown.filter fun x => x != (f.pkg, part) }

/-- The owner's signature over some bytes verifies under a key, with the signer ID of R36 and R41. -/
def ownerSigned (key msg sig : List Byte) : Bool := sm2Verify "LANMOR-ZK8-OWNER" key msg sig

/-- BIND (R24, R41): the partition is OWNED, with its key, its ring, its root region, its audit grant and its store. DESIGN CHOICE
(entry 57): the root region's address, which no stage-1 table can translate yet, is recorded without a look. -/
def execBind (fn block : Nat) (s : State) : Host.Outcome State Fault Refusal :=
  ownerCommand s fn block 1 true fun s p bs =>
    let f (o n : Nat) : Nat := bytesAt bs o n
    let key := (bs.drop 0x20).take 64
    cmdAddressed s (some p) bs
      [(1, ringOk (f 0x60 8) (f 0x68 4) && storeRangeOk (f 0x78 8) (f 0x80 8)), (2, p.st == .created),
       (3, ownerSigned key ((bs.drop 0x20).take 0xA0) (bs.drop 0xC0))]
      fun s word =>
        let r := ownerRingMapped s p (f 0x60 8) (f 0x68 4)
        let g := storePagesOf r.1 p (f 0x78 8) (f 0x80 8)
        cmdChecked g.1 [(4, word && r.2 && g.2.isSome)]
          (.reply
            (ringStart (putPart (fabricUp g.1 p.id) { p with
                st := .owned, ownerKey := key, keyDigest := digestOf (sm3 key), ring := some (Ring.fresh (f 0x60 8) (f 0x68 4))
                auditFn := if f 0x6C 2 == 0xFFFF then none else some (f 0x6C 2)
                root := BitVec.ofNat 64 (f 0x70 8), storeBase := f 0x78 8, storeLen := f 0x80 8, storePages := g.2.getD [] })
              (f 0x60 8) (fun a => atOwner g.1 p a true))
            0 [])

/-- The invalidation that a write of a partition's stage-1 root makes is not over (R266, R268). -/
def rootPending (s : State) (part : Nat) : Bool := s.invals.any fun j => j.root && j.part == part && j.stage == 1

/-- A partition's stage-1 root written; the command goes on until the invalidation is over (R266, R268). -/
def rootWritten (s : State) (p : Part) (block v : Nat) : CmdResult :=
  let s1 := rootInvalidate (putPart s { p with stage1 := v }) p.id 1
  if rootPending s1 p.id then
    .wait (putPart s1 { p with stage1 := v, rootBusy := true, busy := true, command := block })
  else .reply s1 0 []

/-- SET_STAGE_1_ROOT: the root is written, and every entry of the stage goes (R266). The reply to a root that is not
aligned is DEDUCED (entry 35). -/
def execSetStage1Root (fn block : Nat) (s : State) : Host.Outcome State Fault Refusal :=
  ownerCommand s fn block 2 false fun s p bs =>
    let v := bytesAt bs 0x20 8
    if p.rootBusy then
      if rootPending s p.id then .wait s else .reply (putPart s { p with rootBusy := false }) 0 []
    else
      cmdAddressed s (some p) bs [(1, v % 0x10000 == 0), (2, p.st == .owned)] fun s word =>
        let r := guestPlace p false s v
        if v == 0 then cmdChecked s [(4, word)] (rootWritten s p block v)
        else cmdChecked r.1 [(4, word && r.2.isSome)] (rootWritten r.1 p block v)

/-- SET_WATCHPOINT: kind 0 clears; another kind is kept at the page where the base lies now (R271). -/
def execSetWatchpoint (fn block : Nat) (s : State) : Host.Outcome State Fault Refusal :=
  ownerCommand s fn block 3 false fun s p bs =>
    let f (o n : Nat) : Nat := bytesAt bs o n
    let id := f 0x20 4
    let index := f 0x24 1
    let kind := f 0x25 1
    let base := f 0x28 8
    let len := f 0x30 4
    let sized := base % 8 == 0 && decide (8 ≤ len) && decide (len ≤ 65536) && len % 8 == 0 &&
      decide (base % 0x10000 + len ≤ 0x10000)
    let put (s : State) (w : List Watch) : State :=
      modRegion s p.id id fun g => { g with watch := g.watch.filter (fun x => x.index != index) ++ w }
    cmdAddressed s (some p) bs
      [(1, decide (index ≤ 3) && decide (kind ≤ 3) && (kind == 0 || sized)), (2, p.st == .owned)] fun s word =>
        if kind == 0 then cmdChecked s [(4, word), (5, (region? s p.id id).isSome)] (.reply (put s []) 0 [])
        else
          match devRange s p.id .load base len with
          | (s1, .ok [(a, _)]) =>
            cmdChecked s1 [(4, word), (5, (region? s1 p.id id).isSome)]
              (.reply (put s1 [⟨index, kind, BitVec.ofNat 64 base, a, len⟩]) 0 [])
          | (s1, _) => .reply s1 4 []

/-- SET_CONTEXT_STORE: refused while any image lies in the store (R369). -/
def execSetContextStore (fn block : Nat) (s : State) : Host.Outcome State Fault Refusal :=
  ownerCommand s fn block 4 false fun s p bs =>
    let base := bytesAt bs 0x20 8
    let len := bytesAt bs 0x28 8
    cmdAddressed s (some p) bs [(1, storeRangeOk base len), (2, p.st == .owned)] fun s word =>
      let g := storePagesOf s p base len
      cmdChecked g.1 [(4, word && g.2.isSome), (5, s.groups.all fun g => g.part != p.id || g.image.isNone)]
        (.reply (putPart g.1 { p with storeBase := base, storeLen := len, storePages := g.2.getD [] }) 0 [])

/-! ### Attestation (R416) -/

/-- The code of a partition's state (R24). -/
def PState.code : PState → Nat
  | .free => 0
  | .created => 1
  | .owned => 2
  | .sealing => 3
  | .staged => 4
  | .resetting => 5
  | .scrubbing => 6

/-- The identity certificate of an I/O die, which flash holds (R414). That its length lies at 0x1000 of flash for die 8 and at
0x2000 for die 9, and the certificate behind it, is a DESIGN CHOICE (entry 60). -/
def certificateOf (s : State) (die : Nat) : List Byte :=
  let at_ := (die - 7) * 0x1000
  let n := bytesToNat (Sparse.getRange s.boot.flash at_ 2)
  Sparse.getRange s.boot.flash (at_ + 2) (Nat.min n 1776)

/-- The bytes 0x00 to 0xBF of a report (R416). -/
def reportHead (s : State) (p : Part) (nonce : List Byte) : List Byte :=
  natToBytes 4 0x52545041 ++ natToBytes 1 1 ++ natToBytes 1 p.id ++ natToBytes 1 p.st.code ++ natToBytes 1 s.fabric.pkg ++
    natToBytes 8 s.fabric.groupId.toNat ++ nonce ++ digestBytes s.boot.measure ++ digestBytes p.keyDigest ++
    (identityKey 8 ++ List.replicate 64 0).take 64 ++ natToBytes 16 0

/-- The signer ID of an attestation report (R416). -/
def deviceSigner : String := "LANMOR-ZK8-DEVICE"

/-- The 2 KiB that an attest command gives back: the report, signed with the package's identity key, and its certificate (R41, R414,
R416). -/
def attestReply (s : State) (p : Part) (nonce : List Byte) : List Byte :=
  let head := reportHead s p nonce
  let cert := certificateOf s 8
  (head ++ (sm2Sign deviceSigner (identitySecret 8) (sm2Nonce s.nextId) head ++ List.replicate 64 0).take 64 ++
    natToBytes 2 cert.length ++ natToBytes 14 0 ++ cert ++ List.replicate 2048 0).take 2048

/-- An attestation reply holds a report signed by the key in it, whose certificate chains to the Lanmor device root (R37, R41,
R416). -/
def reportGenuine (report : List Byte) : Bool :=
  let key := (report.drop 0x70).take 64
  Config.certifies ((report.drop 0x110).take (bytesAt report 0x100 2)) key &&
    sm2Verify deviceSigner key (report.take 0xC0) ((report.drop 0xC0).take 64)

/-- ATTEST (R41, R416). -/
def execAttest (fn block : Nat) (s : State) : Host.Outcome State Fault Refusal :=
  ownerCommand s fn block 5 false fun s p bs =>
    let at_ := bytesAt bs 0x40 8
    cmdAddressed s (some p) bs [(1, at_ % 64 == 0), (2, p.st != .free)] fun s word =>
      let r := guestTakes s p at_ 2048
      cmdChecked r.1 [(4, word && r.2)]
        (.reply (guestPut { r.1 with nextId := r.1.nextId + 1 } p at_ (attestReply r.1 p ((bs.drop 0x20).take 32))) 0 [])

/-! ### RDMA queues and regions (R404, R407) -/

/-- `n` is a power of two from 16 to `max`. -/
def entriesOk (n max : Nat) : Bool := decide (n ≤ max) && (List.range 10).any fun k => n == 2 ^ (k + 4)

/-- SET_RDMA_QUEUES: the queues are kept on the pages where they lie now (R404). -/
def execSetRdmaQueues (fn block : Nat) (s : State) : Host.Outcome State Fault Refusal :=
  ownerCommand s fn block 6 false fun s p bs =>
    let f (o n : Nat) : Nat := bytesAt bs o n
    let q := f 0x20 1 * 16384 + f 0x24 4
    let ok := decide (f 0x20 1 ≤ 7) && f 0x21 3 == 0 && decide (f 0x24 4 < 16384) && f 0x28 8 % 64 == 0 &&
      f 0x38 8 % 64 == 0 && f 0x40 8 % 64 == 0 && entriesOk (f 0x30 4) 4096 && entriesOk (f 0x34 4) 4096 &&
      entriesOk (f 0x48 4) 8192 && f 0x4C 84 == 0
    cmdAddressed s (some p) bs [(1, ok), (2, p.st == .owned)] fun s word =>
      match devMany p.id s
        [(.load, f 0x28 8, 64 * f 0x30 4), (.load, f 0x38 8, 32 * f 0x34 4), (.store, f 0x40 8, 32 * f 0x48 4)] with
      | (s1, .ok true [a, b, c]) =>
        cmdChecked s1 [(4, word)]
          (match (qp? s1 q).bind fun x => if x.part == p.id && x.work.isEmpty then some x else none with
           | none => .reply s1 5 []
           | some x =>
             .reply (putQp s1 { x with
               sendAt := a, sendEntries := f 0x30 4, recvAt := b, recvEntries := f 0x34 4, cqAt := c, cqEntries := f 0x48 4
               sendProd := 0, recvProd := 0, sendIdx := 0, recvIdx := 0, cqIdx := 0, cqCons := 0 }) 0 [])
      | (s1, _) => .reply s1 4 []

/-- The first candidate for a key that the partition has not issued lately (R407). DESIGN CHOICE (entry 42). -/
def freeKey (issued : List Nat) : Nat → Word32 → Word32
  | 0, k => k
  | n + 1, k => if issued.contains k.toNat then freeKey issued n (k + 1) else k

/-- The accesses that a region's rights need (R407). -/
def regionAcc (rights : Nat) : Acc :=
  match rights with
  | 3 => .atomic
  | 2 => .store
  | _ => .load

/-- REGISTER_MEMORY_REGION: the region is kept on the pages where it lies now, and its key is returned (R407). -/
def execRegisterMemoryRegion (fn block : Nat) (s : State) : Host.Outcome State Fault Refusal :=
  ownerCommand s fn block 7 false fun s p bs =>
    let base := bytesAt bs 0x20 8
    let len := bytesAt bs 0x28 8
    let rights := bytesAt bs 0x30 1
    let ok := decide (1 ≤ len) && decide (len ≤ 2 ^ 40) && decide (rights < 4)
    cmdAddressed s (some p) bs [(1, ok), (2, p.st == .owned)] fun s word =>
      match devRange s p.id (regionAcc rights) base len with
      | (s1, .fail _) => .reply s1 4 []
      | (s1, .ok ps) =>
        let k := (freeKey p.issued (2 ^ 24) (Config.regionKey s1.nextId)).toNat
        let s2 := putPart { s1 with nextId := s1.nextId + 1 }
          { p with regions := p.regions ++ [⟨k, ps, base, len, rights⟩], issued := k :: p.issued.take (2 ^ 24 - 1) }
        cmdChecked s1 [(4, word), (5, decide (p.regions.length < 65536))] (.reply s2 0 [(0x38, natToBytes 4 k)])

/-- DEREGISTER_MEMORY_REGION: inbound accesses are performed at once, so that none is in flight (R407). -/
def execDeregisterMemoryRegion (fn block : Nat) (s : State) : Host.Outcome State Fault Refusal :=
  ownerCommand s fn block 8 false fun s p bs =>
    let k := bytesAt bs 0x20 4
    cmdAddressed s (some p) bs [(2, p.st == .owned)] fun s word =>
      cmdChecked s [(4, word), (5, p.regions.any fun m => m.key == k)]
        (.reply (putPart s { p with regions := p.regions.filter fun m => m.key != k }) 0 [])

end Sys2Proof.Machine
end

