-- ==== Sys2Proof/Machine/Carry.lean ====
section
/-! DEFINITION. What the queue-state object of a migration carries (R78, R384), its bytes, and how the destination takes it up
after the commit (R37, R343, R369, R385). -/

namespace Sys2Proof.Machine

/-! ### What is carried -/

/-- What belongs to a partition's slot and not to its work: the owner's key, ring, root region, audit grant and context store, the
functions, the stage-1 root and the ordinal of the last envelope (R30, R39, R41). DESIGN CHOICE (entry 45). -/
structure CarriedSlot where
  ownerKey : List Byte
  ring : Option Ring
  root : Word
  auditFn : Option Nat
  storeBase : Nat
  storeLen : Nat
  mailbox : Nat
  launchFn : Nat
  stage1 : Nat
  ordinal : Nat
  deriving DecidableEq, Repr

/-- What a queue-state object carries of a partition (R78, R384): its slot's settings, its active regions, tasks, cohorts and groups
with their recorded copies, its park entries and bodies that wait, its expert table with the recorded merges, its launch functions
with their queues' indices, the requests consumed and not accepted yet, and the contexts as the stop numbered them; `top` lies above
every number that the source has given out. -/
structure Carried where
  slot : CarriedSlot
  top : Nat
  regions : List Region
  tasks : List Task
  cohorts : List Cohort
  groups : List Group
  parks : List ParkEntry
  bodies : List LooseBody
  table : Option Table
  fns : List LaunchFn
  offers : List Offer
  contexts : List Nat
  deriving DecidableEq, Repr

/-- What the queue-state object of a partition carries (R78, R384). -/
def carriedOut (s : State) (p : Part) : Carried :=
  { slot :=
      { ownerKey := p.ownerKey, ring := p.ring, root := p.root, auditFn := p.auditFn, storeBase := p.storeBase, storeLen := p.storeLen,
        mailbox := p.mailbox, launchFn := p.launchFn, stage1 := p.stage1, ordinal := p.ordinal }
    top := s.nextId
    regions := s.regions.filter fun r => r.active && r.part == p.id
    tasks := s.tasks.filter fun t => t.part == p.id
    cohorts := s.cohorts.filter fun c => c.part == p.id
    groups := s.groups.filter fun g => g.part == p.id
    parks := s.parks.filter fun e => e.part == p.id
    bodies := s.bodies.filter fun b => b.part == p.id
    table := table? s p.id
    fns := s.launchFns.filter fun f => f.part == p.id
    offers := s.offers.filter fun o => o.part == p.id
    contexts := p.contexts }

/-! ### Its bytes -/

/-- A slot's settings as bytes. -/
def carriedSlotC : Codec CarriedSlot :=
  isoC
    (fun (x0, x1, x2, x3, x4, x5, x6, x7, x8, x9) => ⟨x0, x1, x2, x3, x4, x5, x6, x7, x8, x9⟩)
    (fun x => (x.ownerKey, x.ring, x.root, x.auditFn, x.storeBase, x.storeLen, x.mailbox, x.launchFn, x.stage1, x.ordinal)) <|
    pairC (listC (bvC 8)) <| pairC (optC ringC) <| pairC (bvC 64) <| pairC (optC natC) <| pairC natC <| pairC natC <| pairC natC <|
    pairC natC <| pairC natC <| natC

/-- What is carried as bytes. -/
def carriedC : Codec Carried :=
  isoC
    (fun (x0, x1, x2, x3, x4, x5, x6, x7, x8, x9, x10, x11) => ⟨x0, x1, x2, x3, x4, x5, x6, x7, x8, x9, x10, x11⟩)
    (fun x => (x.slot, x.top, x.regions, x.tasks, x.cohorts, x.groups, x.parks, x.bodies, x.table, x.fns, x.offers, x.contexts)) <|
    pairC carriedSlotC <| pairC natC <| pairC (listC regionC) <| pairC (listC taskC) <| pairC (listC cohortC) <| pairC (listC groupC) <|
    pairC (listC parkEntryC) <| pairC (listC looseBodyC) <| pairC (optC tableC) <| pairC (listC launchFnC) <| pairC (listC offerC) <|
    listC natC

/-- Bytes under the mask of the spec's unknown layout. DESIGN CHOICE (entry 45). -/
def carriedMasked (bs : List Byte) : List Byte := bs.mapIdx fun i b => b ^^^ Config.carriedMask i

/-- The payload of a queue-state object, padded with zero bytes to whole units (R28, R384). -/
def carriedBytes (c : Carried) : List Byte :=
  let bs := carriedMasked (carriedC.put c)
  bs ++ List.replicate (divUp bs.length 4096 * 4096 - bs.length) 0

/-- What a payload carries, if it carries anything. -/
def carriedOf (bs : List Byte) : Option Carried := (carriedC.get (carriedMasked bs)).map fun x => x.1

/-! ### The destination -/

/-- A number of the source at the destination, where numbers from `base` on are free; 0 stands for none. -/
def shifted (base n : Nat) : Nat := if n == 0 then 0 else base + n

/-- A launch on offer at the destination. -/
def adoptOffer (base part : Nat) (o : Offer) : Offer := { o with ticket := shifted base o.ticket, part := part }

/-- A task at the destination, where none of its groups has been bound yet (R74). -/
def adoptTask (base part : Nat) (t : Task) : Task :=
  { t with
    part := part, onDies := [], floors := [], fireSeq := shifted base t.fireSeq, serves := shifted base t.serves,
    held := t.held.map (adoptOffer base part) }

/-- A cohort with its barriers at the destination, in the lowest free frames of its die (R169, R384, R385). -/
def adoptCohort (base part : Nat) (s : State) (c : Cohort) : State :=
  let c1 : Cohort := { c with
    id := shifted base c.id, part := part, frames := freeFrames s c.die (c.size / 24576),
    barArrived := c.barArrived.map fun x => (x.1, shifted base x.2) }
  { s with cohorts := s.cohorts ++ [c1] }

/-- The wait of a group at the destination: its barrier waits on; a watched line counts as written; a wait that another package kept
is begun anew by its instruction (R93, R384). DESIGN CHOICE (entry 45). -/
def adoptWait (w : Wait) : Wait :=
  match w with
  | .bar _ | .done _ => w
  | .word _ | .woken => .woken
  | _ => .none

/-- Where a group stands at the destination. -/
def adoptStatus (g : Group) : GStatus :=
  match g.status with
  | .trapped => .trapped
  | .ended => .ended
  | .waiting => (match g.wait with
    | .bar _ => .waiting
    | _ => .ready)
  | _ => .ready

/-- A group at the destination: its Creamline stamp is 0, and its accesses have been ordered by the stop (R37, R343, R384).
Its image lies at its place of the context store, if the store is there. DESIGN CHOICE (entry 45). -/
def adoptGroup (base part : Nat) (store : Bool) (g : Group) : Group :=
  { g with
    gid := shifted base g.gid, part := part, cohort := shifted base g.cohort, status := adoptStatus g, wait := adoptWait g.wait,
    bindSeq := shifted base g.bindSeq, readySeq := shifted base g.readySeq, serves := g.serves.map (shifted base),
    image := if store then g.image else none, saved := store && g.saved, stamp := 0, peers := [], stores := [], seen := 0,
    rotating := false, traces := [] }

/-- A region at the destination, with its counter area and its watchpoints where they lie now (R53, R271). DESIGN CHOICE
(entry 45): it has been active before, so that no activation notice is sent here (R54). -/
def adoptRegion (part : Nat) (s : State) (r : Region) : State :=
  let c := counterAreaPlace s part r.counterArea.toNat
  let w := r.watch.foldl (fun (a : State × List Watch) x =>
    match devRange a.1 part .load x.va.toNat x.len with
    | (t, .ok [(p, _)]) => (t, a.2 ++ [{ x with place := p }])
    | (t, _) => (t, a.2)) (c.1, [])
  { w.1 with regions := w.1.regions ++ [{ r with part := part, counterPlace := countersHome c.2, watch := w.2 }] }

/-- The expert table at the destination, its area where it lies now (R351, R362). -/
def adoptTable (part : Nat) (s : State) (t : Table) : State :=
  let r := areaPages ⟨part, true, 0, 8, 192⟩ 32 s t.area
  { r.1 with tables := r.1.tables ++ [{ t with part := part, pages := r.2.getD [] }] }

/-- The pages of a queue's rings, found anew (R67). -/
def adoptQueue (p : Part) (a : State × List VQueue) (q : VQueue) : State × List VQueue :=
  let d := ringPages a.1 p false q.desc (Nat.max 1 (16 * q.size))
  let r := ringPages d.1 p false q.driver (6 + 2 * q.size)
  let u := ringPages r.1 p true q.device (6 + 8 * q.size)
  (u.1, a.2 ++ [{ q with descAt := d.2, driverAt := r.2, deviceAt := u.2, stopped := false }])

/-- A launch function at the destination; its queues go on from their indices (R384). -/
def adoptFn (p : Part) (s : State) (f : LaunchFn) : State :=
  if s.launchFns.any fun x => x.fn == f.fn then s
  else
    let q := f.queues.foldl (adoptQueue p) (s, [])
    { q.1 with launchFns := q.1.launchFns ++ [{ f with part := p.id, queues := q.2 }] }

/-- The slot at the destination: the owner's key if it is the one that is bound, functions that no one here has, and the context
store if its pages are there (R24, R37, R39, R369). DESIGN CHOICE (entry 45). -/
def adoptSlot (s : State) (p : Part) (c : CarriedSlot) : State :=
  let p1 : Part := { p with
    ownerKey := if digestOf (sm3 c.ownerKey) == p.keyDigest then c.ownerKey else []
    ring := c.ring, root := c.root, auditFn := c.auditFn, stage1 := c.stage1, ordinal := Nat.max p.ordinal c.ordinal
    mailbox := if s.parts.any (fun x => x.mailbox == c.mailbox) then 0xFFFF else c.mailbox
    launchFn := if s.launchFns.any (fun x => x.fn == c.launchFn) then 0xFFFF else c.launchFn }
  let r := if storeRangeOk c.storeBase c.storeLen then storePagesOf (putPart s p1) p1 c.storeBase c.storeLen else (putPart s p1, none)
  match r.2 with
  | none => r.1
  | some pages => putPart r.1 { (part? r.1 p.id).getD p1 with storeBase := c.storeBase, storeLen := c.storeLen, storePages := pages }

/-- An installed image written to a place of the context store, 4096 bytes at a time (R369). -/
def placeImage (s : State) (p : Part) (o : Nat) (bs : List Byte) : State :=
  (List.range (bs.length / 4096)).foldl (fun s k => putStore s p (o + 4096 * k) ((bs.drop (4096 * k)).take 4096)) s

/-- A context's image, if it was installed, at its group's place, with a Creamline stamp of 0 (R37, R343, R369). -/
def adoptImage (p : Part) (images : List (Nat × List Byte)) (contexts : List Nat) (s : State) (g : Group) : State :=
  match g.image with
  | none => s
  | some o =>
    let s1 := match images.find? fun x => contexts[x.1]? == some g.gid with
      | some x => placeImage s p o x.2
      | none => s
    putStore s1 p (o + 0x48) (natToBytes 8 0)

/-- The groups of a partition go on after a stop; recorded copies are issued again in full (R24, R384). -/
def resumeCopies (s : State) (part : Nat) : State :=
  let again (c : Copy) : Copy :=
    if c.st == .aborted then { c with st := .issued, bytes := 0, word := false, fault := none } else c
  { s with groups := s.groups.map fun g => if g.part == part then { g with copies := g.copies.map again } else g }

/-- The work that a partition brings along goes on after the commit (R37, R78, R384). -/
def adopt (s : State) (p : Part) (images : List (Nat × List Byte)) (payload : List Byte) : State :=
  match carriedOf payload with
  | none => s
  | some c =>
    let base := s.nextId
    let s1 := adoptSlot { s with nextId := base + c.top + 1 } p c.slot
    let p1 := (part? s1 p.id).getD p
    let store := p1.storeLen != 0
    let s2 : State := { s1 with
      tasks := s1.tasks ++ c.tasks.map (adoptTask base p.id)
      groups := s1.groups ++ c.groups.map (adoptGroup base p.id store)
      parks := s1.parks ++ c.parks.map fun e => { e with part := p.id }
      bodies := s1.bodies ++ c.bodies.map fun b => { b with part := p.id }
      offers := s1.offers ++ c.offers.map (adoptOffer base p.id) }
    let s3 := c.cohorts.foldl (adoptCohort base p.id) s2
    let s4 := c.regions.foldl (adoptRegion p.id) s3
    let s5 := c.table.toList.foldl (adoptTable p.id) s4
    let s6 := c.fns.foldl (adoptFn p1) s5
    let s7 := if store then c.groups.foldl (adoptImage p1 images c.contexts) s6 else s6
    resumeCopies s7 p.id

end Sys2Proof.Machine
end

