-- ==== Sys2Proof/Machine/Partition.lean ====
section
/-! DEFINITION. The operator's commands (R42): partitions created, deleted and reset (R24, R34, R35, R380), sessions and sealed
objects at the source and at the destination (R28, R29, R36, R37), rings (R43, R80) and queue pairs (R403). -/

namespace Sys2Proof.Machine

/-- The state after a look at `n` bytes of partition 0's physical memory that are to be written, and whether they can be (R40,
R42). -/
def operatorTakes (s : State) (a n : Nat) : State × Bool :=
  let r := pagePlaces operatorPiece (n / 0x10000 + 2) s a n
  (r.1, r.2.isSome)

/-- A management core's own access to physical memory, as an operator agent in partition 0: performed where every page is
partition 0's, else refused (R18, R21, R79). That it sets off what a host agent's does is DEDUCED (entry 22). -/
def managementAccess (op : AccessOp) (addr size : Nat) (data : List Byte) (s : State) : State :=
  let r := pagePlaces operatorPiece (size / 0x10000 + 2) s addr size
  match r.2 with
  | none => { r.1 with hostRead := [] }
  | some ps => hostPerform r.1 { part := 0, onHost := false, op := op, addr := addr, size := size, data := data } ps

/-- A command of the operator with no addresses but its completion word's is carried out if its checks pass (R40, R42). -/
def operatorChecked (s : State) (bs : List Byte) (checks : List (Nat × Bool)) (k : State → CmdResult) : CmdResult :=
  cmdAddressed s none bs checks fun s word => cmdChecked s [(4, word)] (k s)

/-! ### Partitions -/

/-- The state of the partition that a command names. -/
def stateIn (s : State) (part : Nat) (ok : PState → Bool) : Bool := part != 0 && (part? s part).any fun p => ok p.st

/-- CREATE (R24, R39): the slot takes a secret, and both functions are tied to the partition. DESIGN CHOICE (entry 57):
partition 0 lies outside the limits of the operand, so that the reply is 1 and not 2. -/
def execCreate (block : Nat) (secret : BitVec 256) (s : State) : Host.Outcome State Fault Refusal :=
  operatorCommand s block 0x10 fun s bs =>
    let f (o n : Nat) : Nat := bytesAt bs o n
    let id := f 0x20 1
    let p : Part := { Part.empty id .created with
      secret := secret, mailbox := f 0x22 2, launchFn := f 0x24 2, stage2 := (Sparse.get s.freeRoots id).toNat }
    operatorChecked s bs [(1, decide (1 ≤ id) && decide (id < 64)), (2, (part? s id).isNone)] fun s =>
      .reply { fabricUp s id with
        parts := s.parts ++ [p], freeRoots := Sparse.set s.freeRoots id 0
        launchFns := s.launchFns.filter (fun x => x.fn != f 0x24 2) ++ [LaunchFn.reset (f 0x24 2) id] } 0 []

/-- No pre-emption request and no lease write waits for a group any more. -/
def forgetWaits (s : State) (gid : Nat) : State :=
  { s with
    preempts := s.preempts.map fun q => { q with dies := q.dies.map fun x =>
      { x with draining := x.draining.filter fun n => n != gid, saving := x.saving.filter fun n => n != gid } }
    leaseJobs := s.leaseJobs.map fun j => { j with waitFor := j.waitFor.filter fun n => n != gid } }

/-- A group of a partition that is reset or deleted is stopped and not saved; its provisional counts go to those of discards
(R380, R392). -/
def stopGroup (s : State) (gid : Nat) : State :=
  modGroup (flushProv (unbind (forgetWaits s gid) gid .ended) gid 0x40) gid fun g =>
    { g with image := none, saved := false, wait := .none, bodyState := .none, pinned := 0 }

/-- The requests to peers that a partition's groups leave unanswered, each with its peer (R336). -/
def lateTickets (s : State) (part : Nat) : List (Nat × Nat) :=
  (s.groups.filter fun g => g.part == part).flatMap fun g =>
    (g.peers.filter fun p => p.reply.isNone).map fun p => (p.ticket, p.pkg)

/-- The tasks and the launches on offer of a partition: their held requests are answered 5, that of a task whose completion word is
written 3, or travel with the partition (R77, R78, R384). That launches on offer are answered 5 is DEDUCED (entry 43). -/
def stopTasks (s : State) (part : Nat) (travels : Bool) : State :=
  let s1 := if travels then
      { s with tasks := s.tasks.map fun t => if t.part == part then { t with held := none } else t }
    else s
  let s2 := (s1.tasks.filter fun t => t.part == part).foldl (fun s t => freeEntry s t (if t.status == .completed then 3 else 5)) s1
  let s3 := if travels then s2
    else (s2.offers.filter fun o => o.part == part).foldl (fun s o => answerLaunch s o 5 0 0) s2
  { s3 with offers := s3.offers.filter fun o => o.part != part }

/-- The work of a partition is given up here: groups, copies, park entries, tasks, launches on offer, the expert table, queue
pairs and seal requests go (R78, R249, R336, R380, R403). -/
def stopWork (s : State) (part : Nat) (travels : Bool) : State :=
  let s1 := (s.groups.filter fun g => g.part == part && g.status != .ended).foldl (fun s g => stopGroup s g.gid) s
  let s2 := (s1.regions.filter fun r => r.active && r.part == part).foldl (fun s r => dropParked s part r.id) s1
  let s3 := modFabric s2 fun f => { f with late := f.late ++ lateTickets s part }
  let s4 := stopTasks s3 part travels
  releaseQps { s4 with
    groups := s4.groups.filter fun g => g.part != part
    tables := s4.tables.filter fun t => t.part != part
    bodies := s4.bodies.filter fun b => b.part != part
    seals := s4.seals.filter fun j => j.part != part } part

/-- The teardown notice of a partition's fabric function here (R336, R339). -/
def teardownNotice (s : State) (part : Nat) : State :=
  sendMessage { s with nextId := s.nextId + 1 } s.nextId { plainMessage s 5 part with arg := s.fabric.pkg }

/-- A session's state given up (R24, R37). -/
def Part.sessionOver (p : Part) : Part :=
  { p with session := 0, objects := [], images := [], queueState := [], stopped := false, stopping := false, contexts := [],
           clean := [] }

/-- A partition is scrubbed and its secret destroyed (R24, R35, R37). -/
def toScrubbing (s : State) (part : Nat) : State :=
  { s with parts := s.parts.map fun p =>
      if p.id == part then { p.sessionOver with st := .scrubbing, secret := 0 } else p }

/-- DELETE (R35, R336). -/
def execDelete (block : Nat) (s : State) : Host.Outcome State Fault Refusal :=
  operatorCommand s block 0x11 fun s bs =>
    let id := bytesAt bs 0x20 1
    operatorChecked s bs [(1, decide (id < 64)), (2, stateIn s id fun x => x == .created || x == .owned)] fun s =>
      .reply (toScrubbing (teardownNotice (stopWork s id false) id) id) 0 []

/-- The time-shared dies in a partition's lease (R25, R34). -/
def sharedDies (s : State) (part : Nat) : List Nat :=
  (List.range 8).filter fun d => leased s d part && Sparse.get s.lease d != BitVec.ofNat 64 (2 ^ part)

/-- RESET: the work is stopped, and the time-shared dies are leased to the partition alone (R34, R38, R336, R380). -/
def execReset (block : Nat) (s : State) : Host.Outcome State Fault Refusal :=
  operatorCommand s block 0x12 fun s bs =>
    let id := bytesAt bs 0x20 1
    operatorChecked s bs [(1, decide (id < 64)), (2, stateIn s id fun x => x == .owned || x == .sealing)] fun s =>
      let s1 := teardownNotice (stopWork s id false) id
      let s2 := { s1 with parts := s1.parts.map fun p => if p.id == id then { p.sessionOver with st := .resetting } else p }
      .reply ((sharedDies s2 id).foldl (fun s d => leaseArrive s d (BitVec.ofNat 64 (2 ^ id)) (some id)) s2) 0 []

/-- The 64 KiB pages whose tags name a partition (R18). -/
def taggedPages (s : State) (part : Nat) : List Nat :=
  (s.owners.filter fun x => x.2 == BitVec.ofNat 8 (0x80 + part)).map fun x => x.1

/-- Every page tagged with a partition zeroed (R34, R35). -/
def scrubPages (s : State) (part : Nat) : State :=
  (taggedPages s part).foldl (fun s n => zeroRange s (n * 0x10000) 0x10000) s

/-- The leases that a reset took are given back, and the writes that it held take effect (R34). -/
def giveBack (s : State) (back : List (Nat × Word)) : State :=
  let s1 := back.foldl (fun s b => { s with lease := Sparse.set s.lease b.1 b.2 }) s
  back.foldl (fun s b => beginLease (s.leaseJobs.length + 1) s b.1) s1

/-- An envelope that concerns every active region of a partition counts in each (R392). DEDUCED (entry 58). -/
def countEverywhere (s : State) (part n amount : Nat) : State :=
  { s with regions := s.regions.map fun r =>
      if r.active && r.part == part then
        { r with counters := Sparse.set r.counters n (Sparse.get r.counters n + BitVec.ofNat 64 amount) }
      else r }

/-- A partition that was reset is OWNED again; the operator and the owner are told the pages scrubbed (R31, R34, R392). -/
def resetDone (s : State) (p : Part) : State :=
  let n := (taggedPages s p.id).length
  let s1 := giveBack (putPart (fabricUp (scrubPages s p.id) p.id) { p with st := .owned, leaseBack := [] }) p.leaseBack
  envelopeBoth (countEverywhere s1 p.id 0x29 2) 9 n (noPlace p.id 0 0)

/-- The regions of a partition that are still active stop being active (R46, R390). -/
def teardownAll (s : State) (part : Nat) : State :=
  (s.regions.filter fun r => r.active && r.part == part).foldl teardown s

/-- A partition that was deleted or committed away is FREE: the zeroing of its fresh pages is over, its regions have ended,
its tags are invalid, and nothing of it stays but its stage-2 root (R24, R35, R267, R390). -/
def scrubDone (s : State) (p : Part) : State :=
  let s0 := (s.zeroing.filter fun j => j.part == p.id).foldl zeroDone s
  let s1 := scrubPages (teardownAll s0 p.id) p.id
  { s1 with
    owners := s1.owners.map fun x => if x.2 == BitVec.ofNat 8 (0x80 + p.id) then (x.1, BitVec.ofNat 8 p.id) else x
    parts := s1.parts.filter fun x => x.id != p.id
    freeRoots := Sparse.set s1.freeRoots p.id (BitVec.ofNat 64 p.stage2)
    regions := s1.regions.filter fun r => r.part != p.id
    cohorts := s1.cohorts.filter fun c => c.part != p.id
    launchFns := s1.launchFns.filter fun f => f.part != p.id
    tlb := s1.tlb.filter fun e => e.part != p.id }

/-- SCRUB_COMPLETE: after a reset once its leases are exclusive, and after a deletion (R24, R34, R35). -/
def execScrubComplete (part : Nat) (s : State) : Host.Outcome State Fault Refusal :=
  .next <|
    match part? s part with
    | none => s
    | some p =>
      match p.st with
      | .resetting => if s.leaseJobs.any fun j => j.owner == some part then s else resetDone s p
      | .scrubbing => scrubDone s p
      | _ => s

/-! ### Sealed objects (R28) -/

/-- The tweak of a unit (R28). -/
def tweakOf (unit_ round object kind : Nat) : BitVec 128 :=
  BitVec.ofNat 128 (unit_ % 2 ^ 32 + 2 ^ 32 * (round % 2 ^ 32) + 2 ^ 64 * (object % 2 ^ 56) + 2 ^ 120 * kind)

/-- A payload encrypted or decrypted unit by unit (R28). -/
def payloadUnits (f : BitVec 256 → BitVec 128 → List Byte → List Byte) (secret : BitVec 256) (round object kind : Nat)
    (bs : List Byte) : List Byte :=
  ((List.range (bs.length / 4096)).map fun u => f secret (tweakOf u round object kind) ((bs.drop (4096 * u)).take 4096)).flatten

/-- The bytes 0x00 to 0x5F of a sealed object's header (R28). -/
def sealHead (p : Part) (kind round len object final : Nat) : List Byte :=
  natToBytes 4 0x4C414553 ++ natToBytes 1 kind ++ natToBytes 1 p.id ++ natToBytes 2 0 ++ natToBytes 8 p.session.toNat ++
    natToBytes 4 round ++ natToBytes 4 len ++ natToBytes 8 object ++ natToBytes 4 final ++ natToBytes 60 0

/-- A sealed object: header, MAC and encrypted payload (R28). -/
def sealedObject (p : Part) (kind round object final : Nat) (payload : List Byte) : List Byte :=
  let head := sealHead p kind round payload.length object final
  let body := payloadUnits sealUnit p.secret round object kind payload
  head ++ objectMac p.secret (head ++ body) ++ body

/-- An object is noted as sealed or installed at a round (R29, R37). -/
def noteObject (p : Part) (kind object round : Nat) : Part :=
  { p with objects := p.objects.filter (fun x => !(x.1 == kind && x.2.1 == object)) ++ [(kind, object, round)] }

/-! ### Sessions at the source (R36, R37) -/

/-- A consent record is well formed for its partition (R36). -/
def consentOk (p : Part) (bs : List Byte) : Bool :=
  let f (o n : Nat) : Nat := bytesAt bs o n
  f 0 4 == 0x434E5354 && f 4 1 == 1 && f 5 1 == p.id && f 6 2 != 0 && f 8 8 != 0 && f 0x10 128 != 0 && f 0x90 48 == 0

/-- Where the consent record of a partition lies: as the copy of its active root region says, or else its root block (R36, R46). -/
def consentAddress (s : State) (p : Part) : State × Nat :=
  match s.regions.find? fun r => r.active && r.part == p.id && r.addr == p.root with
  | some r => (s, r.consent.toNat)
  | none =>
    let x := devGet s p.id (p.root.toNat + 0x38) 8
    (x.1, (x.2.map bytesToNat).getD 0)

/-- The consent record of a partition; none where no address names one, or it cannot be read (R36). -/
def consentRecord (s : State) (p : Part) : State × Option (List Byte) :=
  let a := consentAddress s p
  if a.2 == 0 || a.2 % 64 != 0 then (a.1, none) else devGet a.1 p.id a.2 256

/-- The owner's key bound to a slot has verified the consent (R24, R36). -/
def consentSigned (p : Part) (c : List Byte) : Bool :=
  digestOf (sm3 p.ownerKey) == p.keyDigest && ownerSigned p.ownerKey (c.take 0xC0) (c.drop 0xC0)

/-- The first reason for which a session is refused, 0 for none (R31, R36, R37). The order is DEDUCED (entry 44). DESIGN
CHOICE (entry 57): reason 1 also where no consent record is given or can be read, or where it is not well formed. -/
def sessionRefusal (p : Part) (consent : Option (List Byte)) (report : List Byte) : Nat :=
  match consent with
  | none => 1
  | some c =>
    let seq := bytesAt c 8 8
    let uses := if p.seqHigh < seq then bytesAt c 6 2 else p.usesLeft
    if !consentOk p c || !consentSigned p c then 1
    else if seq < p.seqHigh then 2
    else if uses == 0 then 3
    else if !reportGenuine report then 4
    else if bytesAt report 0x30 32 != 0 && (List.range 4).any fun k => bytesAt c (0x10 + 32 * k) 32 == bytesAt report 0x30 32 then 0
    else 5

/-- The plaintext of a key blob (R42). -/
def blobPlain (p : Part) (session : Word) : List Byte :=
  digestBytes p.secret ++ natToBytes 1 p.id ++ natToBytes 8 session.toNat ++ digestBytes p.keyDigest

/-- A key blob for the destination whose identity key is given, encrypted with the draw of number `n` (R42). -/
def keyBlob (key : List Byte) (p : Part) (session : Word) (n : Nat) : List Byte :=
  (sm2Encrypt key (sm2Nonce n) (blobPlain p session) ++ List.replicate 256 0).take 256

/-- A session opened with an accepted consent: the slot is SEALING, and the blob is written (R36, R37). -/
def sessionOpened (s : State) (p : Part) (consent report : List Byte) (session : Word) (dest : Nat) : State :=
  let seq := bytesAt consent 8 8
  let uses := if p.seqHigh < seq then bytesAt consent 6 2 else p.usesLeft
  issuerWrite
    (putPart { s with nextId := s.nextId + 1 }
      { p.sessionOver with st := .sealing, session := session, seqHigh := seq, usesLeft := uses - 1 })
    none dest (keyBlob ((report.drop 0x70).take 64) p session s.nextId)

/-- OPEN_SESSION: a refusal sends the envelope of class 7 with its reason; replies 3 for a signature, 5 for the rest (R24,
R36, R37). DESIGN CHOICE (entry 57): the envelope goes to the operator, and at the report's address lie the 2 KiB that attest
gives (R41). -/
def execOpenSession (block : Nat) (session : BitVec 64) (s : State) : Host.Outcome State Fault Refusal :=
  operatorCommand s block 0x13 fun s bs =>
    let id := bytesAt bs 0x20 1
    let dest := bytesAt bs 0x30 8
    cmdAddressed s none bs
      [(1, decide (id < 64) && dest % 64 == 0), (2, stateIn s id fun x => x == .owned)] fun s word =>
        let r := operatorGet s (bytesAt bs 0x28 8) 2048
        let d := issuerTakes r.1 none dest 256
        match part? d.1 id, r.2 with
        | some p, some report =>
          let c := consentRecord d.1 p
          let why := sessionRefusal p c.2 report
          if !word || !d.2 then .reply d.1 4 []
          else if why == 0 then .reply (sessionOpened c.1 p (c.2.getD []) report session dest) 0 []
          else .reply (envelope c.1 .operator 7 0 why (noPlace id 0 0)) (if why == 1 || why == 4 then 3 else 5) []
        | _, _ => .reply d.1 4 []

/-- The greatest round of a session's objects. -/
def finalRound (p : Part) : Nat := p.objects.foldl (fun n x => Nat.max n x.2.2) 0

/-- COMMIT: the commit object is written, the work is given up here, and the source is scrubbed (R37, R78, R336). DESIGN
CHOICE (entry 57): its header's round field, whose use for a commit the spec leaves open, holds the final round too, and an
install does not look at it (R28). -/
def execCommit (block : Nat) (s : State) : Host.Outcome State Fault Refusal :=
  operatorCommand s block 0x16 fun s bs =>
    let id := bytesAt bs 0x20 1
    let dest := bytesAt bs 0x28 8
    cmdAddressed s none bs
      [(1, decide (id < 64) && dest % 128 == 0),
       (2, stateIn s id (fun x => x == .sealing) && (part? s id).any fun p => p.stopped)] fun s word =>
        let d := issuerTakes s none dest 128
        match part? d.1 id with
        | none => .reply d.1 2 []
        | some p =>
          let r := finalRound p
          cmdChecked d.1 [(4, word && d.2)]
            (.reply
              (toScrubbing
                (teardownNotice (stopWork (issuerWrite d.1 none dest (sealedObject p 3 r p.objects.length r [])) id true) id) id)
              0 [])

/-- A source goes on as OWNED after its session has been given up (R24). -/
def sessionAborted (s : State) (part : Nat) : State :=
  resumeCopies { s with
    seals := s.seals.filter fun j => j.part != part
    parts := s.parts.map fun p => if p.id == part then { p.sessionOver with st := .owned } else p } part

/-- ABORT: a source goes on as OWNED, a destination is scrubbed (R24). -/
def execAbort (block : Nat) (s : State) : Host.Outcome State Fault Refusal :=
  operatorCommand s block 0x17 fun s bs =>
    let id := bytesAt bs 0x20 1
    operatorChecked s bs [(1, decide (id < 64)), (2, stateIn s id fun x => x == .sealing || x == .staged)] fun s =>
      .reply (if stateIn s id fun x => x == .sealing then sessionAborted s id else toScrubbing (stopWork s id false) id) 0 []

/-! ### The destination (R29, R37) -/

/-- The slot that a decrypted key blob fills. DESIGN CHOICE (entry 45): until a queue-state object is taken up it has no
functions, no root region, no ring, no stage-1 root and no context store. -/
def stagedPart (s : State) (t : List Byte) : Part :=
  let id := bytesAt t 32 1
  { Part.empty id .staged with
    secret := digestOf (t.take 32), session := BitVec.ofNat 64 (bytesAt t 33 8), keyDigest := digestOf ((t.drop 41).take 32),
    stage2 := (Sparse.get s.freeRoots id).toNat }

/-- STAGE: a key blob that this package decrypts fills a FREE slot (R24, R37, R42). The slot is known only when the blob is. -/
def execStage (block : Nat) (s : State) : Host.Outcome State Fault Refusal :=
  operatorCommand s block 0x14 fun s bs =>
    cmdAddressed s none bs [] fun s word =>
      let r := operatorGet s (bytesAt bs 0x28 8) 256
      match r.2.map (sm2Decrypt (identitySecret 8) 73) with
      | none => .reply r.1 4 []
      | some none => .reply r.1 3 []
      | some (some t) =>
        let id := bytesAt t 32 1
        cmdChecked r.1 [(2, decide (1 ≤ id) && decide (id < 64) && (part? r.1 id).isNone), (4, word)]
          (.reply { r.1 with parts := r.1.parts ++ [stagedPart r.1 t], freeRoots := Sparse.set r.1.freeRoots id 0 } 0 [])

/-- The destination accepts the commit: it holds exactly the objects counted, none installed later than the final round (R37). -/
def commitMatches (p : Part) (count final : Nat) : Bool :=
  p.objects.length == count && p.objects.all fun x => decide (x.2.2 ≤ final)

/-- A header's fields are valid for its kind (R28, R29). -/
def sealHeadOk (h : List Byte) : Bool :=
  let f (o n : Nat) : Nat := bytesAt h o n
  let len := f 0x14 4
  f 0 4 == 0x4C414553 && f 6 2 == 0 && f 0x24 60 == 0 && (f 4 1 == 3 || f 0x20 4 == 0) &&
    (match f 4 1 with
     | 1 => len == 65536 && decide (f 0x18 8 < 2 ^ 36)
     | 2 => len != 0 && len % 4096 == 0 && decide (len ≤ 47 * 4096) && decide (f 0x18 8 < 2 ^ 32)
     | 3 => len == 0
     | 4 => len % 4096 == 0 && f 0x18 8 == 0
     | _ => false)

/-- An object that is dropped: the operator is told the reason (R29, R31). -/
def objectDropped (s : State) (part reason : Nat) : CmdResult :=
  .reply (envelope s .operator 7 0 reason (noPlace part 0 0)) 5 []

/-- The destination of a commit that is accepted: OWNED, with the work that it brings along (R37). -/
def committed (s : State) (p : Part) : State :=
  let q := { p.sessionOver with st := .owned }
  adopt (putPart (fabricUp s p.id) q) q p.images p.queueState

/-- An object with all its checks passed takes effect (R29, R37). -/
def installObject (s : State) (p : Part) (kind object round final : Nat) (body : List Byte) : CmdResult :=
  let plain := payloadUnits openUnit p.secret round object kind body
  let q := noteObject p kind object round
  match kind with
  | 1 =>
    let r := guestPlace p true s (object * 0x10000)
    (match r.2 with
     | none => .reply r.1 4 []
     | some a => .reply (putPart (putBytes r.1 a plain) q) 0 [])
  | 2 => .reply (putPart s { q with images := q.images.filter (fun x => x.1 != object) ++ [(object, plain)] }) 0 []
  | 4 => .reply (putPart s { q with queueState := plain }) 0 []
  | _ => if commitMatches p object final then .reply (committed s p) 0 [] else .reply s 5 []

/-- A sealed object read for a STAGED slot: checked, dropped or installed (R29). DESIGN CHOICE (entry 57): the reply to an
object whose round is not above the one installed, which is dropped without effect, is 0. -/
def installChecked (s : State) (p : Part) (h body : List Byte) : CmdResult :=
  let f (o n : Nat) : Nat := bytesAt h o n
  if !sealHeadOk h || f 5 1 != p.id || f 8 8 != p.session.toNat then objectDropped s p.id 7
  else if objectMac p.secret (h.take 0x60 ++ body) != (h.drop 0x60).take 32 then objectDropped s p.id 6
  else if f 4 1 != 3 && p.objects.any fun x => x.1 == f 4 1 && x.2.1 == f 0x18 8 && decide (f 0x10 4 ≤ x.2.2) then .reply s 0 []
  else installObject s p (f 4 1) (f 0x18 8) (f 0x10 4) (f 0x20 4) body

/-- INSTALL (R29): the payload of a header that is not valid is not read. -/
def execInstall (block : Nat) (s : State) : Host.Outcome State Fault Refusal :=
  operatorCommand s block 0x15 fun s bs =>
    let id := bytesAt bs 0x20 1
    let from_ := bytesAt bs 0x28 8
    cmdAddressed s none bs [(1, decide (id < 64)), (2, stateIn s id fun x => x == .staged)] fun s word =>
      let r := operatorGet s from_ 128
      let h := r.2.getD []
      let b := if r.2.isSome && sealHeadOk h then operatorGet r.1 (from_ + 128) (bytesAt h 0x14 4) else (r.1, some [])
      match part? b.1 id, b.2 with
      | some p, some body => cmdChecked b.1 [(4, word && r.2.isSome)] (installChecked b.1 p h body)
      | _, _ => .reply b.1 4 []

/-! ### Rings and queue pairs -/

/-- A ring command's operands: the die, the base and the entries of a ring of entries of `size` bytes (R42, R43). -/
def ringCommand (s : State) (bs : List Byte) (size : Nat) (put : State → Nat → Ring → State) : CmdResult :=
  let f (o n : Nat) : Nat := bytesAt bs o n
  let die := f 0x20 1
  let base := f 0x28 8
  let n := f 0x30 4
  cmdAddressed s none bs [(1, (die == 8 || die == 9) && ringOk base n)] fun s word =>
    let r := operatorTakes s base (0x40 + size * n)
    cmdChecked r.1 [(4, word && r.2)] (.reply (put (ringStart r.1 base fun a => some a) die (Ring.fresh base n)) 0 [])

/-- REGISTER_ENVELOPE_RING (R32, R43). -/
def execRegisterEnvelopeRing (block : Nat) (s : State) : Host.Outcome State Fault Refusal :=
  operatorCommand s block 0x18 fun s bs =>
    ringCommand s bs 32 fun s die r => if die == 8 then { s with ring8 := some r } else { s with ring9 := some r }

/-- REGISTER_DEMAND_RING (R43, R80). -/
def execRegisterDemandRing (block : Nat) (s : State) : Host.Outcome State Fault Refusal :=
  operatorCommand s block 0x19 fun s bs =>
    ringCommand s bs 16 fun s die r => if die == 8 then { s with demand8 := some r } else { s with demand9 := some r }

/-- A queue pair as it is connected (R403). -/
def QueuePair.connected (q part mtu : Nat) (gid : List Byte) (remote send recv : Nat) : QueuePair :=
  { q := q, part := part, mtu := mtu, gid := gid, remoteQp := remote, sendPsn := send, recvPsn := recv, sendAt := [],
    sendEntries := 0, recvAt := [], recvEntries := 0, cqAt := [], cqEntries := 0, sendProd := 0, recvProd := 0, sendIdx := 0,
    recvIdx := 0, cqIdx := 0, cqCons := 0, error := false, work := [], flushing := false, resends := 0, rate := none }

/-- CONNECT_QUEUE_PAIR (R403). -/
def execConnectQueuePair (block : Nat) (s : State) : Host.Outcome State Fault Refusal :=
  operatorCommand s block 0x1A fun s bs =>
    let f (o n : Nat) : Nat := bytesAt bs o n
    let q := f 0x20 1 * 16384 + f 0x24 4
    let part := f 0x21 1
    cmdAddressed s none bs
      [(1, decide (f 0x20 1 ≤ 7) && decide (1 ≤ part) && decide (part < 64) && decide (f 0x22 1 ≤ 2) && f 0x23 1 == 0 &&
          decide (f 0x24 4 < 16384) && decide (f 0x38 4 < 2 ^ 24) && decide (f 0x3C 4 < 2 ^ 24) && decide (f 0x40 4 < 2 ^ 24) &&
          f 0x44 92 == 0),
       (2, stateIn s part fun x => x == .owned)] fun s word =>
        cmdChecked s [(4, word), (5, (qp? s q).isNone)]
          (.reply { s with qps := s.qps ++ [QueuePair.connected q part (f 0x22 1) ((bs.drop 0x28).take 16) (f 0x38 4) (f 0x3C 4)
            (f 0x40 4)] } 0 [])

/-- RELEASE_QUEUE_PAIR: one that is not tied is released already (R403). -/
def execReleaseQueuePair (block : Nat) (s : State) : Host.Outcome State Fault Refusal :=
  operatorCommand s block 0x1B fun s bs =>
    let port := bytesAt bs 0x20 1
    let n := bytesAt bs 0x24 4
    operatorChecked s bs [(1, decide (port ≤ 7) && decide (n < 16384))] fun s =>
      .reply (match qp? s (port * 16384 + n) with
        | none => s
        | some x => releaseQp s x) 0 []

end Sys2Proof.Machine
end

