-- ==== Sys2Proof/Machine/Migration.lean ====
section
/-! DEFINITION. The operator's functions of a migration: `xo.dirty` (R381, R382), `xo.seal` and `xo.ctx` (R383), `xo.stop`
(R384). -/

namespace Sys2Proof.Machine

/-- A function of the operator refused: its destination receives 0 (R22). -/
def xoRefused (s : State) (g : Group) (d : Reg) (y : BitVec 1) : State :=
  retireIn (refuse s g 0) g.gid fun x => xResult x d y 0

/-- The partition that a function names, if it is SEALING (R381). -/
def sealingPart (s : State) (n : Nat) : Option Part :=
  (part? s n).bind fun p => if p.st == .sealing then some p else none

/-! ### Dirty bits -/

/-- A guest-physical page is one of the partition's: stage 2 maps it to a page that the partition owns, or that is fresh (R267,
R381). -/
def gpaOwned (s : State) (p : Part) (n : Nat) : Bool :=
  match stage2 s p (n * 0x10000) with
  | .ok pg => pg.target == 0 && (beingZeroed s (pg.base + n * 0x10000 % pg.size) || pageOwned s p.id (pg.base + n * 0x10000 % pg.size))
  | .zero _ => true
  | .fail _ => false

/-- The dirty bits of 64 pages from `n` on (R381, R382). -/
def dirtyBits (s : State) (p : Part) (n : Nat) : Nat :=
  (List.range 64).foldl (fun v k => if gpaOwned s p (n + k) && !p.clean.contains (n + k) then v + 2 ^ k else v) 0

/-- The 64 pages' bits cleared. -/
def cleanPages (s : State) (p : Part) (n : Nat) : Part :=
  { p with clean := p.clean ++ ((List.range 64).map fun k => n + k).filter fun m => gpaOwned s p m && !p.clean.contains m }

/-- XO_DIRTY (R381, R382). -/
def execXoDirty (d a b : Reg) (y : BitVec 1) (s : State) : Host.Outcome State Fault Refusal :=
  onDrained s fun g =>
    if g.auth != 1 then xoRefused s g d y
    else
      let v := (sreg g a).toNat
      let n := (sreg g b).toNat
      if n % 64 != 0 then trapScalar s g 0x01
      else if 64 ≤ v then trapScalar s g 0x02
      else
        match sealingPart s v with
        | none => xoRefused s g d y
        | some p => retireIn (putPart s (cleanPages s p n)) g.gid fun x => xResult x d y (BitVec.ofNat 64 (dirtyBits s p n))

/-! ### Sealing -/

/-- A seal descriptor is well formed for its function (R383). -/
def sealDescOk (ctx : Bool) (bs : List Byte) : Bool :=
  let f (o n : Nat) : Nat := bytesAt bs o n
  let kind := f 1 1
  (if ctx then kind == 2 || kind == 4 else kind == 1) && f 2 2 == 0 && f 4 4 != 0 && f 0x10 8 % 128 == 0 &&
    f 0x18 8 % 8 == 0 && f 0x28 8 == 0 && (kind != 1 || decide (f 8 8 < 2 ^ 36)) && (kind != 4 || f 8 8 == 0)

/-- A descriptor that has been read: refused by R22, malformed, too early, or accepted (R383). -/
def sealAccept (s : State) (g : Group) (d : Reg) (y : BitVec 1) (ctx : Bool) (bs : List Byte) : State :=
  let f (o n : Nat) : Nat := bytesAt bs o n
  let reply (s : State) (n : Nat) : State := retireIn s g.gid fun x => xResult x d y (BitVec.ofNat 64 n)
  match sealingPart s (f 0 1) with
  | none =>
    (match group? s g.gid with
     | none => s
     | some g1 => xoRefused s g1 d y)
  | some p =>
    if !sealDescOk ctx bs then reply s 1
    else if ctx && (!p.stopped || (f 1 1 == 2 && decide (p.contexts.length ≤ f 8 8))) then reply s 2
    else
      let j : SealJob :=
        { ticket := s.nextId, part := p.id, kind := f 1 1, round := f 4 4, object := f 8 8, dest := f 0x10 8,
          word := f 0x18 8, value := BitVec.ofNat 64 (f 0x20 8) }
      reply { s with nextId := s.nextId + 1, seals := s.seals ++ [j] } 0

/-- `xo.seal` and `xo.ctx`: an owner's use is refused; the descriptor is read as the group's data (R383). -/
def sealFunction (d a : Reg) (y : BitVec 1) (ctx : Bool) (s : State) : Host.Outcome State Fault Refusal :=
  onDrained s fun g =>
    if g.auth != 1 then xoRefused s g d y
    else
      withData s g (sreg g a).toNat 64 64 (fun s => retireIn s g.gid fun x => xResult x d y 1) fun s1 bs =>
        sealAccept s1 g d y ctx bs

/-- XO_SEAL (R383). -/
def execXoSeal (d a : Reg) (y : BitVec 1) (s : State) : Host.Outcome State Fault Refusal := sealFunction d a y false s

/-- XO_CTX (R383). -/
def execXoCtx (d a : Reg) (y : BitVec 1) (s : State) : Host.Outcome State Fault Refusal := sealFunction d a y true s

/-- The bytes to be sealed: a page as it stands, a context image, or the queue state; none if they cannot be read (R28, R383,
R384). -/
def sealPayload (s : State) (p : Part) (j : SealJob) : State × Option (List Byte) :=
  match j.kind with
  | 1 => guestGet s p (j.object * 0x10000) 0x10000
  | 2 =>
    let s1 := storeReady s p.id
    (s1, ((p.contexts[j.object]?).bind (group? s1)).bind fun g => g.image.bind fun o =>
      let n := imageSize g.vcount g.tcount
      if imageReadable s1 p o n then some (getStore s1 p o n) else none)
  | _ => (s, some (carriedBytes (carriedOut s p)))

/-- SEAL_COMPLETE: the object and then the completion word are written; a failure to read or write writes the inverted value and
no object (R383). -/
def execSealComplete (ticket : Nat) (s : State) : Host.Outcome State Fault Refusal :=
  .next <|
    match s.seals.find? fun j => j.ticket == ticket with
    | none => s
    | some j =>
      match part? s j.part with
      | none => s
      | some p =>
        let w := unitWriter 0 2
        let word (s : State) (v : Word) : State := (devSet s w j.word (natToBytes 8 v.toNat)).1
        let b := sealPayload { s with seals := s.seals.filter fun x => x.ticket != ticket } p j
        match b.2 with
        | none => word b.1 (~~~j.value)
        | some bs =>
          let d := devSet b.1 w j.dest (sealedObject p j.kind j.round j.object 0 bs)
          if d.2 then
            word { d.1 with parts := d.1.parts.map fun x => if x.id == p.id then noteObject x j.kind j.object j.round else x } j.value
          else word d.1 (~~~j.value)

/-! ### The stop (R384) -/

/-- The copies in flight of a partition's groups aborted, their completion words not written; what is on the way to peers
is counted when it is answered (R384, R386). -/
def abortCopies (s : State) (part : Nat) : State :=
  let stop (c : Copy) : Copy := if copyOver c then c else { c with st := .aborted }
  { s with groups := s.groups.map fun g =>
      if g.part == part then { g with
        copies := g.copies.map stop,
        peers := g.peers.map fun p => if p.copy == 0 then p else { p with redone := true } }
      else g }

/-- A switch that is not published is rolled back, and one that is reaches every die (R356, R357, R384). -/
def settleSwitch (s : State) (part : Nat) : State :=
  match table? s part with
  | none => s
  | some t =>
    match t.switch with
    | none => s
    | some w =>
      if w.step == 4 then
        let v := BitVec.ofNat 32 t.version
        putTable s { t with switch := none, dieVersion := (List.range 8).foldl (fun m d => Sparse.set m d v) t.dieVersion }
      else rollBack s t w

/-- A stop begins: the partition's groups are to give up their slots, and the issuing group sleeps (R384). -/
def beginStop (s : State) (g : Group) (p : Part) : State := sleep (putPart s { p with stopping := true }) g (.stop p.id)

/-- XO_STOP: it waits for the stop, and returns the number of contexts (R384). -/
def execXoStop (d a : Reg) (y : BitVec 1) (s : State) : Host.Outcome State Fault Refusal :=
  onDrained s fun g =>
    match g.wait with
    | .done v => retire s (xResult g d y v)
    | _ =>
      if g.auth != 1 then xoRefused s g d y
      else
        let v := (sreg g a).toNat
        if 64 ≤ v then trapScalar s g 0x02
        else
          match sealingPart s v with
          | none => xoRefused s g d y
          | some p =>
            if p.stopped then retire s (xResult g d y (BitVec.ofNat 64 p.contexts.length))
            else if p.stopping then sleep s g (.stop p.id)
            else beginStop s g p

/-- The groups of a partition that have not ended, in ascending (task handle, index). -/
def contextOrder (s : State) (part : Nat) : List Group :=
  sortBy (fun a b => decide (a.task < b.task) || (a.task == b.task && decide (a.index ≤ b.index)))
    (s.groups.filter fun g => g.part == part && g.status != .ended)

/-- Every group of a stopping partition has given up its slot, its peers have answered it as for `xfence`, and no matrix
command of it is unfinished (R384). -/
def stopReady (s : State) (part : Nat) : Bool :=
  s.groups.all fun g => g.part != part || (!isBound g && cmdsDone g && peersDone g)

/-- STOP_COMPLETE: copies in flight are aborted, a switch is settled, groups that are not saved yet are saved, the contexts are
numbered, and `xo.stop` goes on (R384). -/
def execStopComplete (part : Nat) (s : State) : Host.Outcome State Fault Refusal :=
  .next <|
    match part? s part with
    | none => s
    | some p =>
      if !p.stopping || !stopReady s part then s
      else
        let s0 := settleSwitch (abortCopies s part) part
        let gs := contextOrder s0 part
        let s1 := gs.foldl (fun s g => if g.saved then s else saveImage s g.gid (pendingBytes g.pend)) s0
        let s2 : State := { s1 with parts := s1.parts.map fun (x : Part) =>
          if x.id == part then { x with stopping := false, stopped := true, contexts := gs.map fun g => g.gid } else x }
        (s2.groups.filter fun g => g.wait == .stop part && g.status == .waiting).foldl
          (fun s g => wake s g.gid (BitVec.ofNat 64 gs.length)) s2

end Sys2Proof.Machine
end

