-- ==== Sys2Proof/Machine/Power.lean ====
section
/-! DEFINITION. Operating points, the thermal clamp and the power of the module (R410, R411), and the energy counters (R387). -/

namespace Sys2Proof.Machine

/-- A die's stored operating-point register changed. -/
def modPoint (s : State) (die : Nat) (f : Nat → Nat) : State :=
  { s with power := { s.power with reg := Sparse.set s.power.reg die (BitVec.ofNat 64 (f (pointStored s die))) } }

/-- OPERATING_POINT_WRITE: cap and default are written, the other fields are not (R8, R411). -/
def execOperatingPointWrite (die : Nat) (value : Word) (s : State) : Host.Outcome State Fault Refusal :=
  .next (if 8 ≤ die then s else modPoint s die fun r => r / 2 ^ 8 * 2 ^ 8 + value.toNat % 2 ^ 8)

/-- OPERATING_POINT_SETTLE: the target point comes into force, and the groups that wait for it may issue (R74, R411). -/
def execOperatingPointSettle (die : Nat) (s : State) : Host.Outcome State Fault Refusal :=
  .next (if 8 ≤ die then s
    else releaseFloor (modPoint s die fun r => r - bits r 8 4 * 2 ^ 8 + targetPoint s die * 2 ^ 8) die)

/-- THERMAL_CLAMP (R411). -/
def execThermalClamp (die : Nat) (s : State) : Host.Outcome State Fault Refusal :=
  .next (if 8 ≤ die then s else modPoint s die fun r => if bitOf r 13 then r else r + 2 ^ 13)

/-- THERMAL_CLAMP_RELEASE (R411). -/
def execThermalClampRelease (die : Nat) (s : State) : Host.Outcome State Fault Refusal :=
  .next (if 8 ≤ die then s else modPoint s die fun r => if bitOf r 13 then r - 2 ^ 13 else r)

/-! ### Energy (R387) -/

/-- The remainder of a region's energy on a die, in microjoules below a whole millijoule; the key is the die and the partition
in one number, and the region. -/
def energyRest (s : State) (key region : Nat) : Nat :=
  ((s.power.energy.find? fun x => x.1 == key && x.2.1 == region).map fun x => x.2.2).getD 0

/-- A counter of a region advanced at the end of a window: of one that was torn down in the window the kept final value (R386, R387,
R391). DESIGN CHOICE (entry 18). -/
def countWindow (s : State) (part region n amount : Nat) : State :=
  if (region? s part region).isSome then countRegion s part region n amount
  else
    { s with regions := s.regions.map fun r =>
        if r.part == part && r.id == region then
          { r with counters := Sparse.set r.counters n (Sparse.get r.counters n + BitVec.ofNat 64 amount) }
        else r }

/-- A region's share of a die's energy added: whole millijoules are counted, the rest is carried (R387). -/
def addEnergy (s : State) (die part region uj : Nat) : State :=
  let key := die * 64 + part
  let all := energyRest s key region + uj
  let rest := s.power.energy.filter fun x => !(x.1 == key && x.2.1 == region)
  let s1 := { s with power := { s.power with energy :=
    if all % 1000 == 0 then rest else rest ++ [(key, region, all % 1000)] } }
  countWindow s1 part region 0x0F (all / 1000)

/-- The regions' shares one after another: each takes its proportion of the energy and slot-cycles left, so that the last takes
what rounding left (R387). -/
def shareEnergy (s : State) (die : Nat) : Nat → Nat → List (Nat × Nat × Nat) → State
  | _, _, [] => s
  | uj, total, (part, region, c) :: rest =>
    let u := if total == 0 then 0 else uj * c / total
    shareEnergy (addEnergy s die part region u) die (uj - u) (total - c) rest

/-- ENERGY_WINDOW: the slot-cycles of the window are counted, and a die's energy is divided in proportion to them; without any
it is given to no region (R386, R387). DESIGN CHOICE (entry 18). -/
def execEnergyWindow (die microjoules : Nat) (slotCycles : List (Nat × Nat × Nat)) (s : State) :
    Host.Outcome State Fault Refusal :=
  .next <|
    if 8 ≤ die then s
    else
      let s1 := slotCycles.foldl (fun s x => countWindow s x.1 x.2.1 0x0E x.2.2) s
      let total := slotCycles.foldl (fun n x => n + x.2.2) 0
      if total == 0 then s1 else shareEnergy s1 die microjoules total slotCycles

end Sys2Proof.Machine
end

