-- ==== Sys2Proof/Machine/Boot.lean ====
section
/-! DEFINITION. Boot with its configuration record and measurement (R413, R415), and dies that enter reset (R268, R357, R411). -/

namespace Sys2Proof.Machine

/-- The measurement extended by an item (R415). -/
def extend (m : BitVec 256) (item : List Byte) : BitVec 256 := digestOf (sm3 (digestBytes m ++ sm3 item))

/-- The configuration record in the module's flash (R413). -/
def flashRecord (s : State) : List Byte := Sparse.getRange s.boot.flash 0 512

/-- A configuration record passes its checks (R413). The signer ID is a free value (DESIGN CHOICE, entry 59). -/
def recordOk (r : List Byte) : Bool :=
  let f (o n : Nat) : Nat := bytesAt r o n
  f 0 4 == 0x43464752 && decide (1 ≤ f 5 1) && decide (f 5 1 ≤ 16) && decide (f 4 1 < f 5 1) && f 6 2 == 0 &&
    sm2Verify Config.recordSigner ((r.drop 0x10).take 64) (r.take 0x1C0) (r.drop 0x1C0)

/-- The Ethernet base address of a configuration record: its first six bytes there, the first the highest (R413). PRESUMED (entry
61). -/
def recordEthernet (r : List Byte) : BitVec 48 := BitVec.ofNat 48 (beToNat ((r.drop 0x50).take 6))

/-- The Ethernet address of a port, which comes from the configuration record (R402). PRESUMED: the base address plus the
port's number (entry 61). -/
def portAddress (s : State) (port : Nat) : BitVec 48 := s.boot.ethernet + BitVec.ofNat 48 port

/-- A link with every fibre live and nothing on the way (R329, R335, R412). -/
def Link.fresh (peer : Nat) : Link :=
  { peer := peer, outDown := [], inDown := [], outLost := [], inLost := [], relay := none, allowance := [], granted := [],
    dropped := 0, lastPos := 0, marker := false, held := [], arrivedTo := 0, arrived := [], parking := 0 }

/-- The fabric group as it forms: sequences start at 1, and the lowest package holds the ladle (R329, R338, R340, R413). -/
def fabricFormed (r : List Byte) : Fabric :=
  let pkg := bytesAt r 4 1
  let n := bytesAt r 5 1
  { Fabric.reset with
    pkg := pkg, size := n, groupId := BitVec.ofNat 64 (bytesAt r 8 8)
    links := ((List.range n).filter fun p => p != pkg).map Link.fresh
    livePkgs := List.range n, ladle := pkg == 0, holder := 0 }

/-- The numbers of the two physical functions, above the 16-bit routing ids (R408). The numbers are the model's (DEDUCED,
entry 47). -/
def physicalFn (die : Nat) : Nat := 0x10000 + die

/-- The two physical functions as they appear, with a device status (R408, R415). -/
def physicalFns (status : Nat) : List LaunchFn :=
  [8, 9].map fun d => { LaunchFn.reset (physicalFn d) 0 with status := status }

/-- Boot has stopped: there are only the physical functions, with an error status, for which the model takes the bit that says
that a device needs a reset (R415). PRESUMED (entry 7). -/
def bootStopped (s : State) (m : BitVec 256) : State :=
  { s with boot := { s.boot with measure := m, failed := true }, launchFns := physicalFns 0x40 }

/-- BOOT: firmware, record and policy are verified and measured in order; a failure stops boot; at the end the fabric group and
the functions are there (R413, R415). -/
def execBoot (security management policy : List Byte) (s : State) : Host.Outcome State Fault Refusal :=
  .next <|
    if s.boot.booted || s.boot.failed then s
    else
      let r := flashRecord s
      let key := (r.drop 0x10).take 64
      let m1 := extend 0 security
      let m2 := extend m1 management
      let m3 := extend m2 r
      let m4 := extend m3 policy
      if !Config.firmwareSigned 0 [] security then bootStopped s 0
      else if !Config.firmwareSigned 1 [] management then bootStopped s m1
      else if !recordOk r then bootStopped s m2
      else if !Config.firmwareSigned 2 key policy then bootStopped s m3
      else
        { s with
          boot := { s.boot with measure := m4, booted := true, ethernet := recordEthernet r }
          fabric := fabricFormed r
          launchFns := s.launchFns ++ physicalFns 0 }

/-- The operator's tool writes module flash, from which a later boot takes its record and certificates (R413, R414). -/
def flashWrite (s : State) (offset : Nat) (bs : List Byte) : State :=
  { s with boot := { s.boot with flash := Sparse.setRange s.boot.flash offset bs } }

/-- The module powered off and on: everything is as after reset but its flash and the memory of hosts and peers (R411, R413). -/
def restarted (s : State) : State :=
  { State.reset with
    mem := s.mem.filter fun x => decide (hostBase ≤ x.1)
    boot := { Boot.reset with flash := s.boot.flash }
    refusedPeers := s.refusedPeers, agenda := s.agenda }

/-! ### Dies in reset -/

/-- A compute die enters reset: its translations and load caches are empty, which acknowledges invalidations for it; the groups
whose cohorts lie there end as after a fault, and switches that copy to it fail (R268, R357). DEDUCED (entry 38). -/
def resetDie (s : State) (die : Nat) : State :=
  let gone := s.groups.filter fun g => g.die == die && g.status != .ended
  let s1 := gone.foldl (fun s g => endFaulted s g.gid) s
  let s2 := s1.tables.foldl (churnDieReset die) s1
  { s2 with
    tlb := s2.tlb.filter fun e => e.die != die
    cache := s2.cache.filter fun c => c.die != die }

/-- DIE_RESET (R268, R357). -/
def execDieReset (die : Nat) (s : State) : Host.Outcome State Fault Refusal :=
  .next (if die < 8 then resetDie s die else s)

/-- THERMAL_SHUTDOWN: the module removes its own power, as if every die had entered reset (R411). -/
def execThermalShutdown (s : State) : Host.Outcome State Fault Refusal :=
  let s1 := (List.range 8).foldl resetDie s
  .next { s1 with power := { s1.power with off := true } }

end Sys2Proof.Machine
end

