-- ==== Sys2Proof/Machine/Copy.lean ====
section
/-! DEFINITION. The copy unit: its settings, the issue of copies and batches (R285 to R290), and how a copy runs, completes or
stops (R270, R287, R288, R291 to R293). -/

namespace Sys2Proof.Machine

/-! ### Settings -/

/-- A copy setting function: it traps with its cause, or changes the settings (R285, R286). -/
def xcSetting (s : State) (d : Reg) (y : BitVec 1) (f : Group → Except Nat CopySet) :
    Host.Outcome State Fault Refusal :=
  onDrained s fun g =>
    match f g with
    | .error c => trapScalar s g c
    | .ok x => retire s { xResult g d y 0 with cset := x }

/-- XC_SHAPE (R285). -/
def execXcShape (d a b : Reg) (y : BitVec 1) (s : State) : Host.Outcome State Fault Refusal :=
  xcSetting s d y fun g =>
    let n := (sreg g a).toNat
    let r := (sreg g b).toNat
    if 1 ≤ n ∧ n ≤ 1048576 ∧ 1 ≤ r ∧ r ≤ 65536 then .ok { g.cset with rowBytes := n, rows := r } else .error 0x01

/-- XC_STRIDE (R285). -/
def execXcStride (d a b : Reg) (y : BitVec 1) (s : State) : Host.Outcome State Fault Refusal :=
  xcSetting s d y fun g => .ok { g.cset with srcStride := sreg g a, dstStride := sreg g b }

/-- XC_DONE (R285). -/
def execXcDone (d a b : Reg) (y : BitVec 1) (s : State) : Host.Outcome State Fault Refusal :=
  xcSetting s d y fun g =>
    if (sreg g a).toNat % 8 == 0 then .ok { g.cset with doneAddr := sreg g a, doneValue := sreg g b } else .error 0x02

/-- XC_PERM (R286). -/
def execXcPerm (d : Reg) (q : BitVec 4) (y : BitVec 1) (s : State) : Host.Outcome State Fault Refusal :=
  xcSetting s d y fun g => .ok { g.cset with permMode := 1, permReg := q.toNat }

/-- XC_PERM_SC (R286). -/
def execXcPermSc (d : Reg) (q : BitVec 4) (y : BitVec 1) (s : State) : Host.Outcome State Fault Refusal :=
  xcSetting s d y fun g => .ok { g.cset with permMode := 2, permReg := q.toNat }

/-- XC_PERM_OFF (R286). -/
def execXcPermOff (d : Reg) (y : BitVec 1) (s : State) : Host.Outcome State Fault Refusal :=
  xcSetting s d y fun g => .ok { g.cset with permMode := 0, permReg := 0 }

/-! ### Issue -/

/-- A destination row touches the registers or tiles of a slot through the on-chip map (R171, R262). -/
def rowInSlot (die core slot : Nat) (x : Word) (n : Nat) : Bool :=
  [1, 2].any fun kind =>
    let base := BitVec.ofNat 64 (0xFFFFE00000000000 + die * 2 ^ 36 + core * 2 ^ 28 + kind * 2 ^ 24 + slot * 0x100000)
    decide ((base - x).toNat < n) || decide ((x - base).toNat < 0x100000)

/-- Some destination byte of a copy lies in the registers or tiles of the group's own slot, judged at issue (R171). -/
def ownDest (g : Group) (dst : Word) : Bool :=
  match g.status with
  | .bound d c n =>
    (List.range g.cset.rows).any fun r => rowInSlot d c n (dst + BitVec.ofNat 64 r * g.cset.dstStride) g.cset.rowBytes
  | _ => false

/-- The permutation register that the settings name. -/
def copyPerm (g : Group) : Perm := g.perms.getD g.cset.permReg ⟨128, List.range 128, false⟩

/-- The checks of `xc.go`, of `xc.fill` without the permutation (R287, R288). -/
def copyCheck (g : Group) (perm : Bool) : Option Nat :=
  let c := g.cset
  if c.rowBytes == 0 || c.rows == 0 then some 0x01
  else if perm && c.rows % 128 != 0 && decide (c.rows % 128 < (copyPerm g).size) then some 0x0A
  else none

/-- The copies that a group's list keeps when a new number is given out: those under way, and of the others those whose numbers may
still be asked for (R290). -/
def keptCopies (g : Group) : List Copy :=
  g.copies.filter fun c => !copyOver c || (c.num != g.nextCopy && decide (numberAge g.nextCopy c.num ≤ 65536))

/-- A copy issued, or its wait for one of 32 places or for the route solve, or its trap (R257, R287, R292). -/
def issueCopy (s : State) (d : Reg) (y : BitVec 1) (perm : Group → Bool) (src dst : Group → Word)
    (fill : Group → Option Word) : Host.Outcome State Fault Refusal :=
  onDrained s fun g =>
    if 32 ≤ (g.copies.filter fun c => !copyOver c).length then s
    else
      match copyCheck g (perm g) with
      | some c => trapScalar s g c
      | none =>
        if perm g && (copyPerm g).solving then s
        else
          let a := seatOf g
          let c : Copy :=
            { num := g.nextCopy, batch := 0, set := { g.cset with permMode := if perm g then g.cset.permMode else 0 },
              perm := copyPerm g, src := src g, dst := dst g, fill := fill g, die := a.1, core := a.2.1,
              own := ownDest g (dst g), st := .issued, bytes := 0, word := false, fault := none }
          retire s { xResult g d y (BitVec.ofNat 64 g.nextCopy) with
            copies := keptCopies g ++ [c], nextCopy := nextNumber g.nextCopy, wraps := wrapsAfter g.wraps 2 g.nextCopy }

/-- XC_GO (R287). -/
def execXcGo (d a b : Reg) (y : BitVec 1) (s : State) : Host.Outcome State Fault Refusal :=
  issueCopy s d y (fun g => g.cset.permMode != 0) (fun g => sreg g a) (fun g => sreg g b) fun _ => none

/-- XC_FILL (R288). -/
def execXcFill (d a b : Reg) (y : BitVec 1) (s : State) : Host.Outcome State Fault Refusal :=
  issueCopy s d y (fun _ => false) (fun _ => 0) (fun g => sreg g b) fun g => some (sreg g a)

/-- XC_BATCH (R289). -/
def execXcBatch (d : Reg) (y : BitVec 1) (s : State) : Host.Outcome State Fault Refusal :=
  onDrained s fun g =>
    let b := nextNumber g.copyBatch
    retire s { xResult g d y (BitVec.ofNat 64 b) with
      copyBatch := b, wraps := wrapsAfter g.wraps 3 g.copyBatch,
      traces := g.traces.map fun t => if t.batch == 0 then { t with batch := b } else t,
      copies := g.copies.map fun c => if c.batch == 0 then { c with batch := b } else c }

/-- The status of a copy number (R290). -/
def copyStatus (g : Group) (v : Word) : Nat :=
  if v == 0 then (g.copies.filter fun c => !copyOver c).length
  else if !recentNumber (bitOf g.wraps 2) g.nextCopy v.toNat then 0
  else
    match g.copies.find? fun c => c.num == v.toNat with
    | none => 2
    | some c =>
      match c.st with
      | .faulted => 3
      | .finished => 2
      | _ => 1

/-- XC_QUERY (R290). -/
def execXcQuery (d a : Reg) (s : State) : Host.Outcome State Fault Refusal :=
  onDrained s fun g => retire s (setSreg g d (BitVec.ofNat 64 (copyStatus g (sreg g a))))

/-! ### Running a copy -/

/-- A copy of a group replaced. -/
def setCopy (g : Group) (c : Copy) : Group := { g with copies := g.copies.map fun x => if x.num == c.num then c else x }

/-- The copy of a group with a number. -/
def copy? (g : Group) (num : Nat) : Option Copy := g.copies.find? fun c => c.num == num

/-- Where a copy's accesses are made: for its group, from the core of its issue (R23, R305). -/
def copyAgent (g : Group) (c : Copy) : Agent := ⟨g.part, false, g.cohort, c.die, c.core⟩

/-- The copy unit as a writer; it updates no load cache (R263, R271). -/
def copyWriter (g : Group) (c : Copy) : Writer := ⟨2, g.part, g.region, g.gid, c.die, 192, 0⟩

/-- The aligned pieces of at most 128 bytes of `n` bytes from an address on: address and length (R291). -/
def copyPieces : Nat → Nat → Nat → List (Nat × Nat)
  | 0, _, _ => []
  | fuel + 1, x, n =>
    if n == 0 then []
    else
      let k := Nat.min n (128 - x % 128)
      (x, k) :: copyPieces fuel ((x + k) % 2 ^ 64) (n - k)

/-- The pieces of a row. -/
def rowPieces (x : Word) (n : Nat) : List (Nat × Nat) := copyPieces (n / 128 + 2) x.toNat n

/-- The entry of a piece that fails (R291). -/
def pieceEntry (x k cause : Nat) : AccessEntry := ⟨BitVec.ofNat 64 x, 0xFC, 3, k, cause, 0⟩

/-- What became of a row's read or of the look at its destination: the state with its translations, the bytes, the places with
their pieces, the requests to peers, whether a page is being zeroed, and the first failure. -/
structure RowLook where
  s : State
  bytes : List Byte
  places : List (Loc × Nat × Nat)
  asks : List PeerAsk
  wait : Bool
  fail : Option (AccessEntry × Option EnvPlace)

/-- A row read piece by piece, up to the first failure (R287, R291). -/
def rowRead (g : Group) (c : Copy) : State → List (Nat × Nat) → RowLook
  | s, [] => ⟨s, [], [], [], false, none⟩
  | s, (x, k) :: rest =>
    let r := resolve s (copyAgent g c) x .load
    match r.2 with
    | .fail cause gov => ⟨r.1, [], [], [], false, some (pieceEntry x k cause, gov)⟩
    | .wait => ⟨r.1, [], [], [], true, none⟩
    | .ok (.peer p a) =>
      let q : PeerAsk := ⟨p, a, k, .read, [], [], c.num, pieceEntry x k 0⟩
      (match peerNow r.1 g q with
       | some (.error cause) => ⟨r.1, [], [], [], false, some (pieceEntry x k cause, none)⟩
       | y =>
         let t := rowRead g c r.1 rest
         let d := match y with
           | some (.ok bs) => bs ++ List.replicate k 0
           | _ => List.replicate k 0
         { t with bytes := d.take k ++ t.bytes, asks := q :: t.asks })
    | .ok l =>
      let t := rowRead g c r.1 rest
      { t with bytes := readBytes s l k ++ t.bytes }

/-- The destination of a row looked at up to its first failure (R287, R291). -/
def rowLook (g : Group) (c : Copy) : State → List (Nat × Nat) → RowLook
  | s, [] => ⟨s, [], [], [], false, none⟩
  | s, (x, k) :: rest =>
    let r := resolve s (copyAgent g c) x .store
    match r.2 with
    | .fail cause gov => ⟨r.1, [], [], [], false, some (pieceEntry x k cause, gov)⟩
    | .wait => ⟨r.1, [], [], [], true, none⟩
    | .ok (.peer p a) =>
      if !reachable r.1 p g.part then ⟨r.1, [], [], [], false, some (pieceEntry x k 0x15, none)⟩
      else
      let t := rowLook g c r.1 rest
      { t with places := (.peer p a, x, k) :: t.places, asks := ⟨p, a, k, .write, [], [], c.num, pieceEntry x k 0⟩ :: t.asks }
    | .ok l =>
      let t := rowLook g c r.1 rest
      { t with places := (l, x, k) :: t.places }

/-- The bytes of scratch that a copy is about to write, as the group's matrix commands may still see them (R236). -/
def noteTraces (s : State) (g : Group) (c : Copy) (l : Loc) (n : Nat) : State :=
  match l with
  | .scratch cohort o =>
    let old := readBytes s l n
    modGroup s g.gid fun g =>
      if g.status == .ended then g
      else { g with traces := ((old.zipIdx).map fun b => ⟨c.num, c.batch, cohort, o + b.2, b.1⟩) ++ g.traces }
  | _ => s

/-- A row written piece by piece (R287, R330). -/
def rowWrite (g : Group) (c : Copy) : State → List (Loc × Nat × Nat) → List Byte → State
  | s, [], _ => s
  | s, (.peer p a, x, k) :: rest, bs =>
    rowWrite g c (askSend s g.gid ⟨p, a, k, .write, bs.take k, [], c.num, pieceEntry x k 0⟩) rest (bs.drop k)
  | s, (l, _, k) :: rest, bs => 
    rowWrite g c (storeBytes (noteTraces s g c l k) (copyWriter g c) l (bs.take k)) rest (bs.drop k)

/-- The rows that row `r` reads and writes (R287). -/
def copyRows (c : Copy) (r : Nat) : Nat × Nat :=
  let i := r % 128
  let k := r - i + (if i < c.perm.size then c.perm.items.getD i i else i)
  match c.set.permMode with
  | 1 => (k, r)
  | 2 => (r, k)
  | _ => (r, r)

/-- A copy stops at a failing unit: the entry is kept, and a refusal's envelope is sent (R21, R291). -/
def copyFails (s : State) (gid : Nat) (c : Copy) (f : AccessEntry × Option EnvPlace) : State :=
  refusalEnvelope (modGroup s gid fun g => setCopy g { c with st := .started, fault := some f.1 }) f.2

/-- The bytes of a row that are written in this package; those in a peer are counted when it has acknowledged them (R386). -/
def bytesHere (ps : List (Loc × Nat × Nat)) : Nat :=
  ps.foldl (fun n p =>
    match p.1 with
    | .peer _ _ => n
    | _ => n + p.2.2) 0

/-- One row of a copy: the state after it, and whether it is done (R287, R288, R291, R386). -/
def copyRow (s : State) (g : Group) (c : Copy) : State × Bool :=
  let n := c.set.rowBytes
  let rr := copyRows c (c.bytes / n)
  let look : RowLook :=
    match c.fill with
    | some v => ⟨s, (List.range n).map fun o => BitVec.ofNat 8 (v.toNat / 2 ^ (8 * (o % 8))), [], [], false, none⟩
    | none => rowRead g c s (rowPieces (c.src + BitVec.ofNat 64 rr.1 * c.set.srcStride) n)
  match look.fail with
  | some f => (copyFails look.s g.gid c f, false)
  | none =>
    if look.wait then (look.s, false)
    else if !asksReady look.s g look.asks then (asksSend look.s g.gid look.asks, false)
    else
      let ps := rowPieces (c.dst + BitVec.ofNat 64 rr.2 * c.set.dstStride) n
      let w := rowLook g c look.s ps
      if w.wait || !allowancesFor w.s g.part (w.asks.map fun a => (a.pkg, a.size)) then (w.s, false)
      else
        let s0 := rowWrite g c (asksDrop w.s g.gid look.asks) w.places look.bytes
        let s1 := countRegion s0 g.part g.region 0x0B (bytesHere w.places)
        match w.fail with
        | some f => (copyFails s1 g.gid c f, false)
        | none => (modGroup s1 g.gid fun g => setCopy g { c with st := .started, bytes := c.bytes + n }, true)

/-- The copy unit of the copy's core has an issued copy of another group that comes first in the order of R90 (R292). -/
def copyLater (s : State) (g : Group) (c : Copy) : Bool :=
  s.groups.any fun h => h.gid != g.gid && keyBefore h g &&
    h.copies.any fun x => x.st == .issued && x.die == c.die && x.core == c.core

/-- COPY_START: an issued copy starts when no other group's comes first, and a started one goes on by one row, between which
any other agent may act (R287, R292, R304). -/
def execCopyStart (gid num : Nat) (s : State) : Host.Outcome State Fault Refusal :=
  .next <|
    match group? s gid with
    | none => s
    | some g =>
      match copy? g num with
      | none => s
      | some c =>
        if copyOver c || c.fault.isSome then s
        else if c.st == .issued then (if copyLater s g c then s else putGroup s (setCopy g { c with st := .started }))
        else if c.set.rowBytes * c.set.rows ≤ c.bytes then s
        else (copyRow s g c).1

/-- Every request of a copy to a peer has been answered. -/
def copyPeersDone (g : Group) (num : Nat) : Bool := g.peers.all fun p => p.copy != num || p.reply.isSome

/-- A finished copy leaves the group's list. -/
def copyFinished (s : State) (gid num : Nat) : State :=
  modGroup s gid fun g => { g with copies := g.copies.filter fun c => c.num != num }

/-- COPY_COMPLETE: every byte has been performed; the completion word is stored, and the copy has finished (R270, R287,
R291). -/
def execCopyComplete (gid num : Nat) (s : State) : Host.Outcome State Fault Refusal :=
  .next <|
    match group? s gid with
    | none => s
    | some g =>
      match copy? g num with
      | none => s
      | some c =>
        if c.st != .started || c.fault.isSome || c.bytes != c.set.rowBytes * c.set.rows || !copyPeersDone g num then s
        else if c.set.doneAddr == 0 || c.word then copyFinished s gid num
        else
          let x := c.set.doneAddr.toNat
          let r := resolveAligned s (copyAgent g c) x 8 .store
          let bs := natToBytes 8 c.set.doneValue.toNat
          match r.2 with
          | .wait => r.1
          | .fail cause gov => copyFails r.1 gid c (pieceEntry x 8 cause, gov)
          | .ok (.peer p a) =>
            if !reachable r.1 p g.part then copyFails r.1 gid c (pieceEntry x 8 0x15, none)
            else if !allowancesFor r.1 g.part [(p, 8)] then r.1
            else
              modGroup (askSend r.1 gid ⟨p, a, 8, .write, bs, [], num, pieceEntry x 8 0⟩) gid fun g =>
                setCopy g { c with word := true }
          | .ok l => copyFinished (storeBytes r.1 (copyWriter g c) l bs) gid num

/-- The report of a copy whose group has ended: a body for the fault domain, an envelope of class 3, and a failed task
(R171). -/
def orphanFault (s : State) (g : Group) (e : AccessEntry) : State :=
  let s1 := looseBody s (groupPlace g) g.region false
    ⟨0, e.cause, 3, [e], 0, 0, 0, 0, g.ix, g.iy, g.iz, g.task, g.region, 0⟩
  match task? s1 g.part g.task with
  | none => s1
  | some t => putTask s1 { t with faulted := true }

/-- The pending faults of a saved group put into its image as well; the image of a trapped group keeps its report (R291, R369). -/
def imagePending (s : State) (gid : Nat) : State :=
  match group? s gid with
  | none => s
  | some g =>
    match part? s g.part, g.image with
    | some p, some o =>
      if g.saved && getStore s p (o + 0x19) 1 != [5] then putStore s p (o + 0x1C00) (pendingBytes g.pend) else s
    | _, _ => s

/-- COPY_FAULT: the failure of a stopped copy becomes pending in its group, or is reported for a group that has ended (R171,
R291). -/
def execCopyFault (gid num : Nat) (s : State) : Host.Outcome State Fault Refusal :=
  .next <|
    match group? s gid with
    | none => s
    | some g =>
      match copy? g num with
      | none => s
      | some c =>
        match c.fault with
        | none => s
        | some e =>
          if c.st != .started || !copyPeersDone g num then s
          else
            let s1 := putGroup s (setCopy g { c with st := .faulted })
            if g.status == .ended then orphanFault s1 g e else imagePending (notePending s1 gid e none) gid

end Sys2Proof.Machine
end

