-- ==== Sys2Proof/Machine/Flow.lean ====
section
/-! DEFINITION. Branches and jumps (R158, R159), the queueing of lane blocks (R99, R100, R160), and `nop` (R180). -/

namespace Sys2Proof.Machine

/-- A branch on the comparison of two registers (R158). -/
def branch (s : State) (a b : Reg) (o : BitVec 14) (f : Word → Word → Bool) : Host.Outcome State Fault Refusal :=
  onGroup s fun g => retireTo s g (if f (sreg g a) (sreg g b) then g.pc + o.signExtend 64 * 4 else g.pc + 4)

/-- B_EQ (R158). -/
def execBEq (a b : Reg) (o : BitVec 14) (s : State) : Host.Outcome State Fault Refusal := branch s a b o fun x y => x == y

/-- B_NE (R158). -/
def execBNe (a b : Reg) (o : BitVec 14) (s : State) : Host.Outcome State Fault Refusal := branch s a b o fun x y => x != y

/-- B_LT (R158). -/
def execBLt (a b : Reg) (o : BitVec 14) (s : State) : Host.Outcome State Fault Refusal := branch s a b o fun x y => x.slt y

/-- B_GE (R158). -/
def execBGe (a b : Reg) (o : BitVec 14) (s : State) : Host.Outcome State Fault Refusal := branch s a b o fun x y => !x.slt y

/-- B_LTN (R158). -/
def execBLtn (a b : Reg) (o : BitVec 14) (s : State) : Host.Outcome State Fault Refusal := branch s a b o fun x y => x.ult y

/-- B_GEN (R158). -/
def execBGen (a b : Reg) (o : BitVec 14) (s : State) : Host.Outcome State Fault Refusal := branch s a b o fun x y => !x.ult y

/-- J (R159). -/
def execJ (o : BitVec 26) (s : State) : Host.Outcome State Fault Refusal :=
  onGroup s fun g => retireTo s g (g.pc + o.signExtend 64 * 4)

/-- JAL (R159). -/
def execJal (o : BitVec 26) (s : State) : Host.Outcome State Fault Refusal :=
  onGroup s fun g => retireTo s (setSreg g 1 (g.pc + 4)) (g.pc + o.signExtend 64 * 4)

/-- JR: a misaligned target traps at the `jr` (R159). -/
def execJr (d a : Reg) (i : BitVec 14) (s : State) : Host.Outcome State Fault Refusal :=
  onGroup s fun g =>
    let t := sreg g a + i.signExtend 64
    if t.toNat % 4 == 0 then retireTo s (setSreg g d (g.pc + 4)) t else trapScalar s g 0x14

/-- A block joins the tail of the lane queue with the snapshot of the scalar registers, or waits for one of its eight entries
(R99, R100, R132). -/
def queueBlock (s : State) (first : Group → Nat) (c : BitVec 8) : Host.Outcome State Fault Refusal :=
  onGroup s fun g =>
    if 8 ≤ g.queue.length then s
    else
      modGroup (retire s g) g.gid fun x => { x with queue := x.queue ++ [⟨first g, c.toNat + 1, 0, g.scalars, g.pc, 0⟩] }

/-- LRUN (R99, R160). -/
def execLrun (c : BitVec 8) (o : BitVec 18) (s : State) : Host.Outcome State Fault Refusal :=
  queueBlock s (fun _ => o.toNat) c

/-- LRUNR (R99, R160). -/
def execLrunr (c : BitVec 8) (a : Reg) (s : State) : Host.Outcome State Fault Refusal :=
  queueBlock s (fun g => (sreg g a).toNat % 2 ^ 18) c

/-- NOP (R180). -/
def execNop (s : State) : Host.Outcome State Fault Refusal := onGroup s fun g => retire s g

end Sys2Proof.Machine
end

