-- ==== Sys2Proof/Machine/ScalarInt.lean ====
section
/-! DEFINITION. The scalar arithmetic between registers and with an immediate (R151 to R154), and the mask functions (R161). -/

namespace Sys2Proof.Machine

/-- An instruction whose only result is a scalar register (R150). -/
def scalarOp (s : State) (d : Reg) (f : Group → Word) : Host.Outcome State Fault Refusal :=
  onGroup s fun g => retire s (setSreg g d (f g))

/-- A function of two registers (R151). -/
def scalarBin (s : State) (d a b : Reg) (f : Word → Word → Word) : Host.Outcome State Fault Refusal :=
  scalarOp s d fun g => f (sreg g a) (sreg g b)

/-- A function of one register (R151). -/
def scalarUn (s : State) (d a : Reg) (f : Word → Word) : Host.Outcome State Fault Refusal :=
  scalarOp s d fun g => f (sreg g a)

/-- 1 for true, 0 for false (R151). -/
def flagWord (b : Bool) : Word := if b then 1 else 0

/-- The number of trailing zero bits of a word, 64 for zero (R151). -/
def trailingZeros (a : Word) : Nat := ((List.range 64).find? fun k => a.getLsbD k).getD 64

/-- The number of set bits of a word (R151). -/
def popCount (a : Word) : Nat := ((List.range 64).filter fun k => a.getLsbD k).length

/-- The number of leading zero bits of a word, 64 for zero (R151). -/
def leadingZeros (a : Word) : Nat := 64 - bitLen a.toNat

/-- ADD (R151). -/
def execAdd (d a b : Reg) (s : State) : Host.Outcome State Fault Refusal := scalarBin s d a b fun x y => x + y

/-- SUB (R151). -/
def execSub (d a b : Reg) (s : State) : Host.Outcome State Fault Refusal := scalarBin s d a b fun x y => x - y

/-- MUL (R151). -/
def execMul (d a b : Reg) (s : State) : Host.Outcome State Fault Refusal := scalarBin s d a b fun x y => x * y

/-- MULH (R151). -/
def execMulh (d a b : Reg) (s : State) : Host.Outcome State Fault Refusal :=
  scalarBin s d a b fun x y => BitVec.ofInt 64 (x.toInt * y.toInt / 2 ^ 64)

/-- MULHN (R151). -/
def execMulhn (d a b : Reg) (s : State) : Host.Outcome State Fault Refusal :=
  scalarBin s d a b fun x y => BitVec.ofNat 64 (x.toNat * y.toNat / 2 ^ 64)

/-- A division: with a zero divisor it traps under mode bit 35, or sets the sticky flag and gives the fixed result (R152). -/
def scalarDiv (s : State) (d a b : Reg) (atZero : Word → Word) (f : Word → Word → Word) :
    Host.Outcome State Fault Refusal :=
  onGroup s fun g =>
    let x := sreg g a
    let y := sreg g b
    if y == 0 then
      (if bitOf (trapEnables g.mode) 1 then trapScalar s g 0x05
       else retire s { setSreg g d (atZero x) with mode := setSticky g.mode exDivZero })
    else retire s (setSreg g d (f x y))

/-- DIV (R152). -/
def execDiv (d a b : Reg) (s : State) : Host.Outcome State Fault Refusal :=
  scalarDiv s d a b (fun _ => BitVec.allOnes 64) fun x y => x.sdiv y

/-- DIVN (R152). -/
def execDivn (d a b : Reg) (s : State) : Host.Outcome State Fault Refusal :=
  scalarDiv s d a b (fun _ => BitVec.allOnes 64) fun x y => x / y

/-- REM (R152). -/
def execRem (d a b : Reg) (s : State) : Host.Outcome State Fault Refusal := scalarDiv s d a b id fun x y => x.srem y

/-- REMN (R152). -/
def execRemn (d a b : Reg) (s : State) : Host.Outcome State Fault Refusal := scalarDiv s d a b id fun x y => x % y

/-- AND (R151). -/
def execAnd (d a b : Reg) (s : State) : Host.Outcome State Fault Refusal := scalarBin s d a b fun x y => x &&& y

/-- OR (R151). -/
def execOr (d a b : Reg) (s : State) : Host.Outcome State Fault Refusal := scalarBin s d a b fun x y => x ||| y

/-- XOR (R151). -/
def execXor (d a b : Reg) (s : State) : Host.Outcome State Fault Refusal := scalarBin s d a b fun x y => x ^^^ y

/-- ANDN (R151). -/
def execAndn (d a b : Reg) (s : State) : Host.Outcome State Fault Refusal := scalarBin s d a b fun x y => x &&& ~~~y

/-- SHL (R151). -/
def execShl (d a b : Reg) (s : State) : Host.Outcome State Fault Refusal :=
  scalarBin s d a b fun x y => x <<< (y.toNat % 64)

/-- SHR (R151). -/
def execShr (d a b : Reg) (s : State) : Host.Outcome State Fault Refusal :=
  scalarBin s d a b fun x y => x >>> (y.toNat % 64)

/-- SRA (R151). -/
def execSra (d a b : Reg) (s : State) : Host.Outcome State Fault Refusal :=
  scalarBin s d a b fun x y => x.sshiftRight (y.toNat % 64)

/-- MIN (R151). -/
def execMin (d a b : Reg) (s : State) : Host.Outcome State Fault Refusal :=
  scalarBin s d a b fun x y => if x.slt y then x else y

/-- MAX (R151). -/
def execMax (d a b : Reg) (s : State) : Host.Outcome State Fault Refusal :=
  scalarBin s d a b fun x y => if x.slt y then y else x

/-- MINN (R151). -/
def execMinn (d a b : Reg) (s : State) : Host.Outcome State Fault Refusal :=
  scalarBin s d a b fun x y => if x.ult y then x else y

/-- MAXN (R151). -/
def execMaxn (d a b : Reg) (s : State) : Host.Outcome State Fault Refusal :=
  scalarBin s d a b fun x y => if x.ult y then y else x

/-- CLZ (R151). -/
def execClz (d a : Reg) (s : State) : Host.Outcome State Fault Refusal :=
  scalarUn s d a fun x => BitVec.ofNat 64 (leadingZeros x)

/-- CTZ (R151). -/
def execCtz (d a : Reg) (s : State) : Host.Outcome State Fault Refusal :=
  scalarUn s d a fun x => BitVec.ofNat 64 (trailingZeros x)

/-- POP (R151). -/
def execPop (d a : Reg) (s : State) : Host.Outcome State Fault Refusal :=
  scalarUn s d a fun x => BitVec.ofNat 64 (popCount x)

/-- SEXT8 (R151). -/
def execSext8 (d a : Reg) (s : State) : Host.Outcome State Fault Refusal :=
  scalarUn s d a fun x => (x.truncate 8).signExtend 64

/-- SEXT16 (R151). -/
def execSext16 (d a : Reg) (s : State) : Host.Outcome State Fault Refusal :=
  scalarUn s d a fun x => (x.truncate 16).signExtend 64

/-- SEXT32 (R151). -/
def execSext32 (d a : Reg) (s : State) : Host.Outcome State Fault Refusal :=
  scalarUn s d a fun x => (x.truncate 32).signExtend 64

/-- ZEXT8 (R151). -/
def execZext8 (d a : Reg) (s : State) : Host.Outcome State Fault Refusal :=
  scalarUn s d a fun x => (x.truncate 8).zeroExtend 64

/-- ZEXT16 (R151). -/
def execZext16 (d a : Reg) (s : State) : Host.Outcome State Fault Refusal :=
  scalarUn s d a fun x => (x.truncate 16).zeroExtend 64

/-- ZEXT32 (R151). -/
def execZext32 (d a : Reg) (s : State) : Host.Outcome State Fault Refusal :=
  scalarUn s d a fun x => (x.truncate 32).zeroExtend 64

/-- SEQ (R151). -/
def execSeq (d a b : Reg) (s : State) : Host.Outcome State Fault Refusal :=
  scalarBin s d a b fun x y => flagWord (x == y)

/-- SNE (R151). -/
def execSne (d a b : Reg) (s : State) : Host.Outcome State Fault Refusal :=
  scalarBin s d a b fun x y => flagWord (x != y)

/-- SLT (R151). -/
def execSlt (d a b : Reg) (s : State) : Host.Outcome State Fault Refusal :=
  scalarBin s d a b fun x y => flagWord (x.slt y)

/-- SLTN (R151). -/
def execSltn (d a b : Reg) (s : State) : Host.Outcome State Fault Refusal :=
  scalarBin s d a b fun x y => flagWord (x.ult y)

/-- SLE (R151). -/
def execSle (d a b : Reg) (s : State) : Host.Outcome State Fault Refusal :=
  scalarBin s d a b fun x y => flagWord (x.sle y)

/-- SLEN (R151). -/
def execSlen (d a b : Reg) (s : State) : Host.Outcome State Fault Refusal :=
  scalarBin s d a b fun x y => flagWord (x.ule y)

/-- CMOV (R151). -/
def execCmov (d a b : Reg) (s : State) : Host.Outcome State Fault Refusal :=
  onGroup s fun g => retire s (if sreg g b != 0 then setSreg g d (sreg g a) else g)

/-! ### Immediates -/

/-- ADDI (R153). -/
def execAddi (d a : Reg) (i : BitVec 14) (s : State) : Host.Outcome State Fault Refusal :=
  scalarUn s d a fun x => x + i.signExtend 64

/-- ANDI (R153). -/
def execAndi (d a : Reg) (i : BitVec 14) (s : State) : Host.Outcome State Fault Refusal :=
  scalarUn s d a fun x => x &&& i.zeroExtend 64

/-- ORI (R153). -/
def execOri (d a : Reg) (i : BitVec 14) (s : State) : Host.Outcome State Fault Refusal :=
  scalarUn s d a fun x => x ||| i.zeroExtend 64

/-- XORI (R153). -/
def execXori (d a : Reg) (i : BitVec 14) (s : State) : Host.Outcome State Fault Refusal :=
  scalarUn s d a fun x => x ^^^ i.zeroExtend 64

/-- SHI_SHL (R153). -/
def execShiShl (d a n : Reg) (s : State) : Host.Outcome State Fault Refusal :=
  scalarUn s d a fun x => x <<< n.toNat

/-- SHI_SHR (R153). -/
def execShiShr (d a n : Reg) (s : State) : Host.Outcome State Fault Refusal :=
  scalarUn s d a fun x => x >>> n.toNat

/-- SHI_SRA (R153). -/
def execShiSra (d a n : Reg) (s : State) : Host.Outcome State Fault Refusal :=
  scalarUn s d a fun x => x.sshiftRight n.toNat

/-- SHI_ROL (R153). -/
def execShiRol (d a n : Reg) (s : State) : Host.Outcome State Fault Refusal :=
  scalarUn s d a fun x => x.rotateLeft n.toNat

/-- SLTI (R153). -/
def execSlti (d a : Reg) (i : BitVec 14) (s : State) : Host.Outcome State Fault Refusal :=
  scalarUn s d a fun x => flagWord (x.slt (i.signExtend 64))

/-- SLTNI (R153). -/
def execSltni (d a : Reg) (i : BitVec 14) (s : State) : Host.Outcome State Fault Refusal :=
  scalarUn s d a fun x => flagWord (x.ult (i.signExtend 64))

/-- HI20 (R154). -/
def execHi20 (d : Reg) (i : BitVec 20) (s : State) : Host.Outcome State Fault Refusal :=
  scalarOp s d fun _ => i.signExtend 64 <<< 14

/-- ADR (R154). -/
def execAdr (d : Reg) (i : BitVec 20) (s : State) : Host.Outcome State Fault Refusal :=
  scalarOp s d fun g => g.pc + i.signExtend 64 <<< 2

/-- LADR (R154). -/
def execLadr (d : Reg) (i : BitVec 20) (s : State) : Host.Outcome State Fault Refusal :=
  scalarOp s d fun g => laneWordAt s g i.toNat

/-! ### Mask triples -/

/-- A mask function on a triple; a triple above 61 traps (R161). -/
def maskOp (s : State) (ok : Bool) (f : Group → Group) : Host.Outcome State Fault Refusal :=
  onGroup s fun g => scalarOk ok s g (retire s (f g))

/-- A triple number (R161). -/
def isTriple (t : Reg) : Bool := decide (t.toNat ≤ 61)

/-- The lanes whose bit is set. -/
def maskLanes (v : Nat) : List Nat := (List.range 96).filter fun i => bitOf v i

/-- MANY (R161). -/
def execMany (d a : Reg) (s : State) : Host.Outcome State Fault Refusal :=
  maskOp s (isTriple a) fun g => setSreg g d (flagWord (triple g a != 0))

/-- MCNT (R161). -/
def execMcnt (d a : Reg) (s : State) : Host.Outcome State Fault Refusal :=
  maskOp s (isTriple a) fun g => setSreg g d (BitVec.ofNat 64 (maskLanes (triple g a)).length)

/-- MFFS (R161). -/
def execMffs (d a : Reg) (s : State) : Host.Outcome State Fault Refusal :=
  maskOp s (isTriple a) fun g => setSreg g d (BitVec.ofNat 64 ((maskLanes (triple g a)).headD 96))

/-- MMOV (R161). -/
def execMmov (d a : Reg) (s : State) : Host.Outcome State Fault Refusal :=
  maskOp s (isTriple d && isTriple a) fun g => setTriple g d (triple g a)

/-- The lane bits `i` with `lo ≤ i < min(hi, 96)` (R161). -/
def rangeMask (lo hi : Nat) : Nat := if lo < Nat.min hi 96 then 2 ^ Nat.min hi 96 - 2 ^ lo else 0

/-- MSET (R161). -/
def execMset (d a b : Reg) (s : State) : Host.Outcome State Fault Refusal :=
  maskOp s (isTriple d) fun g => setTriple g d (rangeMask (sreg g a).toNat (sreg g b).toNat)

/-- MNOT (R161). -/
def execMnot (d a : Reg) (s : State) : Host.Outcome State Fault Refusal :=
  maskOp s (isTriple d && isTriple a) fun g => setTriple g d (2 ^ 96 - 1 - triple g a)

end Sys2Proof.Machine
end

