-- ==== Sys2Proof/Machine/ScalarMem.lean ====
section
/-! DEFINITION. The scalar loads, stores and atomics (R155 to R157, R162 to R164). -/

namespace Sys2Proof.Machine

/-- The address of an I or B format access (R155, R156). -/
def scalarAddr (g : Group) (a : Reg) (i : BitVec 14) : Nat := (sreg g a + i.signExtend 64).toNat

/-- The lane byte of a data access of the scalar stream (R33). -/
def scalarLane : Nat := 0xFB

/-- A load of `size` bytes into sd, extended by `ext` (R155, R157). -/
def scalarLoad (s : State) (d a : Reg) (i : BitVec 14) (size : Nat) (ext : Nat → Word) :
    Host.Outcome State Fault Refusal :=
  onGroup s fun g =>
    let x := scalarAddr g a i
    let e := entryOf x scalarLane 0 size
    let r := resolveAligned s (agentOf g) x size .load
    let asks := loadAsk e size r.2
    if r.2 == .wait then r.1
    else if asksReady r.1 g asks then
      let v := performLoad r.1 g e r.2 size
      let s1 := asksDrop v.1 g.gid asks
      match group? s1 g.gid with
      | none => s1
      | some g1 => retire s1 (setSreg g1 d (ext (bytesToNat v.2)))
    else asksSend r.1 g.gid asks

/-- A store of the low `size` bytes of sb (R156, R157). -/
def scalarStore (s : State) (a b : Reg) (o : BitVec 14) (size : Nat) : Host.Outcome State Fault Refusal :=
  onGroup s fun g =>
    let x := scalarAddr g a o
    let r := resolveAligned s (agentOf g) x size .store
    if storesWait r.1 g size [r.2] then r.1
    else
      let s1 := performStore r.1 g 0 (entryOf x scalarLane 1 size) r.2 (natToBytes size (sreg g b).toNat)
      match group? s1 g.gid with
      | none => s1
      | some g1 => retire s1 g1

/-- LD_I8 (R155). -/
def execLdI8 (d a : Reg) (i : BitVec 14) (s : State) : Host.Outcome State Fault Refusal :=
  scalarLoad s d a i 1 fun v => (BitVec.ofNat 8 v).signExtend 64

/-- LD_N8 (R155). -/
def execLdN8 (d a : Reg) (i : BitVec 14) (s : State) : Host.Outcome State Fault Refusal :=
  scalarLoad s d a i 1 fun v => BitVec.ofNat 64 v

/-- LD_I16 (R155). -/
def execLdI16 (d a : Reg) (i : BitVec 14) (s : State) : Host.Outcome State Fault Refusal :=
  scalarLoad s d a i 2 fun v => (BitVec.ofNat 16 v).signExtend 64

/-- LD_N16 (R155). -/
def execLdN16 (d a : Reg) (i : BitVec 14) (s : State) : Host.Outcome State Fault Refusal :=
  scalarLoad s d a i 2 fun v => BitVec.ofNat 64 v

/-- LD_I32 (R155). -/
def execLdI32 (d a : Reg) (i : BitVec 14) (s : State) : Host.Outcome State Fault Refusal :=
  scalarLoad s d a i 4 fun v => (BitVec.ofNat 32 v).signExtend 64

/-- LD_N32 (R155). -/
def execLdN32 (d a : Reg) (i : BitVec 14) (s : State) : Host.Outcome State Fault Refusal :=
  scalarLoad s d a i 4 fun v => BitVec.ofNat 64 v

/-- LD_64 (R155). -/
def execLd64 (d a : Reg) (i : BitVec 14) (s : State) : Host.Outcome State Fault Refusal :=
  scalarLoad s d a i 8 fun v => BitVec.ofNat 64 v

/-- ST_8 (R156). -/
def execSt8 (a b : Reg) (o : BitVec 14) (s : State) : Host.Outcome State Fault Refusal := scalarStore s a b o 1

/-- ST_16 (R156). -/
def execSt16 (a b : Reg) (o : BitVec 14) (s : State) : Host.Outcome State Fault Refusal := scalarStore s a b o 2

/-- ST_32 (R156). -/
def execSt32 (a b : Reg) (o : BitVec 14) (s : State) : Host.Outcome State Fault Refusal := scalarStore s a b o 4

/-- ST_64 (R156). -/
def execSt64 (a b : Reg) (o : BitVec 14) (s : State) : Host.Outcome State Fault Refusal := scalarStore s a b o 8

/-- A scalar atomic with operation code `op` of R110 on `size` bytes (R162, R163, R164). -/
def scalarAmo (s : State) (d a b : Reg) (scope : BitVec 3) (op size : Nat) : Host.Outcome State Fault Refusal :=
  onGroup s fun g =>
    let x := (sreg g a).toNat
    let v := (sreg g b).toNat % 2 ^ (8 * size)
    let cmp := (sreg g d).toNat % 2 ^ (8 * size)
    let e := entryOf x scalarLane 2 size
    let r := resolveAtomic s (agentOf g) x size
    let asks := amoAsk e size op v cmp r.2
    scalarOk (decide (scope.toNat ≤ 5)) s g
      (if r.2 == .wait then r.1
       else if asksReady r.1 g asks then
         let y := performAmo r.1 g e r.2 size op v cmp
         let s1 := asksDrop y.1 g.gid asks
         let s2 := match y.2 with
           | .error c => notePending s1 g.gid { e with cause := c.1 } c.2
           | .ok _ => s1
         let old := match y.2 with
           | .error _ => 0
           | .ok old => old
         match group? s2 g.gid with
         | none => s2
         | some g1 => retire s2 (setSreg g1 d (BitVec.ofNat 64 old))
       else asksSend r.1 g.gid asks)

/-- AMO_ADD (R162). -/
def execAmoAdd (d a b : Reg) (c : BitVec 3) (s : State) : Host.Outcome State Fault Refusal := scalarAmo s d a b c 0 8

/-- AMO_AND (R162). -/
def execAmoAnd (d a b : Reg) (c : BitVec 3) (s : State) : Host.Outcome State Fault Refusal := scalarAmo s d a b c 1 8

/-- AMO_OR (R162). -/
def execAmoOr (d a b : Reg) (c : BitVec 3) (s : State) : Host.Outcome State Fault Refusal := scalarAmo s d a b c 2 8

/-- AMO_XOR (R162). -/
def execAmoXor (d a b : Reg) (c : BitVec 3) (s : State) : Host.Outcome State Fault Refusal := scalarAmo s d a b c 3 8

/-- AMO_MIN (R162). -/
def execAmoMin (d a b : Reg) (c : BitVec 3) (s : State) : Host.Outcome State Fault Refusal := scalarAmo s d a b c 4 8

/-- AMO_MAX (R162). -/
def execAmoMax (d a b : Reg) (c : BitVec 3) (s : State) : Host.Outcome State Fault Refusal := scalarAmo s d a b c 5 8

/-- AMO_MINN (R162). -/
def execAmoMinn (d a b : Reg) (c : BitVec 3) (s : State) : Host.Outcome State Fault Refusal := scalarAmo s d a b c 6 8

/-- AMO_MAXN (R162). -/
def execAmoMaxn (d a b : Reg) (c : BitVec 3) (s : State) : Host.Outcome State Fault Refusal := scalarAmo s d a b c 7 8

/-- AMO_XCHG (R162). -/
def execAmoXchg (d a b : Reg) (c : BitVec 3) (s : State) : Host.Outcome State Fault Refusal := scalarAmo s d a b c 8 8

/-- AMO_CAS (R162). -/
def execAmoCas (d a b : Reg) (c : BitVec 3) (s : State) : Host.Outcome State Fault Refusal := scalarAmo s d a b c 9 8

/-- AMO_FADD_F32 (R163). -/
def execAmoFaddF32 (d a b : Reg) (c : BitVec 3) (s : State) : Host.Outcome State Fault Refusal :=
  scalarAmo s d a b c 10 4

/-- AMO_FADD_F64 (R163). -/
def execAmoFaddF64 (d a b : Reg) (c : BitVec 3) (s : State) : Host.Outcome State Fault Refusal :=
  scalarAmo s d a b c 11 8

end Sys2Proof.Machine
end

