-- ==== Sys2Proof/Machine/Dispatch.lean ====
section
/-! DEFINITION. The dispatch: each instruction and each step of the hardware goes to its own meaning. -/

namespace Sys2Proof.Machine

/-- What an instruction does to the state: one arm for each constructor. -/
def exec (i : Instr) (s : State) : Host.Outcome State Fault Refusal :=
  match i with
  | .add d a b => Sys2Proof.Machine.execAdd d a b s
  | .sub d a b => Sys2Proof.Machine.execSub d a b s
  | .mul d a b => Sys2Proof.Machine.execMul d a b s
  | .mulh d a b => Sys2Proof.Machine.execMulh d a b s
  | .mulhn d a b => Sys2Proof.Machine.execMulhn d a b s
  | .div d a b => Sys2Proof.Machine.execDiv d a b s
  | .divn d a b => Sys2Proof.Machine.execDivn d a b s
  | .rem d a b => Sys2Proof.Machine.execRem d a b s
  | .remn d a b => Sys2Proof.Machine.execRemn d a b s
  | .and d a b => Sys2Proof.Machine.execAnd d a b s
  | .or d a b => Sys2Proof.Machine.execOr d a b s
  | .xor d a b => Sys2Proof.Machine.execXor d a b s
  | .andn d a b => Sys2Proof.Machine.execAndn d a b s
  | .shl d a b => Sys2Proof.Machine.execShl d a b s
  | .shr d a b => Sys2Proof.Machine.execShr d a b s
  | .sra d a b => Sys2Proof.Machine.execSra d a b s
  | .min d a b => Sys2Proof.Machine.execMin d a b s
  | .max d a b => Sys2Proof.Machine.execMax d a b s
  | .minn d a b => Sys2Proof.Machine.execMinn d a b s
  | .maxn d a b => Sys2Proof.Machine.execMaxn d a b s
  | .clz d a => Sys2Proof.Machine.execClz d a s
  | .ctz d a => Sys2Proof.Machine.execCtz d a s
  | .pop d a => Sys2Proof.Machine.execPop d a s
  | .sext8 d a => Sys2Proof.Machine.execSext8 d a s
  | .sext16 d a => Sys2Proof.Machine.execSext16 d a s
  | .sext32 d a => Sys2Proof.Machine.execSext32 d a s
  | .zext8 d a => Sys2Proof.Machine.execZext8 d a s
  | .zext16 d a => Sys2Proof.Machine.execZext16 d a s
  | .zext32 d a => Sys2Proof.Machine.execZext32 d a s
  | .seq d a b => Sys2Proof.Machine.execSeq d a b s
  | .sne d a b => Sys2Proof.Machine.execSne d a b s
  | .slt d a b => Sys2Proof.Machine.execSlt d a b s
  | .sltn d a b => Sys2Proof.Machine.execSltn d a b s
  | .sle d a b => Sys2Proof.Machine.execSle d a b s
  | .slen d a b => Sys2Proof.Machine.execSlen d a b s
  | .cmov d a b => Sys2Proof.Machine.execCmov d a b s
  | .addi d a k => Sys2Proof.Machine.execAddi d a k s
  | .andi d a k => Sys2Proof.Machine.execAndi d a k s
  | .ori d a k => Sys2Proof.Machine.execOri d a k s
  | .xori d a k => Sys2Proof.Machine.execXori d a k s
  | .shiShl d a n => Sys2Proof.Machine.execShiShl d a n s
  | .shiShr d a n => Sys2Proof.Machine.execShiShr d a n s
  | .shiSra d a n => Sys2Proof.Machine.execShiSra d a n s
  | .shiRol d a n => Sys2Proof.Machine.execShiRol d a n s
  | .slti d a k => Sys2Proof.Machine.execSlti d a k s
  | .sltni d a k => Sys2Proof.Machine.execSltni d a k s
  | .hi20 d k => Sys2Proof.Machine.execHi20 d k s
  | .adr d k => Sys2Proof.Machine.execAdr d k s
  | .ladr d k => Sys2Proof.Machine.execLadr d k s
  | .ldI8 d a k => Sys2Proof.Machine.execLdI8 d a k s
  | .ldN8 d a k => Sys2Proof.Machine.execLdN8 d a k s
  | .ldI16 d a k => Sys2Proof.Machine.execLdI16 d a k s
  | .ldN16 d a k => Sys2Proof.Machine.execLdN16 d a k s
  | .ldI32 d a k => Sys2Proof.Machine.execLdI32 d a k s
  | .ldN32 d a k => Sys2Proof.Machine.execLdN32 d a k s
  | .ld64 d a k => Sys2Proof.Machine.execLd64 d a k s
  | .st8 a b o => Sys2Proof.Machine.execSt8 a b o s
  | .st16 a b o => Sys2Proof.Machine.execSt16 a b o s
  | .st32 a b o => Sys2Proof.Machine.execSt32 a b o s
  | .st64 a b o => Sys2Proof.Machine.execSt64 a b o s
  | .bEq a b o => Sys2Proof.Machine.execBEq a b o s
  | .bNe a b o => Sys2Proof.Machine.execBNe a b o s
  | .bLt a b o => Sys2Proof.Machine.execBLt a b o s
  | .bGe a b o => Sys2Proof.Machine.execBGe a b o s
  | .bLtn a b o => Sys2Proof.Machine.execBLtn a b o s
  | .bGen a b o => Sys2Proof.Machine.execBGen a b o s
  | .j o => Sys2Proof.Machine.execJ o s
  | .jal o => Sys2Proof.Machine.execJal o s
  | .jr d a k => Sys2Proof.Machine.execJr d a k s
  | .lrun c o => Sys2Proof.Machine.execLrun c o s
  | .lrunr c a => Sys2Proof.Machine.execLrunr c a s
  | .nop => Sys2Proof.Machine.execNop s
  | .fenceMem x => Sys2Proof.Machine.execFenceMem x s
  | .fenceXlat x => Sys2Proof.Machine.execFenceXlat x s
  | .fenceCode x => Sys2Proof.Machine.execFenceCode x s
  | .xfence => Sys2Proof.Machine.execXfence s
  | .bar a b => Sys2Proof.Machine.execBar a b s
  | .wwait x w c a b => Sys2Proof.Machine.execWwait x w c a b s
  | .exit => Sys2Proof.Machine.execExit s
  | .lexit a => Sys2Proof.Machine.execLexit a s
  | .yield => Sys2Proof.Machine.execYield s
  | .trap c => Sys2Proof.Machine.execTrap c s
  | .srd d n => Sys2Proof.Machine.execSrd d n s
  | .swr d n => Sys2Proof.Machine.execSwr d n s
  | .launch d a => Sys2Proof.Machine.execLaunch d a s
  | .bwait a => Sys2Proof.Machine.execBwait a s
  | .mwait a => Sys2Proof.Machine.execMwait a s
  | .amoAdd d a b x => Sys2Proof.Machine.execAmoAdd d a b x s
  | .amoAnd d a b x => Sys2Proof.Machine.execAmoAnd d a b x s
  | .amoOr d a b x => Sys2Proof.Machine.execAmoOr d a b x s
  | .amoXor d a b x => Sys2Proof.Machine.execAmoXor d a b x s
  | .amoMin d a b x => Sys2Proof.Machine.execAmoMin d a b x s
  | .amoMax d a b x => Sys2Proof.Machine.execAmoMax d a b x s
  | .amoMinn d a b x => Sys2Proof.Machine.execAmoMinn d a b x s
  | .amoMaxn d a b x => Sys2Proof.Machine.execAmoMaxn d a b x s
  | .amoXchg d a b x => Sys2Proof.Machine.execAmoXchg d a b x s
  | .amoCas d a b x => Sys2Proof.Machine.execAmoCas d a b x s
  | .amoFaddF32 d a b x => Sys2Proof.Machine.execAmoFaddF32 d a b x s
  | .amoFaddF64 d a b x => Sys2Proof.Machine.execAmoFaddF64 d a b x s
  | .many d a => Sys2Proof.Machine.execMany d a s
  | .mcnt d a => Sys2Proof.Machine.execMcnt d a s
  | .mffs d a => Sys2Proof.Machine.execMffs d a s
  | .mmov d a => Sys2Proof.Machine.execMmov d a s
  | .mset d a b => Sys2Proof.Machine.execMset d a b s
  | .mnot d a => Sys2Proof.Machine.execMnot d a s
  | .crel d => Sys2Proof.Machine.execCrel d s
  | .cacq a => Sys2Proof.Machine.execCacq a s
  | .cseq d => Sys2Proof.Machine.execCseq d s
  | .cbar d a b => Sys2Proof.Machine.execCbar d a b s
  | .xcShape d a b y => Sys2Proof.Machine.execXcShape d a b y s
  | .xcStride d a b y => Sys2Proof.Machine.execXcStride d a b y s
  | .xcDone d a b y => Sys2Proof.Machine.execXcDone d a b y s
  | .xcPerm d q y => Sys2Proof.Machine.execXcPerm d q y s
  | .xcPermSc d q y => Sys2Proof.Machine.execXcPermSc d q y s
  | .xcPermOff d y => Sys2Proof.Machine.execXcPermOff d y s
  | .xcGo d a b y => Sys2Proof.Machine.execXcGo d a b y s
  | .xcFill d a b y => Sys2Proof.Machine.execXcFill d a b y s
  | .xcBatch d y => Sys2Proof.Machine.execXcBatch d y s
  | .xcQuery d a => Sys2Proof.Machine.execXcQuery d a s
  | .xmFmt d a y => Sys2Proof.Machine.execXmFmt d a y s
  | .xmA d a b y => Sys2Proof.Machine.execXmA d a b y s
  | .xmB d a b y => Sys2Proof.Machine.execXmB d a b y s
  | .xmGrp d a b y => Sys2Proof.Machine.execXmGrp d a b y s
  | .xmTile d a y => Sys2Proof.Machine.execXmTile d a y s
  | .xmMcast d a y => Sys2Proof.Machine.execXmMcast d a y s
  | .xmMma d a b y => Sys2Proof.Machine.execXmMma d a b y s
  | .xmSca d a b y => Sys2Proof.Machine.execXmSca d a b y s
  | .xmBatch d y => Sys2Proof.Machine.execXmBatch d y s
  | .xeReg d a => Sys2Proof.Machine.execXeReg d a s
  | .xeVer d a => Sys2Proof.Machine.execXeVer d a s
  | .xePin d y => Sys2Proof.Machine.execXePin d y s
  | .xeUnpin d y => Sys2Proof.Machine.execXeUnpin d y s
  | .xeGrad d a => Sys2Proof.Machine.execXeGrad d a s
  | .xeHeat d a b => Sys2Proof.Machine.execXeHeat d a b s
  | .xhPost d a b y => Sys2Proof.Machine.execXhPost d a b y s
  | .xhNotify d a y => Sys2Proof.Machine.execXhNotify d a y s
  | .xoSeal d a y => Sys2Proof.Machine.execXoSeal d a y s
  | .xoDirty d a b y => Sys2Proof.Machine.execXoDirty d a b y s
  | .xoStop d a y => Sys2Proof.Machine.execXoStop d a y s
  | .xoCtx d a y => Sys2Proof.Machine.execXoCtx d a y s
  | .vadd w => Sys2Proof.Machine.execVadd w s
  | .vsub w => Sys2Proof.Machine.execVsub w s
  | .vmul w => Sys2Proof.Machine.execVmul w s
  | .vmulh w => Sys2Proof.Machine.execVmulh w s
  | .vmad w => Sys2Proof.Machine.execVmad w s
  | .vmin w => Sys2Proof.Machine.execVmin w s
  | .vmax w => Sys2Proof.Machine.execVmax w s
  | .vabs w => Sys2Proof.Machine.execVabs w s
  | .vneg w => Sys2Proof.Machine.execVneg w s
  | .vand w => Sys2Proof.Machine.execVand w s
  | .vor w => Sys2Proof.Machine.execVor w s
  | .vxor w => Sys2Proof.Machine.execVxor w s
  | .vandn w => Sys2Proof.Machine.execVandn w s
  | .vnot w => Sys2Proof.Machine.execVnot w s
  | .vshl w => Sys2Proof.Machine.execVshl w s
  | .vshr w => Sys2Proof.Machine.execVshr w s
  | .vsra w => Sys2Proof.Machine.execVsra w s
  | .vclz w => Sys2Proof.Machine.execVclz w s
  | .vpop w => Sys2Proof.Machine.execVpop w s
  | .vbrev w => Sys2Proof.Machine.execVbrev w s
  | .vsel w => Sys2Proof.Machine.execVsel w s
  | .vcmp w => Sys2Proof.Machine.execVcmp w s
  | .vmov w => Sys2Proof.Machine.execVmov w s
  | .vfadd w => Sys2Proof.Machine.execVfadd w s
  | .vfsub w => Sys2Proof.Machine.execVfsub w s
  | .vfmul w => Sys2Proof.Machine.execVfmul w s
  | .vfma w => Sys2Proof.Machine.execVfma w s
  | .vfms w => Sys2Proof.Machine.execVfms w s
  | .vfnma w => Sys2Proof.Machine.execVfnma w s
  | .vfnms w => Sys2Proof.Machine.execVfnms w s
  | .vfmin w => Sys2Proof.Machine.execVfmin w s
  | .vfmax w => Sys2Proof.Machine.execVfmax w s
  | .vfminx w => Sys2Proof.Machine.execVfminx w s
  | .vfmaxx w => Sys2Proof.Machine.execVfmaxx w s
  | .vfabs w => Sys2Proof.Machine.execVfabs w s
  | .vfneg w => Sys2Proof.Machine.execVfneg w s
  | .vfcpsgn w => Sys2Proof.Machine.execVfcpsgn w s
  | .vfcmp w => Sys2Proof.Machine.execVfcmp w s
  | .vfclass w => Sys2Proof.Machine.execVfclass w s
  | .vfdiv w => Sys2Proof.Machine.execVfdiv w s
  | .vfsqrt w => Sys2Proof.Machine.execVfsqrt w s
  | .vfrcp w => Sys2Proof.Machine.execVfrcp w s
  | .vfrsq w => Sys2Proof.Machine.execVfrsq w s
  | .vfexp2 w => Sys2Proof.Machine.execVfexp2 w s
  | .vflog2 w => Sys2Proof.Machine.execVflog2 w s
  | .vfsin w => Sys2Proof.Machine.execVfsin w s
  | .vfcos w => Sys2Proof.Machine.execVfcos w s
  | .vftanh w => Sys2Proof.Machine.execVftanh w s
  | .vfrnd w => Sys2Proof.Machine.execVfrnd w s
  | .vcvt w => Sys2Proof.Machine.execVcvt w s
  | .vpack2 w => Sys2Proof.Machine.execVpack2 w s
  | .vpack4 w => Sys2Proof.Machine.execVpack4 w s
  | .vpack8 w => Sys2Proof.Machine.execVpack8 w s
  | .vunpk2 w => Sys2Proof.Machine.execVunpk2 w s
  | .vunpk4 w => Sys2Proof.Machine.execVunpk4 w s
  | .vunpk8 w => Sys2Proof.Machine.execVunpk8 w s
  | .vqgrp w => Sys2Proof.Machine.execVqgrp w s
  | .vsat w => Sys2Proof.Machine.execVsat w s
  | .vgath w => Sys2Proof.Machine.execVgath w s
  | .vbcast w => Sys2Proof.Machine.execVbcast w s
  | .vred w => Sys2Proof.Machine.execVred w s
  | .vscan w => Sys2Proof.Machine.execVscan w s
  | .vmatch w => Sys2Proof.Machine.execVmatch w s
  | .vballot w => Sys2Proof.Machine.execVballot w s
  | .vcompact w => Sys2Proof.Machine.execVcompact w s
  | .vexpand w => Sys2Proof.Machine.execVexpand w s
  | .vlaneid w => Sys2Proof.Machine.execVlaneid w s
  | .vld w => Sys2Proof.Machine.execVld w s
  | .vst w => Sys2Proof.Machine.execVst w s
  | .vlds w => Sys2Proof.Machine.execVlds w s
  | .vsts w => Sys2Proof.Machine.execVsts w s
  | .vldc w => Sys2Proof.Machine.execVldc w s
  | .vstc w => Sys2Proof.Machine.execVstc w s
  | .vamo w => Sys2Proof.Machine.execVamo w s
  | .vamoc w => Sys2Proof.Machine.execVamoc w s
  | .vprf w => Sys2Proof.Machine.execVprf w s
  | .qld w => Sys2Proof.Machine.execQld w s
  | .qldt w => Sys2Proof.Machine.execQldt w s
  | .qst w => Sys2Proof.Machine.execQst w s
  | .qid w => Sys2Proof.Machine.execQid w s
  | .qcomp w => Sys2Proof.Machine.execQcomp w s
  | .qinv w => Sys2Proof.Machine.execQinv w s
  | .qpow w => Sys2Proof.Machine.execQpow w s
  | .qrand w => Sys2Proof.Machine.execQrand w s
  | .qcyc w => Sys2Proof.Machine.execQcyc w s
  | .qapp w => Sys2Proof.Machine.execQapp w s
  | .vacrd w => Sys2Proof.Machine.execVacrd w s
  | .vacwr w => Sys2Proof.Machine.execVacwr w s
  | .vpark w => Sys2Proof.Machine.execVpark w s
  | .vunpark w => Sys2Proof.Machine.execVunpark w s
  | .vroute w => Sys2Proof.Machine.execVroute w s
  | .instructionFetchFault lane cause addr => Sys2Proof.Machine.execInstructionFetchFault lane cause addr s
  | .wwaitWake gid => Sys2Proof.Machine.execWwaitWake gid s
  | .routeSolveComplete gid q => Sys2Proof.Machine.execRouteSolveComplete gid q s
  | .matrixCommandStart gid id => Sys2Proof.Machine.execMatrixCommandStart gid id s
  | .matrixCommandComplete gid id => Sys2Proof.Machine.execMatrixCommandComplete gid id s
  | .copyStart gid num => Sys2Proof.Machine.execCopyStart gid num s
  | .copyComplete gid num => Sys2Proof.Machine.execCopyComplete gid num s
  | .copyFault gid num => Sys2Proof.Machine.execCopyFault gid num s
  | .bodyWrite gid => Sys2Proof.Machine.execBodyWrite gid s
  | .handlerDisposition gid => Sys2Proof.Machine.execHandlerDisposition gid s
  | .pinReleaseAtEnd gid => Sys2Proof.Machine.execPinReleaseAtEnd gid s
  | .bind fn block => Sys2Proof.Machine.execBind fn block s
  | .setStage1Root fn block => Sys2Proof.Machine.execSetStage1Root fn block s
  | .setWatchpoint fn block => Sys2Proof.Machine.execSetWatchpoint fn block s
  | .setContextStore fn block => Sys2Proof.Machine.execSetContextStore fn block s
  | .attest fn block => Sys2Proof.Machine.execAttest fn block s
  | .setRdmaQueues fn block => Sys2Proof.Machine.execSetRdmaQueues fn block s
  | .registerMemoryRegion fn block => Sys2Proof.Machine.execRegisterMemoryRegion fn block s
  | .deregisterMemoryRegion fn block => Sys2Proof.Machine.execDeregisterMemoryRegion fn block s
  | .create block secret => Sys2Proof.Machine.execCreate block secret s
  | .delete block => Sys2Proof.Machine.execDelete block s
  | .reset block => Sys2Proof.Machine.execReset block s
  | .openSession block session => Sys2Proof.Machine.execOpenSession block session s
  | .stage block => Sys2Proof.Machine.execStage block s
  | .install block => Sys2Proof.Machine.execInstall block s
  | .commit block => Sys2Proof.Machine.execCommit block s
  | .abort block => Sys2Proof.Machine.execAbort block s
  | .registerEnvelopeRing block => Sys2Proof.Machine.execRegisterEnvelopeRing block s
  | .registerDemandRing block => Sys2Proof.Machine.execRegisterDemandRing block s
  | .connectQueuePair block => Sys2Proof.Machine.execConnectQueuePair block s
  | .releaseQueuePair block => Sys2Proof.Machine.execReleaseQueuePair block s
  | .scrubComplete part => Sys2Proof.Machine.execScrubComplete part s
  | .auditSelect fn value => Sys2Proof.Machine.execAuditSelect fn value s
  | .auditRingRegister fn entries => Sys2Proof.Machine.execAuditRingRegister fn entries s
  | .registerWrite space offset value => Sys2Proof.Machine.execRegisterWrite space offset value s
  | .launchRequest fn queue => Sys2Proof.Machine.execLaunchRequest fn queue s
  | .queueEnable fn queue => Sys2Proof.Machine.execQueueEnable fn queue s
  | .queueBaseWrite fn queue ring value => Sys2Proof.Machine.execQueueBaseWrite fn queue ring value s
  | .deviceStatusReset fn => Sys2Proof.Machine.execDeviceStatusReset fn s
  | .taskAccept ticket => Sys2Proof.Machine.execTaskAccept ticket s
  | .taskFire part handle => Sys2Proof.Machine.execTaskFire part handle s
  | .slotFill die core slot frames => Sys2Proof.Machine.execSlotFill die core slot frames s
  | .taskComplete part handle => Sys2Proof.Machine.execTaskComplete part handle s
  | .taskEndFailed part handle => Sys2Proof.Machine.execTaskEndFailed part handle s
  | .quantumExpiry die core slot => Sys2Proof.Machine.execQuantumExpiry die core slot s
  | .priorityRaise gid chooser => Sys2Proof.Machine.execPriorityRaise gid chooser s
  | .demandNotice die part region => Sys2Proof.Machine.execDemandNotice die part region s
  | .leaseWrite die value => Sys2Proof.Machine.execLeaseWrite die value s
  | .leaseClearComplete die => Sys2Proof.Machine.execLeaseClearComplete die s
  | .bindRecordStage die core slot value => Sys2Proof.Machine.execBindRecordStage die core slot value s
  | .bindRecordCommit die core slot low high => Sys2Proof.Machine.execBindRecordCommit die core slot low high s
  | .stage2RootWrite part value => Sys2Proof.Machine.execStage2RootWrite part value s
  | .invalidateAll owner desc => Sys2Proof.Machine.execInvalidateAll owner desc s
  | .invalidateRange owner desc => Sys2Proof.Machine.execInvalidateRange owner desc s
  | .invalidationAcknowledge ack => Sys2Proof.Machine.execInvalidationAcknowledge ack s
  | .freshPageZeroed base => Sys2Proof.Machine.execFreshPageZeroed base s
  | .counterAreaUpdate part region => Sys2Proof.Machine.execCounterAreaUpdate part region s
  | .energyWindow die microjoules slotCycles => Sys2Proof.Machine.execEnergyWindow die microjoules slotCycles s
  | .regionTeardown part region => Sys2Proof.Machine.execRegionTeardown part region s
  | .preemptByDeadline die value => Sys2Proof.Machine.execPreemptByDeadline die value s
  | .preemptSave die value => Sys2Proof.Machine.execPreemptSave die value s
  | .preemptReplace die value => Sys2Proof.Machine.execPreemptReplace die value s
  | .preemptRequestArrive request die same seats => Sys2Proof.Machine.execPreemptRequestArrive request die same seats s
  | .preemptDeadlineExpiry request die => Sys2Proof.Machine.execPreemptDeadlineExpiry request die s
  | .groupSaveComplete gid => Sys2Proof.Machine.execGroupSaveComplete gid s
  | .cohortReplace request cohort frames => Sys2Proof.Machine.execCohortReplace request cohort frames s
  | .preemptRequestComplete request overrunNs => Sys2Proof.Machine.execPreemptRequestComplete request overrunNs s
  | .stopComplete part => Sys2Proof.Machine.execStopComplete part s
  | .sealComplete ticket => Sys2Proof.Machine.execSealComplete ticket s
  | .operatingPointWrite die value => Sys2Proof.Machine.execOperatingPointWrite die value s
  | .operatingPointSettle die => Sys2Proof.Machine.execOperatingPointSettle die s
  | .thermalClamp die => Sys2Proof.Machine.execThermalClamp die s
  | .thermalShutdown => Sys2Proof.Machine.execThermalShutdown s
  | .parkingWrite peer value => Sys2Proof.Machine.execParkingWrite peer value s
  | .autoPark peer => Sys2Proof.Machine.execAutoPark peer s
  | .wavelengthWake peer => Sys2Proof.Machine.execWavelengthWake peer s
  | .ringLockLoss peer outbound fibre wave => Sys2Proof.Machine.execRingLockLoss peer outbound fibre wave s
  | .fibreFail peer outbound fibre => Sys2Proof.Machine.execFibreFail peer outbound fibre s
  | .drainMarkerArrive source => Sys2Proof.Machine.execDrainMarkerArrive source s
  | .peerUnreachableTimeout ticket => Sys2Proof.Machine.execPeerUnreachableTimeout ticket s
  | .peerRequestArrive req => Sys2Proof.Machine.execPeerRequestArrive req s
  | .peerReplyArrive ticket ok data => Sys2Proof.Machine.execPeerReplyArrive ticket ok data s
  | .streamReleasePerform source => Sys2Proof.Machine.execStreamReleasePerform source s
  | .allowanceGrant grantee units => Sys2Proof.Machine.execAllowanceGrant grantee units s
  | .ladleArrive => Sys2Proof.Machine.execLadleArrive s
  | .creamlineFrameReceive frame crcOk => Sys2Proof.Machine.execCreamlineFrameReceive frame crcOk s
  | .creamlineFrameAcknowledged => Sys2Proof.Machine.execCreamlineFrameAcknowledged s
  | .creamlineFrameReject => Sys2Proof.Machine.execCreamlineFrameReject s
  | .ladleSilenceTimeout => Sys2Proof.Machine.execLadleSilenceTimeout s
  | .releaseMessageApply => Sys2Proof.Machine.execReleaseMessageApply s
  | .barrierMessageApply => Sys2Proof.Machine.execBarrierMessageApply s
  | .invalidationMessageApply => Sys2Proof.Machine.execInvalidationMessageApply s
  | .versionNoticeMessageApply => Sys2Proof.Machine.execVersionNoticeMessageApply s
  | .teardownNoticeApply => Sys2Proof.Machine.execTeardownNoticeApply s
  | .churnWindowClose part => Sys2Proof.Machine.execChurnWindowClose part s
  | .churnSwitchPublish part => Sys2Proof.Machine.execChurnSwitchPublish part s
  | .churnSwitchFail part => Sys2Proof.Machine.execChurnSwitchFail part s
  | .versionNotice part die => Sys2Proof.Machine.execVersionNotice part die s
  | .slotForward part record => Sys2Proof.Machine.execSlotForward part record s
  | .forwardingRecordEnd part record => Sys2Proof.Machine.execForwardingRecordEnd part record s
  | .gradientMerge part version expert => Sys2Proof.Machine.execGradientMerge part version expert s
  | .rdmaDoorbell fn q value => Sys2Proof.Machine.execRdmaDoorbell fn q value s
  | .cqConsumerWrite fn q value => Sys2Proof.Machine.execCqConsumerWrite fn q value s
  | .rdmaWrite q => Sys2Proof.Machine.execRdmaWrite q s
  | .rdmaRead q => Sys2Proof.Machine.execRdmaRead q s
  | .rdmaSend q => Sys2Proof.Machine.execRdmaSend q s
  | .rdmaWriteWithImmediate q => Sys2Proof.Machine.execRdmaWriteWithImmediate q s
  | .rdmaInboundRequest req => Sys2Proof.Machine.execRdmaInboundRequest req s
  | .rdmaAckArrive q ok => Sys2Proof.Machine.execRdmaAckArrive q ok s
  | .rdmaReadResponse q data => Sys2Proof.Machine.execRdmaReadResponse q data s
  | .rdmaRetryExhausted q => Sys2Proof.Machine.execRdmaRetryExhausted q s
  | .cnpReceive q rate => Sys2Proof.Machine.execCnpReceive q rate s
  | .hostMemoryRequest req => Sys2Proof.Machine.execHostMemoryRequest req s
  | .dieReset die => Sys2Proof.Machine.execDieReset die s
  | .boot security management policy => Sys2Proof.Machine.execBoot security management policy s
  | .thermalClampRelease die => Sys2Proof.Machine.execThermalClampRelease die s
  | .streamReturnToDirectPath peer => Sys2Proof.Machine.execStreamReturnToDirectPath peer s
  | .rdmaRetry q => Sys2Proof.Machine.execRdmaRetry q s

end Sys2Proof.Machine
end

