-- ==== Sys2Proof/Machine/Run.lean ====
section
/-! DEFINITION. How the machine goes on: a word of a group's stream fetched, decoded and executed (R90 to R98, R120, R372), the
choice of the group that issues (R90, R91), the steps of the hardware that take no data from outside, and how a program comes to
stand at a group's next fetch. -/

namespace Sys2Proof.Machine

/-! ### Issue -/

/-- The state in which a group's next word is fetched: the group executes, and no longer waits for its die's operating point
(R74). -/
def issuing (s : State) (gid : Nat) : State :=
  { s with cur := gid, power := { s.power with floorWait := s.power.floorWait.filter fun x => x.1 != gid } }

/-- A chooser's wait count after it has chosen a group (R91). -/
def chosen (gid : Nat) (c : Chooser) (s : State) : State :=
  modGroup s gid fun g =>
    match c with
    | .scalar => { g with chooseS := 0 }
    | .main => { g with chooseM := 0 }
    | .special => { g with chooseX := 0 }

/-- The chooser that issues a word of a stream (R90, R119). -/
def chooserOf (lane : Bool) (w : Nat) : Chooser :=
  if !lane then .scalar else if specialPipe (rawOfWord w).op then .special else .main

/-- Whether an instruction of a group has issued in a step: one that waits leaves the counts of retired instructions and the group's
place as they are (R90). -/
def hasIssued (g : Group) (t : State) : Bool :=
  match group? t g.gid with
  | some h => h.retiredS != g.retiredS || h.retiredL != g.retiredL || h.status != g.status
  | none => true

/-- The outcome of a word of a group at the state `s`: the choice resets the chooser's wait count of the group as the word
issues, so that a trap saves it reset, and a word that has only waited leaves the count as it was (R90, R91). -/
def noteChoice (g : Group) (c : Chooser) (s : State) (f : State → Host.Outcome State Fault Refusal) :
    Host.Outcome State Fault Refusal :=
  match f (chosen g.gid c s) with
  | .next t =>
    .next (if hasIssued g t then t
      else modGroup t g.gid fun h => { h with chooseS := g.chooseS, chooseM := g.chooseM, chooseX := g.chooseX })
  | o => o

/-- A word decoded for its stream (R120). -/
def decodeFor (lane : Bool) (bs : List Byte) : Except DecodeErr Instr :=
  if lane then decodeLane (bytesToNat bs) else decodeScalar (bytesToNat bs)

/-- The trap of a word that is no instruction (R120). -/
def decodeTrap (s : State) (gid : Nat) (lane : Bool) (e : DecodeErr) : State :=
  match group? s gid with
  | none => s
  | some g => if lane then trapLane s g e.cause else trapScalar s g e.cause

/-- The next word of a stream of a group is fetched, decoded and executed (R90, R98, R120). -/
def issueWord (s : State) (g : Group) (lane : Bool) : Host.Outcome State Fault Refusal :=
  let f := fetchWord (issuing s g.gid) g lane
  match f.2 with
  | .wait => .next f.1
  | .fail c x => exec (.instructionFetchFault lane c x) f.1
  | .ok bs =>
    match decodeFor lane bs with
    | .error e => noteChoice g (chooserOf lane (bytesToNat bs)) f.1 fun s => .next (decodeTrap s g.gid lane e)
    | .ok i => noteChoice g (chooserOf lane (bytesToNat bs)) f.1 (exec i)

/-- The group may issue: it holds a slot, its die's operating point is stable where it has to be, and it is neither being saved nor
to be rotated (R74, R259, R378). -/
def mayIssue (s : State) (g : Group) : Bool :=
  match g.status with
  | .bound d _ _ => !floorHeld s g d && !beingSaved s g && !g.rotating
  | _ => false

/-- A write of a special register. -/
def isSwr (i : Instr) : Bool :=
  match i with
  | .swr _ _ => true
  | _ => false

/-- The scalar stream runs ahead of queued lane words, by a word that may: one that retires and notes no fault before a queued
access's own, or a bad write of the mode, which traps at once (R99, R133, R149, R280, R372). DESIGN CHOICE (entry 13). -/
def issueAhead (s : State) (g : Group) : Host.Outcome State Fault Refusal :=
  let f := fetchWord (issuing s g.gid) g false
  match f.2 with
  | .ok bs =>
    if !runsAhead s g (bytesToNat bs) then .next s
    else
      (match decodeFor false bs with
       | .error _ => .next s
       | .ok i =>
         match noteChoice g .scalar f.1 (exec i) with
         | .next t =>
           (match group? t g.gid with
            | some h =>
              if (if h.status == g.status then h.pend == g.pend || !laneMemoryQueued s g else isSwr i) then .next t
              else .next s
            | none => .next s)
         | o => o)
  | _ => .next s

/-- One stream of the group in a slot issues (R90). With lane words queued the scalar stream runs ahead where it may. -/
def issueSlot (s : State) (die core slot : Nat) (lane : Bool) : Host.Outcome State Fault Refusal :=
  match groupIn s die core slot with
  | none => .next s
  | some g =>
    if !mayIssue s g then .next s
    else if lane then (if g.queue.isEmpty then .next s else issueWord s g true)
    else if g.queue.isEmpty then issueWord s g false
    else issueAhead s g

/-! ### The schedule -/

/-- An action that the schedule names. Words of a program come from memory alone, so an event here is one of the table's steps
without a word. -/
def perform (s : State) (a : Act) : Host.Outcome State Fault Refusal :=
  match a with
  | .event i => if (encode i).isNone then exec i s else .next s
  | .issue d c n lane => issueSlot s d c n lane
  | .dropLine d c line =>
    .next { s with cache := s.cache.filter fun x => x.die != d || x.core != c || x.line != line }
  | .lineError l bad =>
    let rest := s.badLines.filter fun x => x != lineOf l
    .next { s with badLines := if bad then lineOf l :: rest else rest }
  | .writeBack gid reg => .next (writeBack s gid reg)
  | .management op addr size data => .next (managementAccess op addr size data s)
  | .peerMemory pkg addr bs => .next { s with mem := Sparse.setRange s.mem (peerPlace pkg addr) bs }
  | .peerPage pkg addr refused =>
    let rest := s.refusedPeers.filter fun x => x != (pkg, addr / 0x10000)
    .next { s with refusedPeers := if refused then (pkg, addr / 0x10000) :: rest else rest }
  | .peerFunction pkg part present => .next (peerFunction s pkg part present)
  | .farStream a b up => .next (farStream s a b up)
  | .grantAllowance peer part units => .next (grantTo s peer part units)
  | .isrRead fn => .next (isrRead s fn)
  | .auditRead fn offset size => .next (auditRead s fn offset size)
  | .auditGrant fn => .next { s with parts := s.parts.map fun p => if p.id == 0 then { p with auditFn := fn } else p }
  | .flashWrite offset bs => .next (flashWrite s offset bs)
  | .restart => .next (restarted s)

/-- The outcome changes the state, but for the field that says which group has executed last, or stops. -/
def progresses (s : State) : Host.Outcome State Fault Refusal → Bool
  | .next t => !decide (t = { s with cur := t.cur })
  | _ => true

/-- The first of some steps that changes the state. -/
def firstOf {α : Type} (s : State) (f : α → Host.Outcome State Fault Refusal) : List α →
    Option (α × Host.Outcome State Fault Refusal)
  | [] => none
  | x :: xs => if progresses s (f x) then some (x, f x) else firstOf s f xs

/-- The number of a chooser of a core, by the core's number in the package (R90). -/
def chooserIx (core : Nat) (c : Chooser) : Nat :=
  core * 3 + (match c with
    | .scalar => 0
    | .main => 1
    | .special => 2)

/-- The core of a bound group by its number in the package. -/
def coreOf (g : Group) : Nat := (seatOf g).1 * 192 + (seatOf g).2.1

/-- A bound group's next word is one for this chooser (R90). -/
def servedBy (s : State) (c : Chooser) (g : Group) : Bool :=
  match c with
  | .scalar => true
  | c => !g.queue.isEmpty && chooserOf true (((peekLane s g (lanePc s g).toNat).map bytesToNat).getD 0) == c

/-- The group at its effective level at a chooser (R90, R91). -/
def atLevel (c : Chooser) (g : Group) : Group :=
  let n := match c with
    | .scalar => g.chooseS
    | .main => g.chooseM
    | .special => g.chooseX
  if decide (4096 ≤ n) && decide (g.level < 11) then { g with level := g.level + 1 } else g

/-- The groups that a core's chooser may choose, in the order of R90. -/
def chooserOrder (s : State) (core : Nat) (c : Chooser) : List Group :=
  sortBy (fun a b => !keyBefore (atLevel c b) (atLevel c a))
    (s.groups.filter fun g => isBound g && coreOf g == core && servedBy s c g)

/-- The choosers of the cores with bound groups, the one that chose longest ago first. DESIGN CHOICE (entry 14). -/
def issueTurns (s : State) : List (Nat × Chooser) :=
  let cores := ((s.groups.filter isBound).map coreOf).eraseDups
  sortBy (fun a b => decide (Sparse.get s.lastIssue (chooserIx a.1 a.2) ≤ Sparse.get s.lastIssue (chooserIx b.1 b.2)))
    (cores.flatMap fun k => [(k, .scalar), (k, .main), (k, .special)])

/-- A chooser issues a word of a group. -/
def issueOf (s : State) (c : Chooser) (g : Group) : Host.Outcome State Fault Refusal :=
  let a := seatOf g
  issueSlot s a.1 a.2.1 a.2.2 (c != .scalar)

/-- A chooser issues the first of its groups, in the order of R90, whose word makes a difference; it is noted as the one that chose
last. -/
def groupTurn (s : State) : Option (Host.Outcome State Fault Refusal) :=
  (issueTurns s).findSome? fun k =>
    (firstOf s (issueOf s k.2) (chooserOrder s k.1 k.2)).map fun x =>
      match x.2 with
      | .next t => .next { t with lastIssue := Sparse.set t.lastIssue (chooserIx k.1 k.2) (BitVec.ofNat 64 t.clock) }
      | o => o

/-! ### The steps of the hardware -/

/-- A step that the state may take. -/
abbrev Step := State → Host.Outcome State Fault Refusal

/-- The steps of a group's engines, its trap and its save. -/
def groupEvents (g : Group) : List Step :=
  (g.cmds.flatMap fun c =>
    match c.st with
    | .queued => [execMatrixCommandStart g.gid c.id]
    | .started => [execMatrixCommandComplete g.gid c.id, execMatrixCommandStart g.gid c.id]
    | _ => []) ++
  (g.copies.flatMap fun c =>
    match c.st with
    | .issued => [execCopyStart g.gid c.num]
    | .started => [execCopyComplete g.gid c.num, execCopyFault g.gid c.num, execCopyStart g.gid c.num]
    | _ => []) ++
  (((List.range 16).filter fun q => (g.perms.getD q ⟨128, [], false⟩).solving).map fun q => execRouteSolveComplete g.gid q) ++
  (match g.bodyState with
   | .waiting => [execBodyWrite g.gid]
   | .handling => [execHandlerDisposition g.gid]
   | .none => []) ++
  (if g.status == .waiting then [execWwaitWake g.gid] else []) ++
  (if isBound g then [execGroupSaveComplete g.gid] else []) ++
  (if g.rotating then [execQuantumExpiry (seatOf g).1 (seatOf g).2.1 (seatOf g).2.2] else []) ++
  (if g.status == .ended && g.pinned != 0 then [execPinReleaseAtEnd g.gid] else [])

/-- The frames that a cohort's re-placement takes when no choice is given. -/
def replaceFrames (s : State) (q : PreReq) (cohort : Nat) : List Nat :=
  match cohort? s cohort with
  | some c => freeFrames s (preTarget q.value.toNat) (c.size / 24576)
  | none => []

/-- The steps of the pre-emption requests in progress. -/
def preemptEvents (s : State) (q : PreReq) : List Step :=
  (q.dies.flatMap fun d =>
    (if d.arrived then [] else [execPreemptRequestArrive q.id d.die [] []]) ++
      d.cohorts.map fun c => execCohortReplace q.id c (replaceFrames s q c)) ++
    [execPreemptRequestComplete q.id []]

/-- The fills of the armed slots, with the lowest free frames. -/
def fillEvents (s : State) : List Step :=
  (List.range 8).flatMap fun d => (armedSlots s d).map fun x =>
    execSlotFill d x.1 x.2 (match pickFor s [] d x.1 x.2 with
      | some p => defaultFrames s p d
      | none => [])

/-- The steps of tasks, launches and regions. -/
def taskEvents (s : State) : List Step :=
  (s.offers.map fun o => execTaskAccept o.ticket) ++
  (s.tasks.flatMap fun t =>
    match t.status with
    | .waiting => [execTaskFire t.part t.handle]
    | .fired => [execTaskComplete t.part t.handle, execTaskEndFailed t.part t.handle]
    | .completed => [execTaskComplete t.part t.handle]
    | _ => []) ++
  ((s.regions.filter fun r => r.active).map fun r => execRegionTeardown r.part r.id)

/-- The steps of partitions, leases, memory management, sealing and operating points. -/
def unitEvents (s : State) : List Step :=
  (if s.bodies.isEmpty then [] else [execBodyWrite 0]) ++
  (s.leaseJobs.map fun j => execLeaseClearComplete j.die) ++
  (s.zeroing.map fun j => execFreshPageZeroed j.base) ++
  (s.invals.map fun j => execInvalidationAcknowledge ⟨j.ticket, s.fabric.pkg⟩) ++
  (s.preempts.flatMap (preemptEvents s)) ++
  (s.parts.flatMap fun p =>
    (if p.stopping then [execStopComplete p.id] else []) ++
      if p.st == .scrubbing then [execScrubComplete p.id] else []) ++
  (s.seals.map fun j => execSealComplete j.ticket) ++
  (((List.range 8).filter fun d => !pointStable s d).map execOperatingPointSettle)

/-- The steps of the fabric that wait for no other package: the next message in sequence, stream releases, and the ladle with
the own frame when they are here. -/
def fabricEvents (s : State) : List Step :=
  (if s.fabric.holder == s.fabric.pkg then
    execLadleArrive :: s.fabric.flight.toList.map fun f => execCreamlineFrameReceive f true
   else []) ++
  (if s.fabric.received.isEmpty then []
   else [execReleaseMessageApply, execBarrierMessageApply, execInvalidationMessageApply, execVersionNoticeMessageApply,
     execTeardownNoticeApply]) ++
  s.fabric.links.map fun l => execStreamReleasePerform l.peer

/-- The steps of the Churn, and of queue pairs with send requests. -/
def tableEvents (s : State) : List Step :=
  (s.tables.flatMap fun t =>
    (match t.switch with
     | some w =>
       [execChurnSwitchFail t.part, execChurnSwitchPublish t.part] ++ w.notices.map fun d => execVersionNotice t.part d
     | none => []) ++
    ((List.range t.forwards.length).flatMap fun n => [execSlotForward t.part n, execForwardingRecordEnd t.part n]) ++
    t.grads.map fun g => execGradientMerge t.part g.version g.expert) ++
  s.qps.flatMap fun q =>
    if q.sendIdx == q.sendProd then []
    else [execRdmaWrite q.q, execRdmaRead q.q, execRdmaSend q.q, execRdmaWriteWithImmediate q.q]

/-- The steps that the hardware may take next of its own, without data from outside. DESIGN CHOICE (entry 14). -/
def hardwareEvents (s : State) : List Step :=
  s.groups.flatMap groupEvents ++ unitEvents s ++ taskEvents s ++ fabricEvents s ++ tableEvents s ++ fillEvents s

/-- The hardware takes a step of its own. -/
def engineTurn (s : State) : Option (Host.Outcome State Fault Refusal) :=
  (firstOf s (fun f => f s) (hardwareEvents s)).map fun x => x.2

/-- What happens when the schedule names nothing: the hardware's own steps and the groups take turns. DESIGN CHOICE (entry
14). -/
def freeStep (s : State) : Host.Outcome State Fault Refusal :=
  let s1 := { s with enginesTurn := !s.enginesTurn }
  let a := if s.enginesTurn then engineTurn s1 else groupTurn s1
  match a with
  | some o => o
  | none =>
    match if s.enginesTurn then groupTurn s1 else engineTurn s1 with
    | some o => o
    | none => .next s1

/-- The state in which the next action happens: the model's clock has advanced. -/
def tick (s : State) : State := { s with clock := s.clock + 1 }

/-- The outcome of a step from `s`, with the demand notices that it makes (R80). -/
def withNotices (s : State) (o : Host.Outcome State Fault Refusal) : Host.Outcome State Fault Refusal :=
  match o with
  | .next t => .next (demandRise s t)
  | o => o

/-- One step: without power nothing happens until the module is started again; else the schedule's next action, or a free step (R90,
R411, R413). DESIGN CHOICE (entry 2). -/
def stepOnce (s : State) : Host.Outcome State Fault Refusal :=
  match s.agenda with
  | .restart :: rest => perform { s with agenda := rest } .restart
  | a :: rest =>
    if s.power.off then .fault .poweredOff else withNotices s (perform { tick s with agenda := rest } a)
  | [] => if s.power.off then .fault .poweredOff else withNotices s (freeStep (tick s))

/-! ### A program placed -/

/-- The page tables of `placeWord`, at physical addresses of HBM: for each stage a level-0 table with one pointer and a level-1
table with one leaf of 1 GiB, every right set, so that the first GiB of virtual addresses is the first GiB of HBM (R265). -/
def placedTables : List (Nat × Nat) :=
  [(0x20000, 0x30001), (0x30000, 0x1F), (0x40000, 0x50001), (0x50000, 0x1F)]

/-- The partition of the placed program, with its translation roots (R24, R266). -/
def placedPart : Part := { Part.empty 1 .owned with stage1 := 0x20000, stage2 := 0x40000 }

/-- The region of the placed program (R44). -/
def placedRegion : Region :=
  { part := 1, id := 1, addr := 0, parent := none, flags := 0, prio := 0, opDefault := 0, dieMask := 1, slotCap := 1,
    parkCap := 1, scratchCap := 1, tileCap := 8, handler := 0, bodyBuf := 0, counterArea := 0x60000, consent := 0, counterPlace := 0x60000,
    active := true, activations := 1, counters := [], slots := 1, parked := 0, scratch := 0, tiles := 8, mismatchSent := false,
    authWritten := true, watch := [], demand := [] }

/-- The task of the placed program: one group of one lane, with every vector register and tile that a task can have (R55). -/
def placedTask : Task :=
  { part := 1, handle := 1, region := 1, entry := 0x10000, laneBase := 0x18000, gx := 1, gy := 1, gz := 1, lanes := 1,
    vcount := 128, tcount := 8, restartable := false, dieMask := 1, hint := 0, prio := 0, scratch := 0, ranges := [],
    doneAddr := 0, doneValue := 0, arg := 0, preds := [], status := .fired, firing := 0, fireSeq := 0, next := 1, redo := [],
    ended := [], faulted := false, held := none, handler := false, serves := 0, onDies := [0], floors := [], spans := [] }

/-- The group of the placed program, at its entry in slot 0 of core 0 of die 0; a lane word is the one word of its lane queue
(R62, R99). -/
def placedGroup (gid : Nat) (lane : Bool) : Group :=
  { groupEntry placedTask gid 0 0 0 none with
    auth := 2, status := .bound 0 0 0
    queue := if lane then [⟨0, 1, 0, [], 0x10000, 0⟩] else [] }

/-- The memory with the page tables and the word in it. -/
def placedMemory (m : Memory) (lane : Bool) (w : Nat) : Memory :=
  Sparse.setRange (placedTables.foldl (fun m x => Sparse.setRange m x.1 (natToBytes 8 x.2)) m)
    (if lane then 0x18000 else 0x10000) (natToBytes (if lane then 12 else 4) w)

/-- The machine with a word as the next one that a step fetches: a partition with its tables, a region, a task and a bound group
that stand for the loading of a program from outside, and the schedule's next action, which is to issue that word. DESIGN
CHOICE (entry 16). -/
def placeWord (s : State) (nbits w : Nat) : State :=
  let lane := decide (32 < nbits)
  { s with
    mem := placedMemory s.mem lane w
    owners := Sparse.set (Sparse.set (Sparse.set s.owners 1 0x81) 2 0x81) 3 0x81
    parts := placedPart :: s.parts.filter fun p => p.id != 1
    regions := placedRegion :: s.regions.filter fun r => r.part != 1
    tasks := placedTask :: s.tasks.filter fun t => t.part != 1
    groups := placedGroup s.nextId lane :: s.groups.filter fun g => g.status != .bound 0 0 0
    nextId := s.nextId + 1
    tlb := s.tlb.filter fun e => e.part != 1
    cache := s.cache.filter fun c => !c.code
    zeroing := []
    badLines := []
    power := { s.power with off := false }
    agenda := .issue 0 0 0 lane :: s.agenda }

end Sys2Proof.Machine
end

