-- ==== Sys2Proof/Machine/Step.lean ====
section
/-! DEFINITION. One step of the machine, and a word placed where the next step fetches it. -/

namespace Sys2Proof.Machine

/-- One step: the schedule's next action, or what the machine does when the schedule names none (R90, R92, R411). -/
def step (s : State) : Host.Outcome State Fault Refusal := stepOnce s

/-- The state with an instruction where the next step fetches and executes it. -/
def State.withFetchWord (s : State) (nbits w : Nat) : State := placeWord s nbits w

end Sys2Proof.Machine
end

