-- ==== Sys2Proof/Safety.lean ====
section
/-! DEFINITION. What counts as a safe run: the data that the machine keeps in canonical form stays so, and the machine stops only
where its power is gone. -/

namespace Sys2Proof.Machine

/-- The memory of a state is in canonical form, so that equal contents are equal states. -/
abbrev State.canonical (s : State) : Prop := Memory.wf s.mem = true

/-- A step from this state ends in a state. -/
def goesOn (s : State) : Prop := ∃ t, step s = .next t

/-- A step from this state is safe: it goes on, and keeps memory canonical. -/
def safeStep (s : State) : Prop := ∃ t, step s = .next t ∧ t.canonical

end Sys2Proof.Machine
end

