-- ==== Sys2Proof/Certificates/Slice0/Terms.lean ====
section
/-! DEFINITION. The terms in which the statements are written: what a state shows of a group, a register, a counter and a byte,
and what an instruction leaves as it was. -/

namespace Sys2Proof.Claim

open Sys2Proof.Machine

/-- The group whose instruction is executed. -/
abbrev Running (s : State) (g : Group) : Prop := group? s s.cur = some g

/-- A counter of an active region (R386). -/
def counterOf (s : State) (part region n : Nat) : Word :=
  match region? s part region with
  | some r => Sparse.get r.counters n
  | none => 0

/-- The group's work goes to its own provisional counts: its task and its region are restartable (R61, R388). -/
abbrev Provisional (s : State) (g : Group) : Prop := discardable s g = true

/-- Between two states the regions differ in their counters alone, and these by the work of a group: `work n` is added to
counter `n` of the group's region, unless the work is provisional (R386, R388). -/
def Counted (s t : State) (g : Group) (work : Nat → Nat) : Prop :=
  (∃ c : Region → Sparse 64, t.regions = s.regions.map fun r => { r with counters := c r }) ∧
  (¬Provisional s g → ∀ n, (region? s g.part g.region).isSome = true →
    counterOf t g.part g.region n = counterOf s g.part g.region n + BitVec.ofNat 64 (work n)) ∧
  (Provisional s g → t.regions = s.regions) ∧
  ∀ part id n, ¬(part = g.part ∧ id = g.region) → counterOf t part id n = counterOf s part id n

/-- The provisional counts of a group after its work (R388). -/
def ProvisionalCounts (s : State) (g : Group) (work : Nat → Nat) (prov : Sparse 64) : Prop :=
  (Provisional s g → ∀ n, Sparse.get prov n = Sparse.get g.prov n + BitVec.ofNat 64 (work n)) ∧
  (¬Provisional s g → prov = g.prov)

/-- Every byte of memory reads as before. -/
def SameMemory (s t : State) : Prop := ∀ a, Sparse.get t.mem a = Sparse.get s.mem a

/-- Nothing but the record of group `gid` and the regions' counters differs: memory, every other group, and all other state. -/
def OnlyGroup (s t : State) (gid : Nat) : Prop :=
  t = { s with groups := t.groups, regions := t.regions } ∧ SameMemory s t ∧
  ∀ n, n ≠ gid → group? t n = group? s n

/-- The work of one scalar instruction: counter 0x00 (R386). -/
def scalarWork (n : Nat) : Nat := if n = 0 then 1 else 0

/-- The work of one lane instruction with `active` active lanes: counters 0x01 and 0x02 (R386). -/
def laneWork (active n : Nat) : Nat := if n = 1 then 1 else if n = 2 then active else 0

/-- A group after its scalar instruction has retired: `g` is the group with the instruction's own results, and the scalar stream
goes on at `pc`. -/
def afterScalar (g : Group) (pc : Word) (prov : Sparse 64) : Group :=
  { g with pc := pc, retiredS := g.retiredS + 1, wait := .none, fenced := false, seen := 0, prov := prov,
           queue := g.queue.map fun b => { b with skid := b.skid + 1 } }

/-- A group's scalar instruction has retired: of the group `g`, `g'` holds the instruction's results, the scalar stream goes
on at `pc`, the instruction is counted, and nothing else differs (R97, R150, R386). -/
def ScalarDone (s t : State) (g g' : Group) (pc : Word) : Prop :=
  OnlyGroup s t g.gid ∧ Counted s t g scalarWork ∧
  ∃ prov, ProvisionalCounts s g scalarWork prov ∧ group? t g.gid = some (afterScalar g' pc prov)

/-- A group after its lane instruction has retired: the head word of its lane queue is done (R99, R207). -/
def afterLane (g : Group) (prov : Sparse 64) : Group :=
  { g with queue := laneAdvance g.queue, retiredL := g.retiredL + 1, wait := .none, prov := prov }

/-- A group after the vector registers that `reg` names and the tiles `tiles` of group `gid` have been written: woken if it sleeps
on a line of one of them (R170). -/
def wokenByRegs (gid : Nat) (reg : Nat → Bool) (tiles : List Nat) (h : Group) : Group :=
  match h.wait with
  | .word (.vreg k p) =>
    if k = gid ∧ (reg (p / 384) = true ∨ reg ((p + 127) / 384) = true) then { h with wait := .woken } else h
  | .word (.tile k p) => if k = gid ∧ p / 0x4000 ∈ tiles then { h with wait := .woken } else h
  | _ => h

/-- A group's lane instruction has retired with `active` active lanes: of the group `g`, `g'` holds the instruction's results,
the instruction is counted, groups that sleep on a register or tile that it wrote are woken, and nothing else differs (R170, R207,
R386). -/
def LaneDone (s t : State) (g g' : Group) (active : Nat) (reg : Nat → Bool) (tiles : List Nat) : Prop :=
  t = { s with groups := t.groups, regions := t.regions } ∧ SameMemory s t ∧
  (∀ n, n ≠ g.gid → group? t n = (group? s n).map (wokenByRegs g.gid reg tiles)) ∧ Counted s t g (laneWork active) ∧
  ∃ prov, ProvisionalCounts s g (laneWork active) prov ∧ group? t g.gid = some (afterLane g' prov)

/-- What scalar register `r` holds after a write of `v`: s0 reads zero, s61 to s63 keep the bits of live lanes (R130, R131). -/
def kept (live : BitVec 96) (r : Reg) (v : Word) : Word :=
  if r = 0#6 then 0 else if 61 ≤ r.toNat then v &&& BitVec.ofNat 64 (live.toNat / 2 ^ (32 * (r.toNat - 61)) % 2 ^ 32) else v

/-- Group `g'` is group `g` with scalar register `d` written with `v`: every other scalar register and everything else of the
group is unchanged. -/
def WroteScalar (g g' : Group) (d : Reg) (v : Word) : Prop :=
  g' = { g with scalars := g'.scalars } ∧ ∀ r, sreg g' r = if r = d then kept g.live d v else sreg g r

/-- The instruction goes on to the next word with `v` in scalar register `d`, and changes nothing else. -/
def Yields (s : State) (g : Group) (i : Instr) (d : Reg) (v : Word) : Prop :=
  ∃ t g', exec i s = .next t ∧ WroteScalar g g' d v ∧ ScalarDone s t g g' (g.pc + 4)

/-- The instruction goes on at `pc`, and changes nothing else of the group. -/
def GoesTo (s : State) (g : Group) (i : Instr) (pc : Word) : Prop :=
  ∃ t, exec i s = .next t ∧ ScalarDone s t g g pc

/-! ### Scalar arithmetic -/

/-- The functions of two registers (R151): the constructor and the value of s[sd] from a = s[sa] and b = s[sb]. -/
def binaryForms : List ((Reg → Reg → Reg → Instr) × (Word → Word → Word)) :=
  [(.add, fun a b => a + b), (.sub, fun a b => a - b), (.mul, fun a b => a * b),
   (.mulh, fun a b => BitVec.ofInt 64 (a.toInt * b.toInt / 2 ^ 64)),
   (.mulhn, fun a b => BitVec.ofNat 64 (a.toNat * b.toNat / 2 ^ 64)),
   (.and, fun a b => a &&& b), (.or, fun a b => a ||| b), (.xor, fun a b => a ^^^ b), (.andn, fun a b => a &&& ~~~b),
   (.shl, fun a b => BitVec.ofNat 64 (a.toNat * 2 ^ (b.toNat % 64))),
   (.shr, fun a b => BitVec.ofNat 64 (a.toNat / 2 ^ (b.toNat % 64))),
   (.sra, fun a b => BitVec.ofInt 64 (a.toInt / 2 ^ (b.toNat % 64))),
   (.min, fun a b => if a.toInt < b.toInt then a else b), (.max, fun a b => if a.toInt < b.toInt then b else a),
   (.minn, fun a b => if a.toNat < b.toNat then a else b), (.maxn, fun a b => if a.toNat < b.toNat then b else a),
   (.seq, fun a b => if a = b then 1 else 0), (.sne, fun a b => if a = b then 0 else 1),
   (.slt, fun a b => if a.toInt < b.toInt then 1 else 0), (.sltn, fun a b => if a.toNat < b.toNat then 1 else 0),
   (.sle, fun a b => if a.toInt ≤ b.toInt then 1 else 0), (.slen, fun a b => if a.toNat ≤ b.toNat then 1 else 0)]

/-- `n` is the number of leading zero bits of a word (R151). -/
def LeadingZeros (a : Word) (n : Nat) : Prop :=
  n ≤ 64 ∧ a.toNat < 2 ^ (64 - n) ∧ (n < 64 → 2 ^ (63 - n) ≤ a.toNat)

/-- `n` is the number of trailing zero bits of a word (R151). -/
def TrailingZeros (a : Word) (n : Nat) : Prop :=
  n ≤ 64 ∧ (∀ k < n, a.getLsbD k = false) ∧ (n < 64 → a.getLsbD n = true)

/-- A division's quotient or remainder, for a divisor that is not zero (R152). -/
def divisionForms : List ((Reg → Reg → Reg → Instr) × (Word → Word → Word) × (Word → Word)) :=
  [(.div, fun a b => BitVec.ofInt 64 (a.toInt.tdiv b.toInt), fun _ => BitVec.allOnes 64),
   (.divn, fun a b => BitVec.ofNat 64 (a.toNat / b.toNat), fun _ => BitVec.allOnes 64),
   (.rem, fun a b => BitVec.ofInt 64 (a.toInt.tmod b.toInt), fun a => a),
   (.remn, fun a b => BitVec.ofNat 64 (a.toNat % b.toNat), fun a => a)]

/-! ### Branches, jumps, lane blocks -/

/-- A lane block that starts at lane word `first` and holds `count` words joins the tail of the lane queue with a copy of the
scalar registers, and the scalar stream goes on (R99, R100, R132, R160). -/
def QueuesBlock (s : State) (g : Group) (i : Instr) (first count : Nat) : Prop :=
  ∃ t prov, exec i s = .next t ∧ OnlyGroup s t g.gid ∧ Counted s t g scalarWork ∧
    ProvisionalCounts s g scalarWork prov ∧
    group? t g.gid = some { afterScalar g (g.pc + 4) prov with
      queue := (afterScalar g (g.pc + 4) prov).queue ++ [⟨first, count, 0, g.scalars, g.pc, 0⟩] }

/-! ### Mask triples -/

/-- Lane `i` of the triple named by register `t`: bit `i` mod 32 of s[t + i div 32] (R161). -/
def laneBit (g : Group) (t : Reg) (i : Nat) : Bool := (sregIn g.scalars (t.toNat + i / 32)).getLsbD (i % 32)

/-- A word goes on with the triple `d` written with the lane bits `f`: each register of the triple holds its 32 bits and zeros
above them, with s0 and the bits of lanes that are not live left zero (R130, R131, R161). -/
def YieldsTriple (s : State) (g : Group) (i : Instr) (d : Reg) (f : Nat → Bool) : Prop :=
  ∃ t g', exec i s = .next t ∧ g' = { g with scalars := g'.scalars } ∧ ScalarDone s t g g' (g.pc + 4) ∧
    (∀ r : Reg, ¬(d.toNat ≤ r.toNat ∧ r.toNat ≤ d.toNat + 2) → sreg g' r = sreg g r) ∧
    ∀ r : Reg, d.toNat ≤ r.toNat → r.toNat ≤ d.toNat + 2 → ∀ j < 64,
      (sreg g' r).getLsbD j = (decide (r.toNat ≠ 0) && decide (j < 32) && f (32 * (r.toNat - d.toNat) + j) &&
        (decide (r.toNat < 61) || g.live.getLsbD (32 * (r.toNat - 61) + j)))

/-! ### Scalar accesses -/

/-- A scalar instruction has retired as in `ScalarDone`; the translations and the lines that units hold may have changed too,
as an access of translated memory changes them (R263, R268). -/
def AccessDone (s t : State) (g g' : Group) (pc : Word) : Prop :=
  ScalarDone { s with tlb := t.tlb, cache := t.cache } t g g' pc

/-- The loads (R155): the constructor, the bytes read and what s[sd] receives of their little-endian value. -/
def loadForms : List ((Reg → Reg → BitVec 14 → Instr) × Nat × (Nat → Word)) :=
  [(.ldI8, 1, fun v => (BitVec.ofNat 8 v).signExtend 64), (.ldN8, 1, BitVec.ofNat 64),
   (.ldI16, 2, fun v => (BitVec.ofNat 16 v).signExtend 64), (.ldN16, 2, BitVec.ofNat 64),
   (.ldI32, 4, fun v => (BitVec.ofNat 32 v).signExtend 64), (.ldN32, 4, BitVec.ofNat 64),
   (.ld64, 8, BitVec.ofNat 64)]

/-- The pending faults of a group with that of one more access, whose order number in the program is `key`: it stands behind
those of accesses that are not later; eight entries at most are kept, and the others are counted (R280), as are the refused accesses
and the refused instructions among the others (R31). -/
def withFault (p : Pending) (key : Nat) (e : AccessEntry) : Pending :=
  let n := (p.keys.filter fun k => decide (k ≤ key)).length
  let all := p.entries.take n ++ e :: p.entries.drop n
  ⟨all.take 8, if p.entries.length < 8 then p.further else p.further + (p.entries.length - 7),
    (p.keys.take n ++ key :: p.keys.drop n).take 8, p.refused + ((all.drop 8).filter fun x => x.cause == 0x13).length,
    p.instrs + ((all.drop 8).filter fun x => x.kind == 5).length⟩

/-- The access entry of a scalar access that failed: lane 0xFB, kind 0 for a load, 1 for a store, 2 for an atomic, and 4 where
the address is of on-chip kind 1 or 2 (R33, R280). -/
def scalarEntry (x kind size cause : Nat) : AccessEntry :=
  ⟨BitVec.ofNat 64 x, 0xFB, if chipKind12 x then 4 else kind, size, cause, 0⟩

/-- A load or atomic that fails writes 0 to sd, records the access in the group, and goes on (R157, R280). -/
def FailsDeferred (s : State) (g : Group) (i : Instr) (d : Reg) (e : AccessEntry) : Prop :=
  ∃ t g', exec i s = .next t ∧ g' = { g with scalars := g'.scalars, pend := withFault g.pend s.nextId e } ∧
    (∀ r, sreg g' r = if r = d then 0 else sreg g r) ∧ AccessDone s t g g' (g.pc + 4)

/-- The instruction goes on with `v` in scalar register `d`; of the rest, only cached translations and lines may differ. -/
def Loads (s : State) (g : Group) (i : Instr) (d : Reg) (v : Word) : Prop :=
  ∃ t g', exec i s = .next t ∧ WroteScalar g g' d v ∧ AccessDone s t g g' (g.pc + 4)

/-- No watchpoint of an active region covers a byte of the range (R271). -/
abbrev Unwatched (s : State) (p n : Nat) : Prop :=
  ∀ r ∈ s.regions, r.active = true → ∀ w ∈ r.watch, ¬(w.place < p + n ∧ p < w.place + w.len)

/-- A group after a write of `n` bytes at place `p` of memory: woken if it sleeps on a line that the write touches (R170). -/
def wokenBy (p n : Nat) (g : Group) : Group :=
  match g.wait with
  | .word (.mem q) => if 0 < n ∧ q < p + n ∧ p < q + 128 then { g with wait := .woken } else g
  | _ => g

/-- A scalar instruction of `g` has retired after a write of `n` bytes at place `p` of memory: byte `k` of them now reads
`b k`, every other byte of memory as before; groups that sleep on the line are woken; otherwise only the group itself, the
counters, cached translations and lines, and the dirty bits of partitions under migration (R381) may differ. -/
def StoreDone (s t : State) (g g' : Group) (p n : Nat) (b : Nat → Byte) : Prop :=
  t = { s with mem := t.mem, groups := t.groups, regions := t.regions, tlb := t.tlb, cache := t.cache, parts := t.parts } ∧
  (∃ c : Part → List Nat, t.parts = s.parts.map fun x => { x with clean := c x }) ∧
  (∀ a, Sparse.get t.mem a = if p ≤ a ∧ a < p + n then b (a - p) else Sparse.get s.mem a) ∧
  (∀ m, m ≠ g.gid → group? t m = (group? s m).map (wokenBy p n)) ∧
  Counted s t g scalarWork ∧
  ∃ prov, ProvisionalCounts s g scalarWork prov ∧ group? t g.gid = some (afterScalar g' (g.pc + 4) prov)

/-- The stores (R156): the constructor and the bytes written. -/
def storeForms : List ((Reg → Reg → BitVec 14 → Instr) × Nat) := [(.st8, 1), (.st16, 2), (.st32, 4), (.st64, 8)]

/-- The atomics on a dword (R162, R163): the constructor, and the new value from the old one, s[sb] and the comparand s[sd];
none where nothing is stored. -/
def amoForms : List ((Reg → Reg → Reg → BitVec 3 → Instr) × (Word → Word → Word → Option Word)) :=
  [(.amoAdd, fun old v _ => some (old + v)), (.amoAnd, fun old v _ => some (old &&& v)),
   (.amoOr, fun old v _ => some (old ||| v)), (.amoXor, fun old v _ => some (old ^^^ v)),
   (.amoMin, fun old v _ => some (if v.toInt < old.toInt then v else old)),
   (.amoMax, fun old v _ => some (if old.toInt < v.toInt then v else old)),
   (.amoMinn, fun old v _ => some (if v.toNat < old.toNat then v else old)),
   (.amoMaxn, fun old v _ => some (if old.toNat < v.toNat then v else old)),
   (.amoXchg, fun _ v _ => some v), (.amoCas, fun old v cmp => if old = cmp then some v else none),
   (.amoFaddF64, fun old v _ => some (BitVec.ofNat 64 (faddBits (fmtOf .f64) old.toNat v.toNat)))]

/-! ### Fences, waits and barriers -/

/-- A scalar instruction has retired as in `ScalarDone`, and the executing core's load cache has kept the lines that `keep`
says (R263). -/
def CacheKept (s t : State) (g g' : Group) (pc : Word) (keep : CacheLine → Bool) : Prop :=
  t.cache = s.cache.filter keep ∧ ScalarDone { s with cache := t.cache } t g g' pc

/-- The lines that an acquire at a scope leaves in the load caches: from .die on it drops the data lines of its own core (R263). -/
def keptByAcquire (g : Group) (scope : Nat) (l : CacheLine) : Bool :=
  decide (scope < 2) || l.code || l.die != (agentOf g).die || l.core != (agentOf g).core

/-- The lines that a code fence at a scope leaves: it drops the code lines of its core, of its die from .die on, and of the
package from .pkg on (R102, R263). -/
def keptByCodeFence (g : Group) (scope : Nat) (l : CacheLine) : Bool :=
  !l.code || (decide (scope < 3) && (l.die != (agentOf g).die || (decide (scope < 2) && l.core != (agentOf g).core)))

/-- Every store that another group had sent to a peer package when this group's release began has been acknowledged (R310). -/
abbrev OthersOver (s : State) (g : Group) : Prop :=
  ∀ x ∈ s.groups, x.gid ≠ g.gid → ∀ p ∈ x.peers, p.op = .write → p.copy = 0 → p.reply = none →
    (if g.seen = 0 then s.nextId else g.seen) ≤ p.ticket

/-- At .fab and beyond nothing is left to wait for: the group's own accesses to peer packages are answered too (R165, R310). -/
abbrev NothingOut (s : State) (g : Group) : Prop := peersDone g = true ∧ OthersOver s g

/-- A group that waits at .fab or beyond: it changes nothing but that it remembers when its release began (R310). -/
def releaseHeld (s : State) (g : Group) : State := putGroup s { g with seen := if g.seen = 0 then s.nextId else g.seen }

/-- The condition of a `wwait` on the value read and on s[sb] cut to the width (R170). -/
def waitHolds (cond w v : Nat) : Prop :=
  (cond = 0 ∧ w = v) ∨ (cond = 1 ∧ w ≠ v) ∨ (cond = 2 ∧ v ≤ w) ∨ (cond = 3 ∧ w < v)

/-! ### Leaving, yielding, traps -/

/-- The cause that a trap's body carries: a `trap` takes the first pending cause, if there is one (R174, R371). -/
def bodyCause (g : Group) (cause : Nat) : Nat :=
  if cause = 0x20 then (g.pend.entries.map fun e => e.cause).headD 0x20 else cause

/-! ### Special registers, launch -/

/-- The special registers that a group's own record holds (R146): the number and the value. -/
def ownSpecials (g : Group) : List (Nat × Word) :=
  [(0x000, BitVec.ofNat 64 g.ix), (0x001, BitVec.ofNat 64 g.iy), (0x002, BitVec.ofNat 64 g.iz),
   (0x006, BitVec.ofNat 64 g.lanes), (0x00A, BitVec.ofNat 64 g.region), (0x00B, BitVec.ofNat 64 g.task),
   (0x00C, BitVec.ofNat 64 (g.auth + 4 * g.part)),
   (0x00D, BitVec.ofNat 64 (g.live.toNat % 2 ^ 32)), (0x00E, BitVec.ofNat 64 (g.live.toNat / 2 ^ 32 % 2 ^ 32)),
   (0x00F, BitVec.ofNat 64 (g.live.toNat / 2 ^ 64 % 2 ^ 32)), (0x010, g.mode), (0x011, 0xFFFFF00000000000),
   (0x015, g.seed), (0x016, g.pinned), (0x019, g.retiredS), (0x01A, g.retiredL)]

/-! ### The Creamline's instructions -/

/-- A message of a group is queued under a ticket, with the store counts it covers, and the group sleeps until it is answered
(R317, R339, R341). -/
def SendsMessage (s : State) (g : Group) (i : Instr) (kind barrier count : Nat) (w : Nat → Wait) : Prop :=
  ∃ t g', exec i s = .next t ∧ SameMemory s t ∧ group? t g.gid = some g' ∧
    g' = { g with status := .waiting, wait := w s.nextId, stores := [] } ∧
    t.fabric.queue = s.fabric.queue ++ [(s.nextId,
      ⟨kind, g.part, s.fabric.pkg, barrier, count, 0,
        (List.range 16).map fun k => (g.stores.filter fun x => x.1 == k).length % 2 ^ 24, g.stores⟩)]

/-- A package that stands alone sequences and applies a message at once, and the instruction goes on with the sequence in sd
(R337, R341). -/
def SequencedAtOnce (s : State) (g : Group) (i : Instr) (d : Reg) : Prop :=
  ∃ t g', exec i s = .next t ∧ SameMemory s t ∧ t.fabric.applied = s.fabric.nextSeq ∧ group? t g.gid = some g' ∧
    g'.pc = g.pc + 4 ∧ g'.stores = [] ∧ g'.status = g.status ∧
    ∀ r, sreg g' r = if r = d then kept g.live d (BitVec.ofNat 64 s.fabric.nextSeq) else sreg g r

/-! ### Engine functions -/

/-- A function of an engine retires: `f` is what it does to the group's engine record, and sd receives `v` where y is 1 (R112). -/
def EngineDone (s : State) (g : Group) (i : Instr) (d : Reg) (y : BitVec 1) (v : Word) (f : Group → Group) : Prop :=
  ∃ t g', exec i s = .next t ∧ g' = { f g with scalars := g'.scalars } ∧
    (∀ r, sreg g' r = if y = 1#1 ∧ r = d then kept g.live d v else sreg g r) ∧ ScalarDone s t g g' (g.pc + 4)

/-- The number after `n`, from 1 to 2^32 − 1 and again 1 (R241, R243, R287, R289). -/
def numberAfter (n : Nat) : Nat := if n = 2 ^ 32 - 1 then 1 else n + 1

/-- A matrix command joins the group's commands with a snapshot of the settings and its predecessors, and sd receives its id
(R239, R240, R243). -/
def IssuesCommand (s : State) (g : Group) (i : Instr) (d a b : Reg) (y : BitVec 1) (scale : Bool) : Prop :=
  EngineDone s g i d y (BitVec.ofNat 64 g.nextCmd) fun g =>
    { g with
      cmds := keptCmds g ++ [⟨g.nextCmd, scale, g.mset, [(sreg g a).toNat, (sreg g b).toNat].filter fun p => p != 0, 0, .queued, [], []⟩]
      nextCmd := numberAfter g.nextCmd
      wraps := if g.nextCmd = 2 ^ 32 - 1 then g.wraps ||| 1 else g.wraps }

/-- A copy joins the group's copies as issued, with the settings at its issue, and sd receives its number (R287, R288). -/
def IssuesCopy (s : State) (g : Group) (i : Instr) (d : Reg) (y : BitVec 1) (src dst : Word) (fill : Option Word) : Prop :=
  ∃ c : Copy, c.num = g.nextCopy ∧ c.batch = 0 ∧ c.src = src ∧ c.dst = dst ∧ c.fill = fill ∧ c.st = .issued ∧ c.bytes = 0 ∧
    c.word = false ∧ c.fault = none ∧ c.set = { g.cset with permMode := c.set.permMode } ∧
    EngineDone s g i d y (BitVec.ofNat 64 g.nextCopy) fun g =>
      { g with
        copies := keptCopies g ++ [c]
        nextCopy := numberAfter g.nextCopy
        wraps := if g.nextCopy = 2 ^ 32 - 1 then g.wraps ||| 4 else g.wraps }

/-! ### The Churn's functions, notices, the operator's functions -/

/-- An X function retires with `v` in sd where y is 1, over a state `s1` in which its other effects have been made. -/
def RepliesFrom (s s1 : State) (gid : Nat) (i : Instr) (d : Reg) (y : BitVec 1) (v : Word) : Prop :=
  ∃ t g1 g', exec i s = .next t ∧ group? s1 gid = some g1 ∧ g' = { g1 with scalars := g'.scalars } ∧
    (∀ r, sreg g' r = if y = 1#1 ∧ r = d then kept g1.live d v else sreg g1 r) ∧ ScalarDone s1 t g1 g' (g1.pc + 4)

/-! ### Lane words -/

/-- The group executes, and its lane word passes the checks of R120. -/
abbrev LaneReady (s : State) (g : Group) (op : Nat) (w : LaneOps) (u : RegUses) (tl : TileUse) : Prop :=
  Running s g ∧ laneCheck (rawLane op w) = none ∧ regCheck g w u tl = none

/-- A file of scalar registers `m'` is `m` with the triple `d` written with the lane bits `f` (R130, R131, R161). -/
def TripleFile (live : BitVec 96) (d : Nat) (f : Nat → Bool) (m m' : Sparse 64) : Prop :=
  ∀ r < 64, (¬(d ≤ r ∧ r ≤ d + 2) → sregIn m' r = sregIn m r) ∧
    (d ≤ r → r ≤ d + 2 → ∀ j < 64, (sregIn m' r).getLsbD j =
      (decide (r ≠ 0) && decide (j < 32) && f (32 * (r - d) + j) && (decide (r < 61) || live.getLsbD (32 * (r - 61) + j))))

/-- A file of scalar registers `m'` is `m` with register `d` written with `v` (R130, R131). -/
def ScalarFile (live : BitVec 96) (d : Nat) (v : Word) (m m' : Sparse 64) : Prop :=
  ∀ r < 64, sregIn m' r = if r = d then kept live (BitVec.ofNat 6 d) v else sregIn m r

/-- The registers that hold a result of type `t` whose destination is `vd`, each with the words of its lanes: one, or a pair for a
64-bit type (R118, R184). -/
def destOf (t : DType) (vd : Nat) (f : Nat → Nat) (r : Nat) : Option (Nat → Nat) :=
  if dtypeWide t then
    (if r = vd then some fun i => f i % 2 ^ 32 else if r = vd + 1 then some fun i => f i / 2 ^ 32 else none)
  else if r = vd then some f else none

/-- No register is written. -/
def noDest : Nat → Option (Nat → Nat) := fun _ => none

/-- The vector registers after a lane word: a register that `out` names is live, and holds its result in active lanes, and in the
others zero where mz is set or the lane is not live, else what it held; a register whose last read this was is dead; every
other is as before; the registers written are marked as not yet in the image (R137, R138, R143). -/
def VectorsAfter (g g' : Group) (w : LaneOps) (dead : List Nat) (out : Nat → Option (Nat → Nat)) : Prop :=
  g'.vregs.length = g.vregs.length ∧
  (∀ r < 128, g'.dirty.getLsbD r = (g.dirty.getLsbD r || (out r).isSome)) ∧
  ∀ r v, g.vregs[r]? = some v → ∃ v', g'.vregs[r]? = some v' ∧
    match out r with
    | some f => v'.st = .live ∧ ∀ i < g.lanes, laneOf v' i =
        if (laneCtx g).active i then BitVec.ofNat 32 (f i)
        else if w.mz || !(laneCtx g).isLive i then 0 else laneOf v i
    | none => if r ∈ dead then v'.st = .dead else v' = v

/-- What a lane word does over the state `s1` (the state itself, unless it has an effect outside its group): `eff` on the
group's other registers and the tiles `tiles`, its vector results, `file` on every scalar file that comes later in program
order, the sticky flags of the exceptions `ex`, an advance of the seed where it draws; or, where a raised exception is
enabled, its trap (R137, R143, R189, R195, R207). -/
def LaneEffect (s s1 : State) (g : Group) (i : Instr) (w : LaneOps) (dead : List Nat) (out : Nat → Option (Nat → Nat))
    (file : Sparse 64 → Sparse 64) (eff : Group → Group) (ex : Nat) (draws : Bool)
    (tiles : List Nat := []) : Prop :=
  (∀ c, exceptionCause g.mode ex = some c → exec i s = .next (trapLane s1 g c)) ∧
  (exceptionCause g.mode ex = none →
    ∃ t g', exec i s = .next t ∧ LaneDone s1 t g g' (laneCtx g).count (fun r => (out r).isSome) tiles ∧
      g' = { eff g with
        vregs := g'.vregs, dirty := g'.dirty, scalars := file g.scalars, queue := g.queue.map fun b => { b with snap := file b.snap },
        mode := g.mode ||| BitVec.ofNat 64 (ex % 32 * 2 ^ 39), seed := if draws then advanceSeed g.seed else g.seed } ∧
      VectorsAfter g g' w dead out)

/-- A lane word whose only result is its destination register, or pair. -/
def LaneVector (s : State) (g : Group) (i : Instr) (w : LaneOps) (u : RegUses) (t : DType) (f : Nat → Nat) : Prop :=
  LaneEffect s s g i w (lastRead w u) (destOf t w.vd.toNat f) id id 0 false

/-- A lane's value whose elements of type `t` are `f`. -/
def lanewise (t : DType) (f : Nat → Nat) : Nat := packElems t ((List.range (elemCount t)).map f)

/-- An exact integer result wrapped to the type, or clamped to its range while its class saturates (R192, R210). -/
def narrowed (mode : Word) (t : DType) (v : Int) : Nat :=
  ((if saturates mode t then max (intMin t) (min (intMax t) v) else v) % 2 ^ dtypeWidth t).toNat

/-- The integer and bitwise lane functions of two sources (R209, R216): constructor, opcode, and the value of an element. -/
def laneBinaryForms : List ((LaneOps → Instr) × Nat × (Word → DType → Nat → Nat → Nat)) :=
  [(.vadd, 0x00, fun m t a b => narrowed m t (intOf t a + intOf t b)),
   (.vsub, 0x01, fun m t a b => narrowed m t (intOf t a - intOf t b)),
   (.vmul, 0x02, fun m t a b => narrowed m t (intOf t a * intOf t b)),
   (.vmulh, 0x03, fun _ t a b => ((intOf t a * intOf t b / 2 ^ dtypeWidth t) % 2 ^ dtypeWidth t).toNat),
   (.vmin, 0x05, fun _ t a b => if intOf t b < intOf t a then b else a),
   (.vmax, 0x06, fun _ t a b => if intOf t a < intOf t b then b else a),
   (.vand, 0x09, fun _ _ a b => a &&& b), (.vor, 0x0A, fun _ _ a b => a ||| b), (.vxor, 0x0B, fun _ _ a b => a ^^^ b),
   (.vandn, 0x0C, fun _ t a b => a &&& (b ^^^ (2 ^ dtypeWidth t - 1))),
   (.vshl, 0x0E, fun _ t a b => a * 2 ^ (b % dtypeWidth t) % 2 ^ dtypeWidth t),
   (.vshr, 0x0F, fun _ t a b => a / 2 ^ (b % dtypeWidth t)),
   (.vsra, 0x10, fun _ t a b =>
     (((if a / 2 ^ (dtypeWidth t - 1) % 2 = 1 then (a : Int) - 2 ^ dtypeWidth t else a) / 2 ^ (b % dtypeWidth t)) %
       2 ^ dtypeWidth t).toNat),
   (.vfcpsgn, 0x3D, fun _ t a b =>
     a % 2 ^ (dtypeWidth t - 1) + b / 2 ^ (dtypeWidth t - 1) * 2 ^ (dtypeWidth t - 1))]

/-- The integer and bitwise lane functions of one source (R209, R216, R222). -/
def laneUnaryForms (w : LaneOps) : List ((LaneOps → Instr) × Nat × (Word → DType → Nat → Nat)) :=
  [(.vabs, 0x07, fun m t a => narrowed m t (intOf t a).natAbs),
   (.vneg, 0x08, fun m t a => narrowed m t (-intOf t a)),
   (.vnot, 0x0D, fun _ t a => a ^^^ (2 ^ dtypeWidth t - 1)),
   (.vclz, 0x11, fun _ t a => dtypeWidth t - bitLen a),
   (.vpop, 0x12, fun _ t a => (List.range (dtypeWidth t)).countP fun k => a.testBit k),
   (.vbrev, 0x13, fun _ t a => ((List.range (dtypeWidth t)).map fun k =>
     if a.testBit k then 2 ^ (dtypeWidth t - 1 - k) else 0).sum),
   (.vmov, 0x16, fun _ _ a => a),
   (.vfabs, 0x3B, fun _ t a => a % 2 ^ (dtypeWidth t - 1)),
   (.vfneg, 0x3C, fun _ t a => a ^^^ 2 ^ (dtypeWidth t - 1)),
   (.vfclass, 0x3F, fun _ t a => floatClass (fmtOf t) a),
   (.vsat, 0x68, fun _ t a => satElem t (dtypeOf (w.imm.toNat % 16)) a)]

/-- A lane word whose only result is the triple vd, with the exceptions of its active lanes (R212, R217, R227). -/
def LaneTriple (s : State) (g : Group) (i : Instr) (w : LaneOps) (u : RegUses) (f : Nat → Bool) (ex : Nat) : Prop :=
  ∃ file, (∀ m, TripleFile g.live (w.vd.toNat % 64) f m (file m)) ∧
    LaneEffect s s g i w (lastRead w u) noDest file id ex false

/-- The outcomes of a lane's elements taken together: any under imm21[3], else all (R212). -/
def together (w : LaneOps) (f : Nat → Bool) : Bool :=
  if w.imm.toNat.testBit 3 then (List.range (elemCount w.dt)).any f else (List.range (elemCount w.dt)).all f

/-- A comparison of integers by its condition code (R212). -/
def intCompare (k : Nat) (a b : Int) : Bool :=
  (k == 0 && a == b) || (k == 1 && a != b) || (k == 2 && decide (a < b)) || (k == 3 && decide (a ≤ b)) ||
    (k == 4 && decide (b < a)) || (decide (5 ≤ k) && decide (b ≤ a))

/-- A lane word whose destination holds, in each active lane, the value of `r`, with the exceptions of the active lanes. -/
def LaneRounded (s : State) (g : Group) (i : Instr) (w : LaneOps) (u : RegUses) (t : DType) (draws : Bool) (r : Nat → FRes) :
    Prop :=
  LaneEffect s s g i w (lastRead w u) (destOf t w.vd.toNat fun l => (r l).bits) id id
    (exUnion ((List.range g.lanes).map fun l => if (laneCtx g).active l then r l else ⟨0, 0⟩)) draws

/-- The rounding of element `j` of lane `l`: the word's or the mode register's, with saturation, flushing and the element's draw
(R145, R185, R187, R190, R191, R193). -/
def roundingOf (g : Group) (w : LaneOps) (t : DType) (l j : Nat) : RndCtx :=
  let r := effectiveRnd g.mode w.rs t
  ⟨r, saturates g.mode t, flushesOut g.mode, if r == .sto then drawBits g.seed (l * 8 + j) else 0⟩

/-- A word whose effective rounding of type `t` is stochastic takes draws (R189). -/
def draws (g : Group) (w : LaneOps) (t : DType) : Bool := effectiveRnd g.mode w.rs t == .sto

/-- The rounded lane functions of two sources (R213). -/
def floatBinaryForms : List ((LaneOps → Instr) × Nat × (RndCtx → Fmt → FVal → FVal → FRes)) :=
  [(.vfadd, 0x30, faddVal), (.vfsub, 0x31, fun c f a b => faddVal c f a (fnegate b)), (.vfmul, 0x32, fmulVal),
   (.vfdiv, 0x40, fdivVal)]

/-- The fused functions (R213): whether the product and the addend are negated. -/
def fusedForms : List ((LaneOps → Instr) × Nat × Bool × Bool) :=
  [(.vfma, 0x33, false, false), (.vfms, 0x34, false, true), (.vfnma, 0x35, true, false), (.vfnms, 0x36, true, true)]

/-- The minima and maxima (R215): whether it is a maximum, and whether a NaN wins. -/
def minMaxForms : List ((LaneOps → Instr) × Nat × Bool × Bool) :=
  [(.vfmin, 0x37, false, false), (.vfmax, 0x38, true, false), (.vfminx, 0x39, false, true), (.vfmaxx, 0x3A, true, true)]

/-- The rounded lane functions of one source (R197, R213): whether they draw under stochastic rounding. -/
def floatUnaryForms : List ((LaneOps → Instr) × Nat × Bool × (RndCtx → Fmt → FVal → FRes)) :=
  [(.vfsqrt, 0x41, true, fsqrtVal), (.vfrcp, 0x42, true, fun c f a => fdivVal c f (.num false 1 0) a),
   (.vfrsq, 0x43, false, frsqVal), (.vfexp2, 0x44, false, fexp2Val), (.vflog2, 0x45, false, flog2Val),
   (.vfsin, 0x46, false, fsinVal), (.vfcos, 0x47, false, fcosVal), (.vftanh, 0x48, false, ftanhVal), (.vfrnd, 0x49, true, frndVal)]

/-- The prefixes of a scan over the active lanes in ascending order: for each its value and the one before it; the first is
the first lane's value as `first` delivers it (R193, R196, R225). -/
def prefixes (f : Nat → Nat → Nat → FRes) (first : FRes → FRes) (v : Nat → Nat) (identity : Nat) :
    List Nat → List (Nat × FRes × Nat)
  | [] => []
  | a :: rest => (a, first ⟨v a, 0⟩, identity) :: scanGo f v rest (first ⟨v a, 0⟩)

/-! ### Lane accesses, permutations and tiles -/

/-- A lane's access has been found here: in memory, in scratch, in a register or a tile, or failing with a cause that no refusal
envelope goes with. -/
def foundHere (s : State) : Res → Bool
  | .ok (.peer _ _) => false
  | .ok (.scratch c _) => (cohort? s c).isSome
  | .ok _ => true
  | .fail _ gov => gov.isNone
  | .wait => false

/-- As `foundHere`, and where it succeeds it leads to memory, to bytes that no watchpoint covers, or to scratch. -/
def foundWritable (s : State) (size : Nat) : Res → Bool
  | .ok (.mem p) => decide (Unwatched s p size)
  | .ok (.scratch c _) => (cohort? s c).isSome
  | .ok _ => false
  | .fail _ gov => gov.isNone
  | .wait => false

/-- What a lane load of `size` bytes reads: the held line of its core or memory, or where else the address leads; zero where it
fails (R263, R277, R280). -/
def laneRead (s : State) (g : Group) (size : Nat) : Res → Nat
  | .ok (.mem p) => bytesToNat (cacheRead s (agentOf g).die (agentOf g).core false p size)
  | .ok l => bytesToNat (readBytes s l size)
  | _ => 0

/-- The failed accesses of a lane word whose order number is `key` recorded in ascending lane order: `kind` 0 for loads, 1 for
stores, 2 for atomics, and 4 where the address is of on-chip kind 1 or 2 (R33, R280). -/
def withFaults (p : Pending) (key kind size : Nat) (rs : List (Nat × Nat × Res)) : Pending :=
  rs.foldl (fun p r =>
    match r.2.2 with
    | .fail c _ => withFault p key ⟨BitVec.ofNat 64 r.2.1, r.1, if chipKind12 r.2.1 then 4 else kind, size, c, 0⟩
    | _ => p) p

/-- The lane loads (R274, R277): constructor, opcode, the registers named, and the address of a lane. -/
def laneLoadForms (w : LaneOps) : List ((LaneOps → Instr) × Nat × RegUses × (LaneCtx → Nat → Nat)) :=
  let two : RegUse := ⟨2, true⟩
  [(.vld, 0x90, ⟨two, useIndex w.dt, useNone, useOf w.dt⟩, fun c i => addrBase c w i),
   (.vlds, 0x92, ⟨useNone, useNone, useNone, useOf w.dt⟩, fun c i => addrStride c w i),
   (.vldc, 0x94, ⟨useOf w.dt, useOf w.dt, useNone, useOf w.dt⟩, fun c i => addrWindow c w i)]

/-- The lane stores (R274, R278): constructor, opcode, the registers named, and the address of a lane. -/
def laneStoreForms (w : LaneOps) : List ((LaneOps → Instr) × Nat × RegUses × (LaneCtx → Nat → Nat)) :=
  let two : RegUse := ⟨2, true⟩
  [(.vst, 0x91, ⟨two, useIndex w.dt, useOf w.dt, useNone⟩, fun c i => addrBase c w i),
   (.vsts, 0x93, ⟨useNone, useNone, useOf w.dt, useNone⟩, fun c i => addrStride c w i),
   (.vstc, 0x95, ⟨useOf w.dt, useOf w.dt, useOf w.dt, useNone⟩, fun c i => addrWindow c w i)]

/-- A value of a signed type extended to a lane word by its sign (R275). -/
def extended (t : DType) (v : Nat) : Nat :=
  if v < 2 ^ (dtypeWidth t - 1) then v else v + 2 ^ 32 - 2 ^ dtypeWidth t

/-- The offset of byte `a` of memory or scratch in an access of `n` bytes that leads to `l`. -/
def offsetIn (l : Loc) (n : Nat) (a : Loc) : Option Nat :=
  match l, a with
  | .mem p, .mem q => if p ≤ q ∧ q < p + n then some (q - p) else none
  | .scratch c o, .scratch d q => if c = d ∧ o ≤ q ∧ q < o + n then some (q - o) else none
  | _, _ => none

/-- What is left of the bytes that copies of a group have written and its matrix commands may still see as they were (R236), after
writes of others. -/
def tracesLeft (ws : List (Loc × List Byte)) (ts : List CopyTrace) : List CopyTrace :=
  ts.filter fun t => ws.all fun w => (offsetIn w.1 w.2.length (.scratch t.cohort t.off)).isNone

/-- A group after another agent's write of bytes at `l`: woken if it sleeps on the line (R170); no matrix command of it sees
any more what the bytes were before its own copies (R236). -/
def wokenAt (l : Loc) (bs : List Byte) (g : Group) : Group :=
  match l with
  | .mem p => wokenBy p bs.length g
  | l =>
    let h := { g with traces := tracesLeft [(l, bs)] g.traces }
    if g.wait = .word (lineOf l) then { h with wait := .woken } else h

/-- Between two states the writes `ws` have been made in their order: every byte of memory and of scratch reads as the last
write of it left it, or as before; groups that sleep on a line written, or on a vector register of group `gid` that `reg`
names, are woken, and every other group but `gid` is as before. Otherwise only group `gid`, the counters, held translations
and lines, and the dirty bits of partitions under migration (R381) may differ. -/
def Wrote (s t : State) (gid : Nat) (reg : Nat → Bool) (ws : List (Loc × List Byte)) : Prop :=
  t = { s with mem := t.mem, cohorts := t.cohorts, groups := t.groups, regions := t.regions, tlb := t.tlb, cache := t.cache,
               parts := t.parts } ∧
  (∃ k : Part → List Nat, t.parts = s.parts.map fun x => { x with clean := k x }) ∧
  (∃ b : Cohort → Sparse 8, t.cohorts = s.cohorts.map fun x => { x with bytes := b x }) ∧
  (∀ a, ((∃ p, a = .mem p) ∨ ∃ c o, a = .scratch c o ∧ (cohort? s c).isSome = true) →
    readByte t a = ws.foldl (fun b x =>
      match offsetIn x.1 x.2.length a with
      | some k => x.2.getD k 0
      | none => b) (readByte s a)) ∧
  ∀ m, m ≠ gid → group? t m = (group? s m).map fun h =>
    wokenByRegs gid reg [] (ws.foldl (fun h x => wokenAt x.1 x.2 h) h)

/-- A lane word that writes memory has retired: its writes are `ws`, its destination registers those that `reg` names, and of
its group `g'` holds the results. -/
def LaneWrote (s t : State) (g g' : Group) (active : Nat) (reg : Nat → Bool) (ws : List (Loc × List Byte)) : Prop :=
  Wrote s t g.gid reg ws ∧ Counted s t g (laneWork active) ∧
  ∃ prov, ProvisionalCounts s g (laneWork active) prov ∧ group? t g.gid = some (afterLane g' prov)

/-- A scalar instruction of `g` has retired after the writes `ws`; of its group `g'` holds the results. -/
def ScalarWrote (s t : State) (g g' : Group) (ws : List (Loc × List Byte)) : Prop :=
  Wrote s t g.gid (fun _ => false) ws ∧ Counted s t g scalarWork ∧
  ∃ prov, ProvisionalCounts s g scalarWork prov ∧ group? t g.gid = some (afterScalar g' (g.pc + 4) prov)

/-- The fold of the operands of one address (R204). -/
def amoFold (op size : Nat) : List Nat → Nat
  | [] => 0
  | v :: vs => vs.foldl (fun a x => amoNew op size a x 0) v

/-- The value of a place after a list of compare-and-swaps: each an operand with its comparand (R284). -/
def casFold (old : Nat) (vs : List (Nat × Nat)) : Nat := vs.foldl (fun a x => if a = x.2 then x.1 else a) old

/-- The lane atomics (R274, R283): constructor, opcode, the registers named, and the address of a lane. -/
def laneAmoForms (w : LaneOps) : List ((LaneOps → Instr) × Nat × RegUses × (LaneCtx → Nat → Nat)) :=
  let cmp : RegUse := if bits w.imm.toNat 4 5 = 9 then useOf w.dt else useNone
  [(.vamo, 0x96, ⟨⟨2, true⟩, useOf w.dt, cmp, useOf w.dt⟩, fun c i => addrAmo c w i),
   (.vamoc, 0x97, ⟨useOf w.dt, useOf w.dt, cmp, useOf w.dt⟩, fun c i => addrAmoc c w i)]

/-- A permutation of `n` items with its route solve begun (R257). -/
def madePerm (n : Nat) (f : Nat → Nat) : Perm := ⟨n, (List.range n).map f, true⟩

/-- A lane word writes permutation register vd[3:0] and no other. -/
def LanePerm (s : State) (g : Group) (i : Instr) (w : LaneOps) (u : RegUses) (q : Perm) (draws : Bool) : Prop :=
  LaneEffect s s g i w (lastRead w u) noDest id (fun g => { g with perms := listSet g.perms (w.vd.toNat % 16) q }) 0 draws

/-- A lane word writes scalar register vd with `v`. -/
def LaneScalar (s : State) (g : Group) (i : Instr) (w : LaneOps) (u : RegUses) (v : Nat) : Prop :=
  ∃ file, (∀ m, ScalarFile g.live (w.vd.toNat % 64) (BitVec.ofNat 64 v) m (file m)) ∧
    LaneEffect s s g i w (lastRead w u) noDest file id 0 false

/-- The tiles that a word names (R231, R248). -/
def tileNumbers (w : LaneOps) : List Nat :=
  if dtypeWide w.dt then [w.imm.toNat % 8, w.imm.toNat % 8 + 1] else [w.imm.toNat % 8]

/-! ### Steps of a group's engines -/

/-- The step has changed the record of group `gid` to `g'`, and nothing else. -/
def Becomes (s : State) (i : Instr) (gid : Nat) (g' : Group) : Prop :=
  ∃ t, exec i s = .next t ∧ t = { s with groups := t.groups } ∧ group? t gid = some g' ∧ ∀ n, n ≠ gid → group? t n = group? s n

/-- Between two states the regions differ in their counters alone: counter `n` of one region has grown by `k` (R386). -/
def CountedIn (s t : State) (part region n k : Nat) : Prop :=
  (∃ c : Region → Sparse 64, t.regions = s.regions.map fun r => { r with counters := c r }) ∧
  (∀ m, (region? s part region).isSome = true →
    counterOf t part region m = counterOf s part region m + if m = n then BitVec.ofNat 64 k else 0) ∧
  ∀ p r m, ¬(p = part ∧ r = region) → counterOf t p r m = counterOf s p r m

/-- The counter that a matrix command's work goes to, and the work (R386). -/
def matrixWork (c : Command) (n : Nat) : Nat :=
  if c.scale then (if n = 0x0A then 4096 * groupCount c.set else 0)
  else if n = 0x03 + (pairOfSet c.set).num then 4096 * (pairOfSet c.set).k else 0

/-- The bytes of the rows of a copy: the fill value repeated, or what the source reads (R287, R288). -/
def copySource (s : State) (g : Group) (c : Copy) (row : Nat) : RowLook :=
  match c.fill with
  | some v => ⟨s, (List.range c.set.rowBytes).map fun o => v.extractLsb' (8 * (o % 8)) 8, [], [], false, none⟩
  | none => rowRead g c s (rowPieces (c.src + BitVec.ofNat 64 row * c.set.srcStride) c.set.rowBytes)

/-- Bytes cut into the pieces of a destination. -/
def cutAt : List (Loc × Nat × Nat) → List Byte → List (Loc × List Byte)
  | [], _ => []
  | p :: ps, bs => (p.1, bs.take p.2.2) :: cutAt ps (bs.drop p.2.2)

/-- The bytes of scratch that a copy has written, as they were, before those of its group's copies that were there (R236). -/
def copyTraces (s : State) (c : Copy) (ws : List (Loc × List Byte)) (ts : List CopyTrace) : List CopyTrace :=
  ws.foldl (fun ts w =>
    match w.1 with
    | .scratch k o => ((List.range w.2.length).map fun i => ⟨c.num, c.batch, k, o + i, readByte s (.scratch k (o + i))⟩) ++ ts
    | _ => ts) ts

/-! ### Commands of owners and of the operator -/

/-- The block of an owner's command: it holds this code, is well formed, and is the one that its mailbox has or may take, boot
having ended; `s0` is the state after its read (R39, R40, R415). -/
abbrev OwnerBlock (s s0 : State) (fn block code : Nat) (signed : Bool) (p : Part) (bs : List Byte) : Prop :=
  s.boot.booted = true ∧ mailboxPart s fn = some p ∧ (p.busy = true → p.command = block) ∧ p.rootBusy = false ∧ block % 64 = 0 ∧
  guestGet s p block 256 = (s0, some bs) ∧ bytesAt bs 0 2 = code ∧ blockOk signed bs = true

/-- What an owner's command leaves after `s1`: its returned operands, its reply and its completion value are written, and the
mailbox is no longer busy (R39, R40). -/
def ownerAnswer (s1 : State) (p : Part) (block : Nat) (bs : List Byte) (reply : Nat) (ret : List (Nat × List Byte)) : State :=
  mailboxIdle (cmdFinish s1 (some ((part? s1 p.id).getD p)) block bs reply ret) p.id

/-- The block of an operator's command: the management cores may submit it, boot having ended, and it holds this code and is
well formed; `s0` is the state after its read (R40, R42, R415). -/
abbrev OperatorBlock (s s0 : State) (block code : Nat) (bs : List Byte) : Prop :=
  s.boot.booted = true ∧ (s.cmdHeld = [] ∨ s.cmdHeld.head? = some block) ∧ block % 64 = 0 ∧
  issuerGet s none block 256 = (s0, some bs) ∧ bytesAt bs 0 2 = code ∧ blockOk false bs = true

/-- What an operator's command leaves after `s1`: its reply and its completion value are written, and the next block's turn
comes. -/
def operatorAnswer (s1 : State) (block : Nat) (bs : List Byte) (reply : Nat) : State :=
  let t := cmdFinish s1 none block bs reply []
  { t with cmdHeld := t.cmdHeld.drop 1 }

/-- A partition's record with what a session holds given up (R24, R37). -/
def outOfSession (p : Part) : Part :=
  { p with session := 0, objects := [], images := [], queueState := [], stopped := false, stopping := false, contexts := [], clean := [] }

/-! ### Hosts, boot and dies -/

/-- Launch function `fn` has become what `f` makes of it, and nothing else has changed. -/
def FnBecomes (s : State) (i : Instr) (fn : Nat) (f : LaunchFn → LaunchFn) : Prop :=
  exec i s = .next { s with launchFns := s.launchFns.map fun x => if x.fn == fn then f x else x }

/-- A launch function with queue `q` changed by `f`; a queue not written before stands as after reset (R66). -/
def queueMade (q : Nat) (f : VQueue → VQueue) (x : LaunchFn) : LaunchFn :=
  if (x.queues.any fun y => y.index == q) = true then { x with queues := x.queues.map fun y => if y.index == q then f y else y }
  else { x with queues := x.queues ++ [f (VQueue.reset q)] }

/-- Audit function `fn` has become what `f` makes of it, one not written before standing as after reset, and nothing else has
changed (R16, R391). -/
def AuditBecomes (s : State) (i : Instr) (fn : Nat) (f : AuditFn → AuditFn) : Prop :=
  exec i s = .next { s with auditFns := s.auditFns.filter (fun a => a.fn != fn) ++
    [f ((s.auditFns.find? fun a => a.fn == fn).getD ⟨fn, 0, 0, none, 0⟩)] }

/-- A launch function whose queue `q` breaks: the queue is broken, the device needs a reset, the configuration bit of its ISR
status is set, and the first queue to break leaves the error record (R66, R69). -/
def queueBroken (q cause value : Nat) (x : LaunchFn) : LaunchFn :=
  { x with
    queues := x.queues.map fun y => if y.index == q then { y with broken := true } else y
    status := x.status ||| 0x40, isr := x.isr ||| 2, errSeen := true
    errQueue := if x.errSeen then x.errQueue else q
    errCause := if x.errSeen then x.errCause else cause
    errValue := if x.errSeen then x.errValue else value }

/-- Bytes of the memory that a host's access names: the host's own, at its bus address (R314). -/
def hostBytes (s : State) (a n : Nat) : List Byte := Sparse.getRange s.mem (2 ^ 60 + a) n

/-! ### Tasks, slots, regions and pages -/

/-- Memory after a write of bytes at `p`: they read there, and every other byte as before. -/
def MemoryPut (s t : State) (p : Nat) (bs : List Byte) : Prop :=
  ∀ a, Sparse.get t.mem a = if p ≤ a ∧ a < p + bs.length then bs.getD (a - p) 0 else Sparse.get s.mem a

/-- A task that nobody holds a request for has completed: its entry, its groups and its cohorts are gone (R59, R70, R77). -/
def TaskGone (t : State) (part handle : Nat) : Prop :=
  task? t part handle = none ∧ (∀ g ∈ t.groups, ¬(g.part = part ∧ g.task = handle)) ∧
  ∀ c ∈ t.cohorts, ¬(c.part = part ∧ c.task = handle)

/-- A bind record is well formed for its slot (R82, R84). -/
abbrev recordGood (die core slot v : Nat) : Prop :=
  v / 2 ^ 96 ≠ 0 ∧ v / 2 ^ 60 % 16 ≤ 11 ∧ (v / 2 ^ 46 % 4 = 1 ∨ v / 2 ^ 46 % 4 = 2) ∧ v / 2 ^ 32 % 2 ^ 13 = 0 ∧
  v / 2 ^ 28 % 16 = die ∧ v / 2 ^ 20 % 256 = core ∧ v / 2 ^ 20 % 256 ≤ 191 ∧ v / 2 ^ 16 % 16 = slot ∧ v % 2 ^ 16 = 0

/-- The record with its slot's own values that a bind latches, and the place of the group's image; a read from a peer that served no
retired instruction is made anew (R49, R87, R306, R369). -/
def latched (s : State) (g g' : Group) (die core slot : Nat) : Prop :=
  let v := recordAt s die core slot
  g' = { withImage s g with
    status := .bound die core slot, auth := recAuth v, quantum := recQuantum v, bindSeq := g'.bindSeq, boundAt := s.clock
    peers := (g.peers.filter fun p => p.op != .read || p.copy != 0 || p.reply.isNone).map fun p =>
      if p.op == .read && p.copy == 0 then { p with redone := true } else p
    level := Nat.min (recPrio v) (((task? s g.part g.task).map fun t => t.prio).getD 0), wait := g'.wait }

/-! ### Leases, pre-emption, migration, translation and power -/

/-- The partitions that a lease write takes off a die (R26). -/
def takenOff (s : State) (die : Nat) (v : Word) : List Nat :=
  (List.range 64).filter fun p => (Sparse.get s.lease die).getLsbD p && !v.getLsbD p

/-- The dies of a request in a set, as a mask of bits (R377). -/
def dieMask (q : PreReq) (f : PreDie → Bool) (k : Nat) : Bool := q.dies.any fun x => f x && x.die == k

/-- A write of 0x820 finds a request in progress: one that came through that die's registers, or one on a die that the value
names, which is every die in scope 3 (R376, R385, R400). -/
def requestMet (s : State) (die n : Nat) : Prop :=
  (Sparse.get s.pre822 die).getLsbD 0 = true ∨
    ∃ q ∈ s.preempts, ∃ x ∈ q.dies, x.die ∈ (if n / 2 ^ 16 % 4 = 3 then List.range 8 else [n / 2 ^ 12 % 8])

/-- The affected groups of a request that are discarded, each with a record of its own (R377, R378): such a group holds no
slot, no register, no tile and no command any more and leaves no image; its index is the next to be handed out again on its
die, with its task; its copies run on; it counts as one discard (0x12) of its region, and no byte of memory changes. Every
other group is as before. -/
def Discards (s t : State) (gs : List Group) : Prop :=
  SameMemory s t ∧
  (∀ g ∈ gs, discardable s g = true → ∃ g' k, group? t g.gid = some g' ∧ g'.status = .ended ∧ g'.vregs = [] ∧ g'.tiles = [] ∧
    g'.cmds = [] ∧ g'.queue = [] ∧ g'.image = none ∧ g'.saved = false ∧ g'.prov = [] ∧ g'.copies = g.copies ∧
    task? t g.part g.task = some k ∧ (g.index, g.die) ∈ k.redo) ∧
  (∀ n, (∀ g ∈ gs, discardable s g = true → g.gid ≠ n) → group? t n = group? s n) ∧
  ∀ part id, (region? s part id).isSome = true → counterOf t part id 0x12 = counterOf s part id 0x12 +
    BitVec.ofNat 64 (gs.filter fun g => discardable s g && g.part == part && g.region == id).length

/-! ### The fabric and the Creamline -/

/-- The link to a peer has become what `f` makes of it, and nothing else has changed. -/
def LinkBecomes (s : State) (i : Instr) (peer : Nat) (f : Link → Link) : Prop :=
  exec i s = .next { s with fabric := { s.fabric with links := s.fabric.links.map fun l => if l.peer == peer then f l else l } }

/-- Two states differ in the fabric alone. -/
def OnlyFabric (s t : State) : Prop := t = { s with fabric := t.fabric }

/-- The partition is being reset: none of its pages is read (R34). -/
abbrev Resetting (s : State) (part : Nat) : Prop := ∃ p ∈ s.parts, p.id = part ∧ p.st = .resetting

/-- The load cache after an answer to a request of a group which is no store: its core, where it still has the group, has
given up what it held or had asked for of the line; a whole line is there if the core still waits for it (R134, R263, R307).
-/
def AnswerCached (s t : State) (g : Group) (p : PeerAccess) (isLine : Prop) (data : List Byte) : Prop :=
  let key := alignDown (peerKey g.part p.pkg p.addr) 128
  let left := if isBound g = true then s.cache.filter fun c =>
      c.code || c.die != (agentOf g).die || c.core != (agentOf g).core || c.line != key
    else s.cache
  ((¬isLine ∨ ∀ c ∈ s.cache, c.asked ≠ some p.ticket) → t.cache = left) ∧
  (isLine → ∀ c, (s.cache.find? fun c => c.asked == some p.ticket) = some c →
    t.cache = ⟨c.die, c.core, false, key, Sparse.ofList 0 data, none⟩ :: left)

/-- A peer's request meets its page: the partition is here and owns it, it is neither a counter area nor an expert table, and its
lines have no error (R18, R263, R330). -/
abbrev PeerMay (s : State) (r : PeerRequest) : Prop :=
  functionGone s r.part = false ∧ pageOwned s r.part r.addr = true ∧ inCounterArea s r.addr = false ∧ inTableArea s r.addr = false ∧
    rangeBad s r.addr (Nat.max 1 r.size) = false

/-- A message is next: it stands next in sequence, every live package holds its frame, and the stores that it counts have all
arrived, or no path leads here any more from their sender (R317, R318, R337, R339). -/
abbrev NextMessage (s : State) (seq : Nat) (m : CreamMsg) : Prop :=
  seq = s.fabric.applied + 1 ∧ (s.fabric.received.find? fun x => x.1 == seq) = some (seq, m) ∧ seq < s.fabric.confirmed ∧
  (m.sender = s.fabric.pkg ∨ ∃ l, link? s m.sender = some l ∧ (inboundLive s l = false ∨
    (((coverHere s m).length % 2 ^ 24 = m.counts.getD s.fabric.pkg 0) ∧ ∀ p ∈ coverHere s m, arrivedPos l p = true)))

/-- The message with sequence `seq` has been applied: its number is the applied one, and it has been taken off. -/
def Applied (t : State) (seq : Nat) : Prop := t.fabric.applied = seq ∧ ∀ x ∈ t.fabric.received, x.1 ≠ seq

/-- The frame that the ladle's holder puts on the medium: up to seven messages of its queue (R337). -/
def ownFrame (f : Fabric) (visit : Nat) : Frame :=
  { seq := f.nextSeq, sender := f.pkg, number := visit, passes := visit == 7 || decide (f.queue.length ≤ 7),
    msgs := (f.queue.take 7).map fun x => x.2 }

/-! ### The Churn and the queue pairs -/

/-- The table of a partition has become `t'`, and nothing else has changed. -/
def TableBecomes (s : State) (i : Instr) (part : Nat) (t' : Table) : Prop :=
  exec i s = .next { s with tables := s.tables.map fun t => if t.part == part then t' else t }

/-- A full set of gradients waits of the version whose frame a switch takes: every replica that the version lists for an expert has
submitted (R351, R360). -/
def mergeDue (k : Table) : Prop :=
  ∃ z ∈ k.grads, z.version + 3 ≤ k.version ∧ ∀ r, r < (replicasOf k z.version z.expert).length →
    ∃ y ∈ k.grads, y.version = z.version ∧ y.expert = z.expert ∧ y.replica = r

/-- The queue pair has become `x'`, and nothing else has changed. -/
def QueuePairBecomes (s : State) (i : Instr) (q : Nat) (x' : QueuePair) : Prop :=
  exec i s = .next { s with qps := s.qps.map fun y => if y.q == q then x' else y }

/-! ### The matrix engine's arithmetic -/

/-- The products of a chunk and the number format of the accumulator of a floating pair (R200). -/
def chunkOf (pair : Nat) : Nat := if pair = 0 then 1 else if pair = 1 then 4 else 16

/-! ### Steps -/

/-- The group may issue from its slot, and the next word of its scalar stream (or lane stream) lies in memory at `p`, within
one line that its core does not hold (R90, R97, R263). -/
abbrev NextWordAt (s : State) (g : Group) (lane : Bool) (p : Nat) : Prop :=
  let pc := if lane then lanePc s g else g.pc
  let n := if lane then 12 else 4
  group? s g.gid = some g ∧ mayIssue s g = true ∧ (lane = true → g.queue ≠ []) ∧ pc.toNat % 128 + n ≤ 128 ∧
    (resolve s (agentOf g) pc.toNat .exec).2 = .ok (.mem p) ∧ cacheFind s (agentOf g).die (agentOf g).core true p = none ∧
    ∀ q ∈ g.peers, q.entry.lane ≠ if lane then 0xFF else 0xFE

/-- The state in which the word of a group is executed: the group is the current one, and its core holds the word's line (R90,
R263). -/
def ReadyToExecute (s t : State) (g : Group) : Prop :=
  ∃ tlb cache floor, t = { s with cur := g.gid, tlb := tlb, cache := cache, power := { s.power with floorWait := floor } }

/-- The state in which an instruction of group `g` that the chooser `c` has chosen is executed: the chooser's wait count of
the group is 0 (R91). -/
def choosing (g : Group) (c : Chooser) (t : State) : State :=
  { t with groups := t.groups.map fun x => if x.gid == g.gid then (match c with
    | .scalar => { x with chooseS := 0 }
    | .main => { x with chooseM := 0 }
    | .special => { x with chooseX := 0 }) else x }

/-- The state after it, which it left as `u`: an instruction that has only waited has not been chosen, and the wait counts of group
`g` stay as they were (R90, R91). -/
def afterChoice (g : Group) (u : State) : State :=
  if (∃ h, group? u g.gid = some h ∧ h.retiredS = g.retiredS ∧ h.retiredL = g.retiredL ∧ h.status = g.status) then
    { u with groups := u.groups.map fun x =>
        if x.gid == g.gid then { x with chooseS := g.chooseS, chooseM := g.chooseM, chooseX := g.chooseX } else x }
  else u

end Sys2Proof.Claim
end

