-- ==== Sys2Proof/WellFormed.lean ====
section
/-! DEFINITION. Which instruction terms have a word of their own: every field holds a value that the encoding admits
(steps 1 to 3 of R120), and every step of the hardware names parts that exist (R1, R2, R3, R13). -/

namespace Sys2Proof

open Sys2Proof.Machine

/-- A scope code (R109). -/
def scopeOk (s : Nat) : Bool := decide (s ≤ 5)

/-- A triple number (R161). -/
def tripleOk (t : Reg) : Bool := decide (t.toNat ≤ 61)

/-- With y = 0 the destination field is zero (R112). -/
def replyOk (d : Reg) (y : BitVec 1) : Bool := y == 1#1 || d == 0#6

/-- A lane instruction's fields under opcode `op` pass steps 1 to 3 of R120; source C has no pattern. -/
def laneOk (op : Nat) (w : LaneOps) : Bool := (laneCheck (rawLane op w)).isNone

/-- A compute die (R1). -/
def dieOk (d : Nat) : Bool := decide (d < 8)

/-- A slot of a core of a compute die (R3). -/
def slotOk (d c n : Nat) : Bool := decide (d < 8) && decide (c < 192) && decide (n < 16)

/-- A partition (R13). -/
def partOk (p : Nat) : Bool := decide (p < 64)

/-- The term is an instruction with a word of its own, or a step that names existing parts. -/
def Instr.wf : Instr → Bool
  | .add _ _ _ => true
  | .sub _ _ _ => true
  | .mul _ _ _ => true
  | .mulh _ _ _ => true
  | .mulhn _ _ _ => true
  | .div _ _ _ => true
  | .divn _ _ _ => true
  | .rem _ _ _ => true
  | .remn _ _ _ => true
  | .and _ _ _ => true
  | .or _ _ _ => true
  | .xor _ _ _ => true
  | .andn _ _ _ => true
  | .shl _ _ _ => true
  | .shr _ _ _ => true
  | .sra _ _ _ => true
  | .min _ _ _ => true
  | .max _ _ _ => true
  | .minn _ _ _ => true
  | .maxn _ _ _ => true
  | .clz _ _ => true
  | .ctz _ _ => true
  | .pop _ _ => true
  | .sext8 _ _ => true
  | .sext16 _ _ => true
  | .sext32 _ _ => true
  | .zext8 _ _ => true
  | .zext16 _ _ => true
  | .zext32 _ _ => true
  | .seq _ _ _ => true
  | .sne _ _ _ => true
  | .slt _ _ _ => true
  | .sltn _ _ _ => true
  | .sle _ _ _ => true
  | .slen _ _ _ => true
  | .cmov _ _ _ => true
  | .addi _ _ _ => true
  | .andi _ _ _ => true
  | .ori _ _ _ => true
  | .xori _ _ _ => true
  | .shiShl _ _ _ => true
  | .shiShr _ _ _ => true
  | .shiSra _ _ _ => true
  | .shiRol _ _ _ => true
  | .slti _ _ _ => true
  | .sltni _ _ _ => true
  | .hi20 _ _ => true
  | .adr _ _ => true
  | .ladr _ _ => true
  | .ldI8 _ _ _ => true
  | .ldN8 _ _ _ => true
  | .ldI16 _ _ _ => true
  | .ldN16 _ _ _ => true
  | .ldI32 _ _ _ => true
  | .ldN32 _ _ _ => true
  | .ld64 _ _ _ => true
  | .st8 _ _ _ => true
  | .st16 _ _ _ => true
  | .st32 _ _ _ => true
  | .st64 _ _ _ => true
  | .bEq _ _ _ => true
  | .bNe _ _ _ => true
  | .bLt _ _ _ => true
  | .bGe _ _ _ => true
  | .bLtn _ _ _ => true
  | .bGen _ _ _ => true
  | .j _ => true
  | .jal _ => true
  | .jr _ _ _ => true
  | .lrun _ _ => true
  | .lrunr _ _ => true
  | .nop => true
  | .fenceMem s => scopeOk s.toNat
  | .fenceXlat s => scopeOk s.toNat
  | .fenceCode s => scopeOk s.toNat
  | .xfence => true
  | .bar _ b => decide (b.toNat ≤ 15)
  | .wwait s _ _ _ _ => scopeOk s.toNat
  | .exit => true
  | .lexit a => tripleOk a
  | .yield => true
  | .trap _ => true
  | .srd _ n => specialKnown n.toNat
  | .swr _ n => specialKnown n.toNat
  | .launch _ _ => true
  | .bwait _ => true
  | .mwait _ => true
  | .amoAdd _ _ _ s => scopeOk s.toNat
  | .amoAnd _ _ _ s => scopeOk s.toNat
  | .amoOr _ _ _ s => scopeOk s.toNat
  | .amoXor _ _ _ s => scopeOk s.toNat
  | .amoMin _ _ _ s => scopeOk s.toNat
  | .amoMax _ _ _ s => scopeOk s.toNat
  | .amoMinn _ _ _ s => scopeOk s.toNat
  | .amoMaxn _ _ _ s => scopeOk s.toNat
  | .amoXchg _ _ _ s => scopeOk s.toNat
  | .amoCas _ _ _ s => scopeOk s.toNat
  | .amoFaddF32 _ _ _ s => scopeOk s.toNat
  | .amoFaddF64 _ _ _ s => scopeOk s.toNat
  | .many _ a => tripleOk a
  | .mcnt _ a => tripleOk a
  | .mffs _ a => tripleOk a
  | .mmov d a => tripleOk d && tripleOk a
  | .mset d _ _ => tripleOk d
  | .mnot d a => tripleOk d && tripleOk a
  | .crel _ => true
  | .cacq _ => true
  | .cseq _ => true
  | .cbar _ _ b => decide (b.toNat ≤ 15)
  | .xcShape d _ _ y => replyOk d y
  | .xcStride d _ _ y => replyOk d y
  | .xcDone d _ _ y => replyOk d y
  | .xcPerm d _ y => replyOk d y
  | .xcPermSc d _ y => replyOk d y
  | .xcPermOff d y => replyOk d y
  | .xcGo d _ _ y => replyOk d y
  | .xcFill d _ _ y => replyOk d y
  | .xcBatch d y => replyOk d y
  | .xcQuery _ _ => true
  | .xmFmt d _ y => replyOk d y
  | .xmA d _ _ y => replyOk d y
  | .xmB d _ _ y => replyOk d y
  | .xmGrp d _ _ y => replyOk d y
  | .xmTile d _ y => replyOk d y
  | .xmMcast d _ y => replyOk d y
  | .xmMma d _ _ y => replyOk d y
  | .xmSca d _ _ y => replyOk d y
  | .xmBatch d y => replyOk d y
  | .xeReg _ _ => true
  | .xeVer _ _ => true
  | .xePin d y => replyOk d y
  | .xeUnpin d y => replyOk d y
  | .xeGrad _ _ => true
  | .xeHeat _ _ _ => true
  | .xhPost d _ _ y => replyOk d y
  | .xhNotify d _ y => replyOk d y
  | .xoSeal d _ y => replyOk d y
  | .xoDirty d _ _ y => replyOk d y
  | .xoStop d _ y => replyOk d y
  | .xoCtx d _ y => replyOk d y
  | .vadd w => laneOk 0x00 w
  | .vsub w => laneOk 0x01 w
  | .vmul w => laneOk 0x02 w
  | .vmulh w => laneOk 0x03 w
  | .vmad w => laneOk 0x04 w
  | .vmin w => laneOk 0x05 w
  | .vmax w => laneOk 0x06 w
  | .vabs w => laneOk 0x07 w
  | .vneg w => laneOk 0x08 w
  | .vand w => laneOk 0x09 w
  | .vor w => laneOk 0x0A w
  | .vxor w => laneOk 0x0B w
  | .vandn w => laneOk 0x0C w
  | .vnot w => laneOk 0x0D w
  | .vshl w => laneOk 0x0E w
  | .vshr w => laneOk 0x0F w
  | .vsra w => laneOk 0x10 w
  | .vclz w => laneOk 0x11 w
  | .vpop w => laneOk 0x12 w
  | .vbrev w => laneOk 0x13 w
  | .vsel w => laneOk 0x14 w
  | .vcmp w => laneOk 0x15 w
  | .vmov w => laneOk 0x16 w
  | .vfadd w => laneOk 0x30 w
  | .vfsub w => laneOk 0x31 w
  | .vfmul w => laneOk 0x32 w
  | .vfma w => laneOk 0x33 w
  | .vfms w => laneOk 0x34 w
  | .vfnma w => laneOk 0x35 w
  | .vfnms w => laneOk 0x36 w
  | .vfmin w => laneOk 0x37 w
  | .vfmax w => laneOk 0x38 w
  | .vfminx w => laneOk 0x39 w
  | .vfmaxx w => laneOk 0x3A w
  | .vfabs w => laneOk 0x3B w
  | .vfneg w => laneOk 0x3C w
  | .vfcpsgn w => laneOk 0x3D w
  | .vfcmp w => laneOk 0x3E w
  | .vfclass w => laneOk 0x3F w
  | .vfdiv w => laneOk 0x40 w
  | .vfsqrt w => laneOk 0x41 w
  | .vfrcp w => laneOk 0x42 w
  | .vfrsq w => laneOk 0x43 w
  | .vfexp2 w => laneOk 0x44 w
  | .vflog2 w => laneOk 0x45 w
  | .vfsin w => laneOk 0x46 w
  | .vfcos w => laneOk 0x47 w
  | .vftanh w => laneOk 0x48 w
  | .vfrnd w => laneOk 0x49 w
  | .vcvt w => laneOk 0x60 w
  | .vpack2 w => laneOk 0x61 w
  | .vpack4 w => laneOk 0x62 w
  | .vpack8 w => laneOk 0x63 w
  | .vunpk2 w => laneOk 0x64 w
  | .vunpk4 w => laneOk 0x65 w
  | .vunpk8 w => laneOk 0x66 w
  | .vqgrp w => laneOk 0x67 w
  | .vsat w => laneOk 0x68 w
  | .vgath w => laneOk 0x70 w
  | .vbcast w => laneOk 0x71 w
  | .vred w => laneOk 0x72 w
  | .vscan w => laneOk 0x73 w
  | .vmatch w => laneOk 0x74 w
  | .vballot w => laneOk 0x75 w
  | .vcompact w => laneOk 0x76 w
  | .vexpand w => laneOk 0x77 w
  | .vlaneid w => laneOk 0x78 w
  | .vld w => laneOk 0x90 w
  | .vst w => laneOk 0x91 w
  | .vlds w => laneOk 0x92 w
  | .vsts w => laneOk 0x93 w
  | .vldc w => laneOk 0x94 w
  | .vstc w => laneOk 0x95 w
  | .vamo w => laneOk 0x96 w
  | .vamoc w => laneOk 0x97 w
  | .vprf w => laneOk 0x98 w
  | .qld w => laneOk 0xB0 w
  | .qldt w => laneOk 0xB1 w
  | .qst w => laneOk 0xB2 w
  | .qid w => laneOk 0xB3 w
  | .qcomp w => laneOk 0xB4 w
  | .qinv w => laneOk 0xB5 w
  | .qpow w => laneOk 0xB6 w
  | .qrand w => laneOk 0xB7 w
  | .qcyc w => laneOk 0xB8 w
  | .qapp w => laneOk 0xB9 w
  | .vacrd w => laneOk 0xC0 w
  | .vacwr w => laneOk 0xC1 w
  | .vpark w => laneOk 0xC2 w
  | .vunpark w => laneOk 0xC3 w
  | .vroute w => laneOk 0xC4 w
  | .instructionFetchFault _ _ _ => true
  | .wwaitWake _ => true
  | .routeSolveComplete _ _ => true
  | .matrixCommandStart _ _ => true
  | .matrixCommandComplete _ _ => true
  | .copyStart _ _ => true
  | .copyComplete _ _ => true
  | .copyFault _ _ => true
  | .bodyWrite _ => true
  | .handlerDisposition _ => true
  | .pinReleaseAtEnd _ => true
  | .bind _ _ => true
  | .setStage1Root _ _ => true
  | .setWatchpoint _ _ => true
  | .setContextStore _ _ => true
  | .attest _ _ => true
  | .setRdmaQueues _ _ => true
  | .registerMemoryRegion _ _ => true
  | .deregisterMemoryRegion _ _ => true
  | .create _ _ => true
  | .delete _ => true
  | .reset _ => true
  | .openSession _ _ => true
  | .stage _ => true
  | .install _ => true
  | .commit _ => true
  | .abort _ => true
  | .registerEnvelopeRing _ => true
  | .registerDemandRing _ => true
  | .connectQueuePair _ => true
  | .releaseQueuePair _ => true
  | .scrubComplete part => partOk part
  | .auditSelect _ _ => true
  | .auditRingRegister _ _ => true
  | .registerWrite _ _ _ => true
  | .launchRequest _ _ => true
  | .queueEnable _ _ => true
  | .queueBaseWrite _ _ _ _ => true
  | .deviceStatusReset _ => true
  | .taskAccept _ => true
  | .taskFire part _ => partOk part
  | .slotFill die core slot _ => slotOk die core slot
  | .taskComplete part _ => partOk part
  | .taskEndFailed part _ => partOk part
  | .quantumExpiry die core slot => slotOk die core slot
  | .priorityRaise _ _ => true
  | .demandNotice die part _ => dieOk die && partOk part
  | .leaseWrite die _ => dieOk die
  | .leaseClearComplete die => dieOk die
  | .bindRecordStage die core slot _ => slotOk die core slot
  | .bindRecordCommit die core slot _ _ => slotOk die core slot
  | .stage2RootWrite part _ => partOk part
  | .invalidateAll _ _ => true
  | .invalidateRange _ _ => true
  | .invalidationAcknowledge _ => true
  | .freshPageZeroed _ => true
  | .counterAreaUpdate part _ => partOk part
  | .energyWindow die _ _ => dieOk die
  | .regionTeardown part _ => partOk part
  | .preemptByDeadline die _ => dieOk die
  | .preemptSave die _ => dieOk die
  | .preemptReplace die _ => dieOk die
  | .preemptRequestArrive _ die _ _ => dieOk die
  | .preemptDeadlineExpiry _ die => dieOk die
  | .groupSaveComplete _ => true
  | .cohortReplace _ _ _ => true
  | .preemptRequestComplete _ _ => true
  | .stopComplete part => partOk part
  | .sealComplete _ => true
  | .operatingPointWrite die _ => dieOk die
  | .operatingPointSettle die => dieOk die
  | .thermalClamp die => dieOk die
  | .thermalShutdown => true
  | .parkingWrite _ _ => true
  | .autoPark _ => true
  | .wavelengthWake _ => true
  | .ringLockLoss _ _ _ _ => true
  | .fibreFail _ _ _ => true
  | .drainMarkerArrive _ => true
  | .peerUnreachableTimeout _ => true
  | .peerRequestArrive _ => true
  | .peerReplyArrive _ _ _ => true
  | .streamReleasePerform _ => true
  | .allowanceGrant _ _ => true
  | .ladleArrive => true
  | .creamlineFrameReceive _ _ => true
  | .creamlineFrameAcknowledged => true
  | .creamlineFrameReject => true
  | .ladleSilenceTimeout => true
  | .releaseMessageApply => true
  | .barrierMessageApply => true
  | .invalidationMessageApply => true
  | .versionNoticeMessageApply => true
  | .teardownNoticeApply => true
  | .churnWindowClose part => partOk part
  | .churnSwitchPublish part => partOk part
  | .churnSwitchFail part => partOk part
  | .versionNotice part die => dieOk die && partOk part
  | .slotForward part _ => partOk part
  | .forwardingRecordEnd part _ => partOk part
  | .gradientMerge part _ _ => partOk part
  | .rdmaDoorbell _ _ _ => true
  | .cqConsumerWrite _ _ _ => true
  | .rdmaWrite _ => true
  | .rdmaRead _ => true
  | .rdmaSend _ => true
  | .rdmaWriteWithImmediate _ => true
  | .rdmaInboundRequest _ => true
  | .rdmaAckArrive _ _ => true
  | .rdmaReadResponse _ _ => true
  | .rdmaRetryExhausted _ => true
  | .cnpReceive _ _ => true
  | .hostMemoryRequest _ => true
  | .dieReset die => dieOk die
  | .boot _ _ _ => true
  | .thermalClampRelease die => dieOk die
  | .streamReturnToDirectPath _ => true
  | .rdmaRetry _ => true

end Sys2Proof
end

