-- ==== Sys2Proof/Certificates/Slice0/Obligations.lean ====
section
/-! DEFINITION. The statements about the machine that wait for their proofs. -/

open Sys2Proof Sys2Proof.Machine Sys2Proof.Claim

/-! ### Scalar arithmetic -/

/-- R153, R154: the functions of a register and an immediate, and those of an immediate alone. -/
def Obligations.ScalarImmediateResults : Prop :=
  ∀ (s : State) (g : Group), Running s g → ∀ (d a n : Reg) (i : BitVec 14) (u : BitVec 20),
    let x := sreg g a
    Yields s g (.addi d a i) d (BitVec.ofInt 64 (x.toInt + i.toInt)) ∧
    Yields s g (.andi d a i) d (x &&& BitVec.ofNat 64 i.toNat) ∧
    Yields s g (.ori d a i) d (x ||| BitVec.ofNat 64 i.toNat) ∧
    Yields s g (.xori d a i) d (x ^^^ BitVec.ofNat 64 i.toNat) ∧
    Yields s g (.shiShl d a n) d (BitVec.ofNat 64 (x.toNat * 2 ^ n.toNat)) ∧
    Yields s g (.shiShr d a n) d (BitVec.ofNat 64 (x.toNat / 2 ^ n.toNat)) ∧
    Yields s g (.shiSra d a n) d (BitVec.ofInt 64 (x.toInt / 2 ^ n.toNat)) ∧
    Yields s g (.shiRol d a n) d (x <<< n.toNat ||| x >>> (64 - n.toNat)) ∧
    Yields s g (.slti d a i) d (if x.toInt < i.toInt then 1 else 0) ∧
    Yields s g (.sltni d a i) d (if x.toNat < (i.signExtend 64).toNat then 1 else 0) ∧
    Yields s g (.hi20 d u) d (BitVec.ofInt 64 (u.toInt * 2 ^ 14)) ∧
    Yields s g (.adr d u) d (g.pc + BitVec.ofInt 64 (u.toInt * 4)) ∧
    ∀ t : Task, task? s g.part g.task = some t →
      Yields s g (.ladr d u) d (t.laneBase + BitVec.ofNat 64 (12 * u.toNat))

/-- R151: each function of two registers goes on to the next word with its value in s[sd] and nothing else changed; `cmov`
writes s[sa] where s[sb] is not zero, and else changes nothing.
R151: the functions of one register.
R152: a division writes its quotient or remainder; with a zero divisor it traps 0x05 while mode bit 35 is set, and else sets
the sticky flag, mode bit 40, and writes all ones or the dividend. -/
def Obligations.ScalarRegisterResults : Prop :=
  (∀ (s : State) (g : Group), Running s g → ∀ d a b : Reg,
     (∀ f ∈ binaryForms, Yields s g (f.1 d a b) d (f.2 (sreg g a) (sreg g b))) ∧
     (sreg g b ≠ 0 → Yields s g (.cmov d a b) d (sreg g a)) ∧
     (sreg g b = 0 → GoesTo s g (.cmov d a b) (g.pc + 4))) ∧
  (∀ (s : State) (g : Group), Running s g → ∀ d a : Reg,
     (∃ n, LeadingZeros (sreg g a) n ∧ Yields s g (.clz d a) d (BitVec.ofNat 64 n)) ∧
     (∃ n, TrailingZeros (sreg g a) n ∧ Yields s g (.ctz d a) d (BitVec.ofNat 64 n)) ∧
     Yields s g (.pop d a) d (BitVec.ofNat 64 ((List.range 64).countP fun k => (sreg g a).getLsbD k)) ∧
     Yields s g (.sext8 d a) d (((sreg g a).extractLsb' 0 8).signExtend 64) ∧
     Yields s g (.sext16 d a) d (((sreg g a).extractLsb' 0 16).signExtend 64) ∧
     Yields s g (.sext32 d a) d (((sreg g a).extractLsb' 0 32).signExtend 64) ∧
     Yields s g (.zext8 d a) d (BitVec.ofNat 64 ((sreg g a).toNat % 2 ^ 8)) ∧
     Yields s g (.zext16 d a) d (BitVec.ofNat 64 ((sreg g a).toNat % 2 ^ 16)) ∧
     Yields s g (.zext32 d a) d (BitVec.ofNat 64 ((sreg g a).toNat % 2 ^ 32))) ∧
  (∀ (s : State) (g : Group), Running s g → ∀ d a b : Reg, ∀ f ∈ divisionForms,
     (sreg g b ≠ 0 → Yields s g (f.1 d a b) d (f.2.1 (sreg g a) (sreg g b))) ∧
     (sreg g b = 0 → g.mode.getLsbD 35 = true → exec (f.1 d a b) s = .next (trapScalar s g 0x05)) ∧
     (sreg g b = 0 → g.mode.getLsbD 35 = false →
       ∃ t g', exec (f.1 d a b) s = .next t ∧ g' = { g with mode := g.mode ||| 1#64 <<< 40, scalars := g'.scalars } ∧
         (∀ r, sreg g' r = if r = d then kept g.live d (f.2.2 (sreg g a)) else sreg g r) ∧
         ScalarDone s t g g' (g.pc + 4)))

/-! ### Branches, jumps, lane blocks -/

/-- R158: a branch goes to pc + sext(off14) × 4 if its condition holds, else to pc + 4, and changes no register.
R159: `j` and `jal` go to pc + sext(off26) × 4, and `jal` links in s1; `jr` goes to s[sa] + sext(imm14) and links in s[sd],
or traps 0x14 at itself where the target is not a multiple of 4. -/
def Obligations.BranchAndJumpTargets : Prop :=
  (∀ (s : State) (g : Group), Running s g → ∀ (a b : Reg) (o : BitVec 14),
     let x := sreg g a
     let y := sreg g b
     let taken := g.pc + BitVec.ofInt 64 (o.toInt * 4)
     GoesTo s g (.bEq a b o) (if x = y then taken else g.pc + 4) ∧
     GoesTo s g (.bNe a b o) (if x = y then g.pc + 4 else taken) ∧
     GoesTo s g (.bLt a b o) (if x.toInt < y.toInt then taken else g.pc + 4) ∧
     GoesTo s g (.bGe a b o) (if y.toInt ≤ x.toInt then taken else g.pc + 4) ∧
     GoesTo s g (.bLtn a b o) (if x.toNat < y.toNat then taken else g.pc + 4) ∧
     GoesTo s g (.bGen a b o) (if y.toNat ≤ x.toNat then taken else g.pc + 4)) ∧
  (∀ (s : State) (g : Group), Running s g → ∀ (d a : Reg) (o : BitVec 26) (i : BitVec 14),
     let far := g.pc + BitVec.ofInt 64 (o.toInt * 4)
     let t := sreg g a + BitVec.ofInt 64 i.toInt
     GoesTo s g (.j o) far ∧
     (∃ u g', exec (.jal o) s = .next u ∧ WroteScalar g g' 1#6 (g.pc + 4) ∧ ScalarDone s u g g' far) ∧
     (t.toNat % 4 = 0 → ∃ u g', exec (.jr d a i) s = .next u ∧ WroteScalar g g' d (g.pc + 4) ∧ ScalarDone s u g g' t) ∧
     (t.toNat % 4 ≠ 0 → exec (.jr d a i) s = .next (trapScalar s g 0x14)))

/-- R99, R160: `lrun` and `lrunr` queue a lane block of cnt8 + 1 words while fewer than eight are queued, and wait while the
queue is full.
R180: `nop`, the word 0x8800_0000, retires with no other effect. -/
def Obligations.LaneBlocksAndNop : Prop :=
  (∀ (s : State) (g : Group), Running s g → ∀ (c : BitVec 8) (o : BitVec 18) (a : Reg),
     (g.queue.length < 8 →
       QueuesBlock s g (.lrun c o) o.toNat (c.toNat + 1) ∧
       QueuesBlock s g (.lrunr c a) ((sreg g a).toNat % 2 ^ 18) (c.toNat + 1)) ∧
     (8 ≤ g.queue.length → exec (.lrun c o) s = .next s ∧ exec (.lrunr c a) s = .next s)) ∧
  (encodeScalar .nop = some 0x88000000 ∧ decodeScalar 0x88000000 = .ok .nop ∧
   ∀ (s : State) (g : Group), Running s g → GoesTo s g .nop (g.pc + 4))

/-! ### Mask triples -/

/-- R161: the mask functions read and write triples; a triple number above 61 traps 0x01. -/
def Obligations.MaskResults : Prop :=
  ∀ (s : State) (g : Group), Running s g → ∀ d a b : Reg,
    let lanes := (List.range 96).filter (laneBit g a)
    (a.toNat ≤ 61 →
      Yields s g (.many d a) d (if lanes = [] then 0 else 1) ∧
      Yields s g (.mcnt d a) d (BitVec.ofNat 64 lanes.length) ∧
      Yields s g (.mffs d a) d (BitVec.ofNat 64 (lanes.headD 96))) ∧
    (a.toNat ≤ 61 → d.toNat ≤ 61 →
      YieldsTriple s g (.mmov d a) d (fun i => laneBit g a i) ∧
      YieldsTriple s g (.mnot d a) d (fun i => !laneBit g a i)) ∧
    (d.toNat ≤ 61 →
      YieldsTriple s g (.mset d a b) d fun i =>
        decide ((sreg g a).toNat ≤ i) && decide (i < (sreg g b).toNat) && decide (i < 96)) ∧
    (61 < a.toNat → ∀ i ∈ [Instr.many d a, .mcnt d a, .mffs d a, .mmov d a, .mnot d a],
      exec i s = .next (trapScalar s g 0x01)) ∧
    (61 < d.toNat → ∀ i ∈ [Instr.mmov d a, .mnot d a, .mset d a b], exec i s = .next (trapScalar s g 0x01))

/-! ### Scalar accesses -/

/-- R155, R157, R260, R263: a load from s[sa] + sext(imm14) writes the bytes there, extended, to sd: of memory, or of the line
that its core's load cache holds, or of scratch; and an access that fails or is not aligned. When the cache holds a line is
the model's choice (log entry 9). -/
def Obligations.ScalarLoadResults : Prop :=
  ∀ (s : State) (g : Group), Running s g → ∀ (d a : Reg) (i : BitVec 14), ∀ f ∈ loadForms,
    let x := (sreg g a + i.signExtend 64).toNat
    let size := f.2.1
    let ag := agentOf g
    (x % size = 0 → ∀ s1 p, resolve s ag x .load = (s1, .ok (.mem p)) → cacheFind s ag.die ag.core false p = none →
      Loads s g (f.1 d a i) d (f.2.2 (Sparse.readLE s.mem p size))) ∧
    (x % size = 0 → ∀ s1 p l, resolve s ag x .load = (s1, .ok (.mem p)) → cacheFind s ag.die ag.core false p = some l →
      Loads s g (f.1 d a i) d (f.2.2 (Sparse.readLE l.bytes (p % 128) size))) ∧
    (x % size = 0 → ∀ s1 c o k, resolve s ag x .load = (s1, .ok (.scratch c o)) → cohort? s c = some k →
      Loads s g (f.1 d a i) d (f.2.2 (Sparse.readLE k.bytes o size))) ∧
    (x % size = 0 → ∀ s1 c, resolve s ag x .load = (s1, .fail c none) →
      FailsDeferred s g (f.1 d a i) d (scalarEntry x 0 size c)) ∧
    (x % size ≠ 0 → FailsDeferred s g (f.1 d a i) d (scalarEntry x 0 size 0x14))

/-- R156, R157, R271: a store writes the low bytes of s[sb] where s[sa] + sext(off14) leads, in memory or scratch, and nothing
else; one that a watchpoint of the group's own region takes leaves the group fault-pending with 0x21 too; one that fails has
no effect but the recorded access. -/
def Obligations.ScalarStoreEffects : Prop :=
  ∀ (s : State) (g : Group), Running s g → ∀ (a b : Reg) (o : BitVec 14), ∀ f ∈ storeForms,
    let x := (sreg g a + o.signExtend 64).toNat
    let size := f.2
    (x % size = 0 → ∀ s1 p, resolve s (agentOf g) x .store = (s1, .ok (.mem p)) → Unwatched s p size →
      ∃ t, exec (f.1 a b o) s = .next t ∧
        StoreDone s t g g p size fun k => (sreg g b).extractLsb' (8 * k) 8) ∧
    (x % size = 0 → ∀ s1 p r w, resolve s (agentOf g) x .store = (s1, .ok (.mem p)) →
      watchHits s (writerOf g 0) p size = [(r, w)] → r.part = g.part → r.id = g.region →
      let e : AccessEntry := ⟨w.va + BitVec.ofNat 64 (p - w.place), 0, 1, size, 0x21, 0⟩
      ∃ t, exec (f.1 a b o) s = .next t ∧
        StoreDone s t g { g with pend := withFault g.pend s.nextId e } p size fun k => (sreg g b).extractLsb' (8 * k) 8) ∧
    (x % size = 0 → ∀ s1 c q, resolve s (agentOf g) x .store = (s1, .ok (.scratch c q)) → (cohort? s c).isSome = true →
      let ws := [(Loc.scratch c q, natToBytes size (sreg g b).toNat)]
      ∃ t, exec (f.1 a b o) s = .next t ∧ ScalarWrote s t g { g with traces := tracesLeft ws g.traces } ws) ∧
    (x % size = 0 → ∀ s1 c, resolve s (agentOf g) x .store = (s1, .fail c none) →
      ∃ t, exec (f.1 a b o) s = .next t ∧
        AccessDone s t g { g with pend := withFault g.pend s.nextId (scalarEntry x 1 size c) } (g.pc + 4)) ∧
    (x % size ≠ 0 →
      ∃ t, exec (f.1 a b o) s = .next t ∧
        AccessDone s t g { g with pend := withFault g.pend s.nextId (scalarEntry x 1 size 0x14) } (g.pc + 4))

/-- R162, R163, R157, R260: an atomic at an aligned address that leads to memory or scratch writes its new value there and the
old one to sd; one whose address does not resolve, or lies in a window that takes no atomic, or is not aligned writes 0 to sd
and records the access; a scope of 6 or 7 traps 0x01. -/
def Obligations.ScalarAtomicEffects : Prop :=
  ∀ (s : State) (g : Group), Running s g → ∀ (d a b : Reg) (c : BitVec 3),
    let x := (sreg g a).toNat
    (∀ f ∈ amoForms,
      (c.toNat ≤ 5 → x % 8 = 0 → ∀ s1 p, resolve s (agentOf g) x .atomic = (s1, .ok (.mem p)) → Unwatched s p 8 →
        let old := BitVec.ofNat 64 (Sparse.readLE s.mem p 8)
        ∃ t g', exec (f.1 d a b c) s = .next t ∧ WroteScalar g g' d old ∧
          StoreDone s t g g' p (if (f.2 old (sreg g b) (sreg g d)).isSome then 8 else 0) fun k =>
            ((f.2 old (sreg g b) (sreg g d)).getD 0).extractLsb' (8 * k) 8) ∧
      (c.toNat ≤ 5 → x % 8 = 0 → chipNoAtomic x = false → ∀ s1 k q h,
        resolve s (agentOf g) x .atomic = (s1, .ok (.scratch k q)) → cohort? s k = some h →
        let old := BitVec.ofNat 64 (Sparse.readLE h.bytes q 8)
        let ws : List (Loc × List Byte) := match f.2 old (sreg g b) (sreg g d) with
          | some v => [(.scratch k q, natToBytes 8 v.toNat)]
          | none => []
        ∃ t g', exec (f.1 d a b c) s = .next t ∧ WroteScalar { g with traces := tracesLeft ws g.traces } g' d old ∧
          ScalarWrote s t g g' ws) ∧
      (c.toNat ≤ 5 → x % 8 = 0 → chipNoAtomic x = false → ∀ s1 k, resolve s (agentOf g) x .atomic = (s1, .fail k none) →
        FailsDeferred s g (f.1 d a b c) d (scalarEntry x 2 8 k)) ∧
      (c.toNat ≤ 5 → x % 8 = 0 → chipNoAtomic x = true →
        FailsDeferred s g (f.1 d a b c) d (scalarEntry x 2 8 0x12)) ∧
      (c.toNat ≤ 5 → x % 8 ≠ 0 → FailsDeferred s g (f.1 d a b c) d (scalarEntry x 2 8 0x14)) ∧
      (5 < c.toNat → exec (f.1 d a b c) s = .next (trapScalar s g 0x01))) ∧
    (c.toNat ≤ 5 → x % 4 = 0 → ∀ s1 p, resolve s (agentOf g) x .atomic = (s1, .ok (.mem p)) → Unwatched s p 4 →
      let old := Sparse.readLE s.mem p 4
      ∃ t g', exec (.amoFaddF32 d a b c) s = .next t ∧ WroteScalar g g' d (BitVec.ofNat 64 old) ∧
        StoreDone s t g g' p 4 fun k =>
          (BitVec.ofNat 32 (faddBits (fmtOf .f32) old ((sreg g b).toNat % 2 ^ 32))).extractLsb' (8 * k) 8) ∧
    (c.toNat ≤ 5 → x % 4 = 0 → chipNoAtomic x = false → ∀ s1 k q h,
      resolve s (agentOf g) x .atomic = (s1, .ok (.scratch k q)) → cohort? s k = some h →
      let old := Sparse.readLE h.bytes q 4
      let ws := [(Loc.scratch k q, natToBytes 4 (faddBits (fmtOf .f32) old ((sreg g b).toNat % 2 ^ 32)))]
      ∃ t g', exec (.amoFaddF32 d a b c) s = .next t ∧
        WroteScalar { g with traces := tracesLeft ws g.traces } g' d (BitVec.ofNat 64 old) ∧ ScalarWrote s t g g' ws) ∧
    (c.toNat ≤ 5 → x % 4 = 0 → chipNoAtomic x = false → ∀ s1 k, resolve s (agentOf g) x .atomic = (s1, .fail k none) →
      FailsDeferred s g (.amoFaddF32 d a b c) d (scalarEntry x 2 4 k)) ∧
    (c.toNat ≤ 5 → x % 4 = 0 → chipNoAtomic x = true →
      FailsDeferred s g (.amoFaddF32 d a b c) d (scalarEntry x 2 4 0x12)) ∧
    (c.toNat ≤ 5 → x % 4 ≠ 0 → FailsDeferred s g (.amoFaddF32 d a b c) d (scalarEntry x 2 4 0x14)) ∧
    (5 < c.toNat → exec (.amoFaddF32 d a b c) s = .next (trapScalar s g 0x01))

/-- R170, R260, R265, R267, R268: looking an address up for a group changes nothing but the translations held and the zeroing
begun; for a unit of the device it also hands over the fresh pages it meets, and so may change memory, their tags, cached
lines of them, and what groups that watch them wait for (that the page is handed over within the access is DESIGN CHOICE, log
entry 54).
R21, R130, R260: where an address lies in no window it fails with 0x12, and a misaligned one fails with 0x14 before the map is
looked at; s0 reads zero and a write of it is discarded. -/
def Obligations.AddressMap : Prop :=
  (∀ (s : State) (ag : Agent) (x : Nat) (acc : Acc),
     let r := resolve s ag x acc
     (ag.unit = false → r.1 = { s with tlb := r.1.tlb, zeroing := r.1.zeroing } ∧ (r.2 ≠ .wait → r.1.zeroing = s.zeroing)) ∧
     (∃ w : Group → Wait, r.1 = { s with
       mem := r.1.mem, owners := r.1.owners, cache := r.1.cache, tlb := r.1.tlb, zeroing := r.1.zeroing
       groups := s.groups.map fun g => { g with wait := w g } }) ∧
     (2 ^ 52 ≤ x → r.1 = s)) ∧
  ((∀ (s : State) (ag : Agent) (x size : Nat) (acc : Acc), x % size ≠ 0 →
     resolveAligned s ag x size acc = (s, .fail 0x14 none)) ∧
   (∀ (s : State) (ag : Agent) (x : Nat) (acc : Acc), 2 ^ 52 ≤ x → x / 2 ^ 32 ≠ 0xFFFFF000 → x / 2 ^ 40 ≠ 0xFFFFE0 →
     resolve s ag x acc = (s, .fail 0x12 none)) ∧
   (∀ (s : State) (ag : Agent) (x : Nat), 2 ^ 52 ≤ x → resolve s ag x .exec = (s, .fail 0x12 none)) ∧
   ∀ (s : State) (ag : Agent) (x : Nat), x < 0x10000 → ag.unit = false → resolve s ag x .exec = (s, .fail 0x12 none))

/-! ### Fences, waits and barriers -/

/-- R165, R263, R310: after every earlier lane word a fence retires: a memory fence drops the data lines of its core from .die
on, a code fence the code lines within its scope; a fence at .fab or .sys waits for peer packages first, for its own accesses
and for the stores of other groups that were sent before it; scopes above 5 trap 0x01. R310 has it wait for the stores that
the group has observed; that it waits for those of ALL other groups is the model's DESIGN CHOICE (log entry 63). -/
def Obligations.FenceEffects : Prop :=
  ∀ (s : State) (g : Group), Running s g → g.queue = [] → ∀ c : BitVec 6,
    (c.toNat ≤ 5 → (c.toNat < 4 ∨ NothingOut s g) →
      (∃ t g', exec (.fenceMem c) s = .next t ∧ t.cache = s.cache.filter (keptByAcquire g c.toNat) ∧
        OnlyGroup { s with cache := t.cache } t g.gid ∧ group? t g.gid = some g' ∧
        g' = { afterScalar g (g.pc + 4) g'.prov with fenced := decide (c.toNat = 3) }) ∧
      GoesTo s g (.fenceXlat c) (g.pc + 4) ∧
      (∃ t, exec (.fenceCode c) s = .next t ∧ CacheKept s t g g (g.pc + 4) (keptByCodeFence g c.toNat))) ∧
    (4 ≤ c.toNat → c.toNat ≤ 5 → ¬NothingOut s g →
      ∀ i ∈ [Instr.fenceMem c, .fenceXlat c, .fenceCode c], exec i s = .next (releaseHeld s g)) ∧
    (5 < c.toNat → ∀ i ∈ [Instr.fenceMem c, .fenceXlat c, .fenceCode c], exec i s = .next (trapScalar s g 0x01))

/-- R168, R178, R179: `xfence` waits for peer packages and traps on the first pending fault, else it retires; `bwait` and
`mwait` retire when the batches up to s[sa] are complete, and else leave the state as it is; after `bwait` no matrix command
of the group sees any more what was there before the copies of those batches (R236).
R170: a `wwait` on memory reads its word or dword at home; where the condition holds it retires as an acquire at its scope,
and else the group sleeps on the 128-byte line until it is written. A scope of 6 or 7 traps 0x01. -/
def Obligations.CompletionAndWordWaits : Prop :=
  (∀ (s : State) (g : Group), Running s g → g.queue = [] → ∀ a : Reg,
     (peersDone g = false → exec .xfence s = .next s) ∧
     (peersDone g = true → g.pend.entries = [] → GoesTo s g .xfence (g.pc + 4)) ∧
     (∀ e es, peersDone g = true → g.pend.entries = e :: es → exec .xfence s = .next (trapScalar s g e.cause)) ∧
     ((∀ c ∈ g.copies, c.batch ≠ 0 → batchCovered (g.wraps.testBit 3) g.copyBatch (sreg g a) c.batch = true →
         c.st ≠ .issued ∧ c.st ≠ .started) →
       let left := g.traces.filter fun x => !batchCovered (g.wraps.testBit 3) g.copyBatch (sreg g a) x.batch
       ∃ t, exec (.bwait a) s = .next t ∧ CacheKept s t g { g with traces := left } (g.pc + 4) (keptByAcquire g 2)) ∧
     ((∃ c ∈ g.copies, batchCovered (g.wraps.testBit 3) g.copyBatch (sreg g a) c.batch = true ∧ (c.st = .issued ∨ c.st = .started)) →
       exec (.bwait a) s = .next s) ∧
     ((∀ c ∈ g.cmds, batchCovered (g.wraps.testBit 1) g.cmdBatch (sreg g a) c.batch = true → c.st ≠ .queued ∧ c.st ≠ .started) →
       GoesTo s g (.mwait a) (g.pc + 4)) ∧
     ((∃ c ∈ g.cmds, batchCovered (g.wraps.testBit 1) g.cmdBatch (sreg g a) c.batch = true ∧ (c.st = .queued ∨ c.st = .started)) →
       exec (.mwait a) s = .next s)) ∧
  (∀ (s : State) (g : Group), Running s g → g.queue = [] → (∀ v, g.wait ≠ .done v) →
     ∀ (c : BitVec 3) (w : BitVec 1) (cond : BitVec 2) (a b : Reg),
     let size := if w = 1#1 then 8 else 4
     let x := (sreg g a).toNat
     (c.toNat ≤ 5 → (c.toNat < 4 ∨ NothingOut s g) → x % size = 0 →
       ∀ s1 p, resolve s (agentOf g) x .home = (s1, .ok (.mem p)) →
       let v := Sparse.readLE s.mem p size
       (waitHolds cond.toNat v ((sreg g b).toNat % 2 ^ (8 * size)) →
         ∃ t, exec (.wwait c w cond a b) s = .next t ∧ AccessDone s t g g (g.pc + 4)) ∧
       (¬waitHolds cond.toNat v ((sreg g b).toNat % 2 ^ (8 * size)) →
         ∃ t g', exec (.wwait c w cond a b) s = .next t ∧ group? t g.gid = some g' ∧ SameMemory s t ∧
           g' = { g with status := .waiting, wait := .word (.mem (p / 128 * 128)) })) ∧
     (5 < c.toNat → exec (.wwait c w cond a b) s = .next (trapScalar s g 0x01)))

/-- R169: an arrival that completes its generation of a barrier releases every group that arrived, begins a new generation and
goes on; any other sleeps, and is counted. The first arrival of a generation sets its count. -/
def Obligations.BarrierEffects : Prop :=
  ∀ (s : State) (g : Group), Running s g → g.queue = [] → peersDone g = true → g.pend.entries = [] →
    (∀ v, g.wait ≠ .done v) → ∀ (a b : Reg) (k : Cohort), b.toNat ≤ 15 → cohort? s g.cohort = some k →
    let here := (k.barArrived.filter fun x => x.1 == b.toNat).map fun x => x.2
    let count := (if here = [] then sreg g a else Sparse.get k.barCount b.toNat).toNat
    g.gid ∉ here →
    ((count ≤ 1 ∨ here.length + 1 = count) →
      ∃ t g' k', exec (.bar a b) s = .next t ∧ SameMemory s t ∧ group? t g.gid = some g' ∧
        g' = afterScalar g (g.pc + 4) g'.prov ∧ cohort? t k.id = some k' ∧
        (k'.barArrived.filter fun x => x.1 == b.toNat) = [] ∧
        ∀ n ∈ here, ∀ h, group? s n = some h → ∃ h', group? t n = some h' ∧ h'.status = .ready ∧ h'.wait = .done 0 ∧
          h'.pc = h.pc ∧ h'.scalars = h.scalars) ∧
    (1 < count → here.length + 1 ≠ count →
      ∃ t g' k', exec (.bar a b) s = .next t ∧ SameMemory s t ∧ group? t g.gid = some g' ∧
        g' = { g with status := .waiting, wait := .bar b.toNat } ∧ cohort? t k.id = some k' ∧
        (Sparse.get k'.barCount b.toNat).toNat = count ∧
        (k'.barArrived.filter fun x => x.1 == b.toNat).map (fun x => x.2) = here ++ [g.gid])

/-! ### Leaving, yielding, traps -/

/-- R171: with its faults taken, its commands over and the copies into its own registers and tiles over, `exit` retires and the
group ends: its slot, its registers and its image are given up, and its task counts it.
R131, R172: `lexit` takes the lanes of its triple out of the live lanes, and the activity mask keeps live lanes' bits alone.
R92, R173, R246: `yield` retires; where no other group can take the slot it changes nothing else, and where one can the
group has left the slot for its die's return list, or with matrix commands under way is marked to leave it when they are over. -/
def Obligations.LeavingAndYielding : Prop :=
  (∀ (s : State) (g : Group), Running s g → g.queue = [] → peersDone g = true →
     (g.pend.entries = [] → (∀ c ∈ g.cmds, c.st ≠ .queued ∧ c.st ≠ .started) →
       (∀ c ∈ g.copies, c.own = true → c.st ≠ .issued ∧ c.st ≠ .started) →
       ∃ t g', exec .exit s = .next t ∧ SameMemory s t ∧ group? t g.gid = some g' ∧ g'.status = .ended ∧
         g'.retiredS = g.retiredS + 1 ∧ g'.vregs = [] ∧ g'.tiles = [] ∧ g'.image = none ∧
         (∀ n, n ≠ g.gid → group? t n = group? s n) ∧
         ∀ k, task? s g.part g.task = some k → ∃ k', task? t g.part g.task = some k' ∧
           k' = { k with ended := k.ended ++ [g.index], floors := k'.floors, spans := k'.spans } ∧
           ∀ d c n, g.status = .bound d c n → k'.spans = k.spans ++ [(d * 192 + c, g.boundAt, s.clock)]) ∧
     ∀ e es, g.pend.entries = e :: es → exec .exit s = .next (trapScalar s g e.cause)) ∧
  (∀ (s : State) (g : Group), Running s g → g.queue = [] → ∀ a : Reg,
     (a.toNat ≤ 61 →
       ∃ t g', exec (.lexit a) s = .next t ∧ g' = { g with live := g'.live, scalars := g'.scalars, dirty := BitVec.allOnes 128 } ∧
         (∀ i < 96, g'.live.getLsbD i = (g.live.getLsbD i && !laneBit g a i)) ∧
         (∀ r : Reg, r.toNat < 61 → sreg g' r = sreg g r) ∧
         (∀ r : Reg, 61 ≤ r.toNat → ∀ j < 64, (sreg g' r).getLsbD j =
           ((sreg g r).getLsbD j && decide (j < 32) && g'.live.getLsbD (32 * (r.toNat - 61) + j))) ∧
         ScalarDone s t g g' (g.pc + 4)) ∧
     (61 < a.toNat → exec (.lexit a) s = .next (trapScalar s g 0x01))) ∧
  (∀ (s : State) (g : Group), Running s g → g.queue = [] → ∀ d c n, g.status = .bound d c n →
     ∃ s1 g1, ScalarDone s s1 g g (g.pc + 4) ∧ group? s1 g.gid = some g1 ∧
       (rotate s1 g1 d c n = none → exec .yield s = .next s1) ∧
       (∀ s2, rotate s1 g1 d c n = some s2 → cmdsDone g = true → exec .yield s = .next s2) ∧
       (∀ s2, rotate s1 g1 d c n = some s2 → cmdsDone g = false → exec .yield s = .next (putGroup s1 { g1 with rotating := true })))

/-- R174: `trap` takes the trap of cause 0x20 at its own scalar PC.
R371, R373, R374: taking a trap of the scalar stream. The group keeps its program counter, its registers and its retired
counts, its pending faults go into the body and are cleared, and it gives up its slot. With a handler entry in its fault
domain it is saved, with the body for the handler; without one it ends. It waits while a matrix command or an access to a peer
package is under way.
R374: the disposition in the first dword of the body's buffer lets the trapped group go on, or ends it; any other value leaves
everything as it is, but for a fresh page of the buffer that its look hands over (R267; DESIGN CHOICE, log entry 54). -/
def Obligations.TrapsAndReturn : Prop :=
  (∀ (s : State) (g : Group), Running s g → g.queue = [] → ∀ code : BitVec 12,
     exec (.trap code) s = .next (trapScalar s g 0x20)) ∧
  (∀ (s : State) (g : Group) (cause : Nat), group? s g.gid = some g →
     ((cmdsDone g = false ∨ peersDone g = false) → trapScalar s g cause = s) ∧
     (cmdsDone g = true → peersDone g = true → (∀ k, task? s g.part g.task = some k → k.handler = false) →
       ∀ dom buf handler, domainOf s g.part g.region = some (dom, buf, handler) →
       ∃ g', group? (trapScalar s g cause) g.gid = some g' ∧ g'.pc = g.pc ∧ g'.scalars = g.scalars ∧ g'.mode = g.mode ∧
         g'.retiredS = g.retiredS ∧ g'.retiredL = g.retiredL ∧ g'.pend = ⟨[], 0, [], 0, 0⟩ ∧
         bytesAt g'.body 8 1 = bodyCause g cause % 256 ∧ bytesAt g'.body 0x10 8 = g.pc.toNat ∧
         (handler ≠ 0 → g'.status = .trapped ∧ (g'.bodyState = .handling ∨ g'.bodyState = .waiting)) ∧
         (handler = 0 → g'.status = .ended))) ∧
  (∀ (s : State) (g : Group), group? s g.gid = some g → g.status = .trapped → g.bodyState = .handling →
     ∀ dom buf handler p, domainOf s g.part g.region = some (dom, buf, handler) → 
     let s0 := bufferReady s g.part buf
     bufferPlace s0 g.part buf .load = some p →
     (Sparse.readLE s0.mem p 8 = 0 →
       ∃ t g', exec (.handlerDisposition g.gid) s = .next t ∧ group? t g.gid = some g' ∧ g'.status = .ready ∧
         g'.pc = g.pc ∧ g'.scalars = g.scalars ∧ g'.vregs = g.vregs ∧ g'.bodyState = .none ∧ SameMemory s0 t) ∧
     (Sparse.readLE s0.mem p 8 = 2 ^ 64 - 1 →
       ∃ t g', exec (.handlerDisposition g.gid) s = .next t ∧ group? t g.gid = some g' ∧ g'.status = .ended ∧
         ∀ k, task? s g.part g.task = some k → ∃ k', task? t g.part g.task = some k' ∧ k'.faulted = true) ∧
     (Sparse.readLE s0.mem p 8 ≠ 0 → Sparse.readLE s0.mem p 8 ≠ 2 ^ 64 - 1 →
       exec (.handlerDisposition g.gid) s = .next s0))

/-! ### Special registers, launch -/

/-- R146, R175, R88, R388: `srd` reads the special registers of its group, of its task, slot, cohort and region, and the
region's counters with the group's own provisional counts; the core cycle count reads as the cycles of its core, which the
model takes as a free count of its own step clock (DESIGN CHOICE, log entry 6); a number that no row lists traps 0x01; the
operator's registers give an operator's group the records of its core's slots and the pre-emption registers of its die, and
are refused to any other group, which reads 0.
R144 to R147, R175, R88, R376, R8: `swr` writes the mode register, or traps 0x02 where bits that are kept zero are set or
a rounding code is above 5; it writes the seed register; any other register of a group refuses the write, as do the operator's
registers to any group without the operator's authority; a number that no row lists traps 0x01. An operator's group stages and
commits the records of its core's slots, begins a pre-emption or traps or waits, and writes the filter of its die, of which
the upper half stays zero. -/
def Obligations.SpecialRegisters : Prop :=
  (∀ (s : State) (g : Group), Running s g → g.queue = [] → ∀ d : Reg,
     (∀ p ∈ ownSpecials g, Yields s g (.srd d (BitVec.ofNat 12 p.1)) d p.2) ∧
     (∀ c k n, g.status = .bound c k n →
       Yields s g (.srd d 0x014#12) d (BitVec.ofNat 64 (Config.coreCycles s.clock (c * 192 + k)))) ∧
     (∀ c k n, g.status = .bound c k n → Yields s g (.srd d 0x007#12) d (BitVec.ofNat 64 c) ∧
       Yields s g (.srd d 0x008#12) d (BitVec.ofNat 64 k) ∧ Yields s g (.srd d 0x009#12) d (BitVec.ofNat 64 n)) ∧
     (∀ k, task? s g.part g.task = some k → Yields s g (.srd d 0x003#12) d (BitVec.ofNat 64 k.gx) ∧
       Yields s g (.srd d 0x004#12) d (BitVec.ofNat 64 k.gy) ∧ Yields s g (.srd d 0x005#12) d (BitVec.ofNat 64 k.gz) ∧
       Yields s g (.srd d 0x013#12) d k.laneBase) ∧
     (∀ k, cohort? s g.cohort = some k → Yields s g (.srd d 0x012#12) d (BitVec.ofNat 64 k.size)) ∧
     (∀ r, region? s g.part g.region = some r →
       let left := ((chain s g.part g.region).filter fun x => !regionFlag x 2).foldl (fun m x => Nat.min m (x.parkCap - x.parked)) 0xFFFF
       Yields s g (.srd d 0x017#12) d (BitVec.ofNat 64 (r.parked % 2 ^ 16 + 2 ^ 16 * left))) ∧
     Yields s g (.srd d 0x018#12) d (BitVec.ofNat 64
       ((if g.pend.entries = [] then 0 else 1) + 2 ^ 8 * g.pend.entries.length + 2 ^ 32 * g.pend.further)) ∧
     (∀ n < 256, Yields s g (.srd d (BitVec.ofNat 12 (0x100 + n))) d
       (counterOf s g.part g.region n + if n ≤ 0x0A then Sparse.get g.prov n else 0)) ∧
     (g.auth = 1 → ∀ c k n, g.status = .bound c k n →
       (∀ m < 32, Yields s g (.srd d (BitVec.ofNat 12 (0x800 + m))) d
         (BitVec.ofNat 64 (recordAt s c k (m / 2) / 2 ^ (64 * (m % 2)) % 2 ^ 64))) ∧
       Yields s g (.srd d 0x820#12) d (Sparse.get s.pre820 c) ∧ Yields s g (.srd d 0x821#12) d (Sparse.get s.pre821 c) ∧
       Yields s g (.srd d 0x822#12) d (Sparse.get s.pre822 c)) ∧
     (∀ n : BitVec 12, (0x01B ≤ n.toNat ∧ n.toNat < 0x100) ∨ (0x200 ≤ n.toNat ∧ n.toNat < 0x800) ∨ 0x823 ≤ n.toNat →
       exec (.srd d n) s = .next (trapScalar s g 0x01)) ∧
     (∀ n : BitVec 12, 0x800 ≤ n.toNat → n.toNat ≤ 0x822 → g.auth ≠ 1 →
       ∃ t g', exec (.srd d n) s = .next t ∧ group? t g.gid = some g' ∧ g'.pc = g.pc + 4 ∧ sreg g' d = 0 ∧
         g'.pend = withFault g.pend s.nextId ⟨g.pc, 0xFB, 5, 4, 0x13, 0⟩)) ∧
  (∀ (s : State) (g : Group), Running s g → g.queue = [] → ∀ d : Reg,
     let v := sreg g d
     let good := v.toNat < 2 ^ 44 ∧ ∀ k < 8, v.toNat / 2 ^ (4 * k) % 8 ≤ 5
     (good → ∃ t, exec (.swr d 0x010#12) s = .next t ∧ ScalarDone s t g { g with mode := v } (g.pc + 4)) ∧
     (¬good → exec (.swr d 0x010#12) s = .next (trapScalar s g 0x02)) ∧
     (∃ t, exec (.swr d 0x015#12) s = .next t ∧ ScalarDone s t g { g with seed := v } (g.pc + 4)) ∧
     (∀ n : BitVec 12, n.toNat ≤ 0x01A → n ≠ 0x010#12 → n ≠ 0x015#12 →
       ∃ t g', exec (.swr d n) s = .next t ∧ group? t g.gid = some g' ∧ g'.pc = g.pc + 4 ∧ g'.scalars = g.scalars ∧
         g'.mode = g.mode ∧ g'.seed = g.seed ∧ g'.pend = withFault g.pend s.nextId ⟨g.pc, 0xFB, 5, 4, 0x13, 0⟩) ∧
     (∀ n : BitVec 12, 0x800 ≤ n.toNat → n.toNat ≤ 0x822 → g.auth ≠ 1 →
       ∃ t g', exec (.swr d n) s = .next t ∧ group? t g.gid = some g' ∧ g'.pc = g.pc + 4 ∧ g'.scalars = g.scalars ∧
         g'.pend = withFault g.pend s.nextId ⟨g.pc, 0xFB, 5, 4, 0x13, 0⟩ ∧ t.records = s.records ∧ t.staged = s.staged ∧
         t.pre820 = s.pre820 ∧ t.pre821 = s.pre821 ∧ t.pre822 = s.pre822 ∧ t.preempts = s.preempts) ∧
     (∀ n : BitVec 12, (0x01B ≤ n.toNat ∧ n.toNat < 0x100) ∨ (0x200 ≤ n.toNat ∧ n.toNat < 0x800) ∨ 0x823 ≤ n.toNat →
       exec (.swr d n) s = .next (trapScalar s g 0x01)) ∧
     (g.auth = 1 → ∀ c k n, g.status = .bound c k n →
       (∀ m < 16, ∃ t, exec (.swr d (BitVec.ofNat 12 (0x801 + 2 * m))) s = .next t ∧
         ScalarDone { s with staged := t.staged } t g g (g.pc + 4) ∧
         ∀ j, Sparse.get t.staged j = if j = slotIx c k m then v else Sparse.get s.staged j) ∧
       (∀ m < 16, ∀ g1,
         let s1 := commitRecord s c k m (v.toNat + 2 ^ 64 * (Sparse.get s.staged (slotIx c k m)).toNat)
         group? s1 g.gid = some g1 →
         ∃ t, exec (.swr d (BitVec.ofNat 12 (0x800 + 2 * m))) s = .next t ∧ ScalarDone s1 t g1 g1 (g1.pc + 4)) ∧
       (191 < v.toNat / 2 ^ 4 % 2 ^ 8 ∨ 3 ≤ v.toNat / 2 ^ 19 % 8 → exec (.swr d 0x820#12) s = .next (trapScalar s g 0x01)) ∧
       (v.toNat / 2 ^ 4 % 2 ^ 8 ≤ 191 → v.toNat / 2 ^ 19 % 8 < 3 →
         (v.toNat / 2 ^ 15 % 2 ≠ 0 ∨ v.toNat / 2 ^ 25 % 2 ^ 7 ≠ 0 → exec (.swr d 0x820#12) s = .next (trapScalar s g 0x02)) ∧
         (v.toNat / 2 ^ 15 % 2 = 0 → v.toNat / 2 ^ 25 % 2 ^ 7 = 0 →
           (preBusy s c v.toNat = true → exec (.swr d 0x820#12) s = .next s) ∧
           (preBusy s c v.toNat = false → ∃ t q, exec (.swr d 0x820#12) s = .next t ∧
             ScalarDone { s with nextId := t.nextId, pre820 := t.pre820, pre822 := t.pre822, preempts := t.preempts } t g g (g.pc + 4) ∧
             (∀ j, Sparse.get t.pre820 j = if j = c then v else Sparse.get s.pre820 j) ∧
             (∀ j, Sparse.get t.pre822 j = if j = c then 1 else Sparse.get s.pre822 j) ∧
             t.preempts = s.preempts ++ [q] ∧ q.die = c ∧ q.value = v))) ∧
       (∃ t, exec (.swr d 0x821#12) s = .next t ∧ ScalarDone { s with pre821 := t.pre821 } t g g (g.pc + 4) ∧
         ∀ j, Sparse.get t.pre821 j = if j = c then v &&& 0xFFFFFFFF else Sparse.get s.pre821 j) ∧
       ∃ t g', exec (.swr d 0x822#12) s = .next t ∧ group? t g.gid = some g' ∧ g'.pc = g.pc + 4 ∧ t.pre822 = s.pre822 ∧
         g'.pend = withFault g.pend s.nextId ⟨g.pc, 0xFB, 5, 4, 0x13, 0⟩))

/-! ### The Creamline's instructions -/

/-- R310, R317, R337, R341, R342: `crel` and `cbar` send a message and go on with its sequence, once the stores to peers that
other groups had sent before have been acknowledged; `cacq` waits for a sequence to be applied and raises the group's stamp;
`cseq` reads the last sequence applied. A barrier above 15 traps 0x01. That `crel` and `cbar` wait for the stores of ALL other
groups is the model's DESIGN CHOICE (log entry 63); that a message names its stores by their positions too, beside the counts,
is DEDUCED (log entry 31). -/
def Obligations.CreamlineInstructions : Prop :=
  ∀ (s : State) (g : Group), Running s g → g.queue = [] → (∀ v, g.wait ≠ .done v) → ∀ d a b : Reg,
    let n := (sreg g a).toNat
    (1 < s.fabric.size → OthersOver s g → SendsMessage s g (.crel d) 1 0 0 .crel) ∧
    (¬OthersOver s g → exec (.crel d) s = .next (releaseHeld s g)) ∧
    (s.fabric.size ≤ 1 → OthersOver s g → s.fabric.queue = [] → isBound g = true → SequencedAtOnce s g (.crel d) d) ∧
    (n = 0 → GoesTo s g (.cacq a) (g.pc + 4)) ∧
    (0 < n → n ≤ s.fabric.applied → ∃ t, exec (.cacq a) s = .next t ∧
      CacheKept s t g { g with stamp := Nat.max g.stamp n } (g.pc + 4) (keptByAcquire g 4)) ∧
    (s.fabric.applied < n → ∃ t g', exec (.cacq a) s = .next t ∧ SameMemory s t ∧ group? t g.gid = some g' ∧
      g' = { g with status := .waiting, wait := .cacq n }) ∧
    Yields s g (.cseq d) d (BitVec.ofNat 64 s.fabric.applied) ∧
    (b.toNat ≤ 15 → peersDone g = true → g.pend.entries = [] → ¬OthersOver s g →
      exec (.cbar d a b) s = .next (releaseHeld s g)) ∧
    (b.toNat ≤ 15 → NothingOut s g → g.pend.entries = [] →
      (1 < s.fabric.size → SendsMessage s g (.cbar d a b) 2 b.toNat (n % 2 ^ 32) .cbar) ∧
      (s.fabric.size ≤ 1 → s.fabric.queue = [] → s.fabric.sent = [] → isBound g = true →
        (∀ x ∈ s.fabric.barriers, x.part = g.part → x.id = b.toNat → x.arrived = 0) → n ≤ 1 →
        SequencedAtOnce s g (.cbar d a b) d)) ∧
    (15 < b.toNat → exec (.cbar d a b) s = .next (trapScalar s g 0x01))

/-! ### Engine functions -/

/-- R233, R234: the matrix settings; a pair or a range of cores that is not allowed traps 0x01, a misaligned base, stride or
parameter address and a reserved bit 0x02, where the value is allowed otherwise (R120).
R239 to R244: `xm.mma` and `xm.sca` issue a command, wait while sixteen are unfinished, and trap where their checks fail or a
predecessor is not one of the latest ids; `xm.batch` seals what is not sealed yet. -/
def Obligations.MatrixSettingsAndIssue : Prop :=
  (∀ (s : State) (g : Group), Running s g → g.queue = [] → ∀ (d a b : Reg) (y : BitVec 1),
     let u := (sreg g a).toNat
     let v := (sreg g b).toNat
     (pairOf (u % 16) (u / 16 % 16) ≠ none → u < 256 → EngineDone s g (.xmFmt d a y) d y 0 fun g =>
       { g with mset := { g.mset with typeA := u % 16, typeB := u / 16 % 16 } }) ∧
     (pairOf (u % 16) (u / 16 % 16) = none → exec (.xmFmt d a y) s = .next (trapScalar s g 0x01)) ∧
     (pairOf (u % 16) (u / 16 % 16) ≠ none → 256 ≤ u → exec (.xmFmt d a y) s = .next (trapScalar s g 0x02)) ∧
     (u % 64 = 0 → v % 64 = 0 → EngineDone s g (.xmA d a b y) d y 0 fun g =>
       { g with mset := { g.mset with baseA := sreg g a, strideA := sreg g b } }) ∧
     (u % 64 = 0 → v % 64 = 0 → EngineDone s g (.xmB d a b y) d y 0 fun g =>
       { g with mset := { g.mset with baseB := sreg g a, strideB := sreg g b } }) ∧
     (u % 64 ≠ 0 ∨ v % 64 ≠ 0 → ∀ i ∈ [Instr.xmA d a b y, .xmB d a b y], exec i s = .next (trapScalar s g 0x02)) ∧
     (u < 4 → v % 64 = 0 → EngineDone s g (.xmGrp d a b y) d y 0 fun g =>
       { g with mset := { g.mset with grp := u, param := sreg g b } }) ∧
     (4 ≤ u ∨ v % 64 ≠ 0 → exec (.xmGrp d a b y) s = .next (trapScalar s g 0x02)) ∧
     (u < 128 → EngineDone s g (.xmTile d a y) d y 0 fun g =>
       { g with mset := { g.mset with tileD := u % 8, acc := u / 8 % 2 == 1, tileP := u / 16 } }) ∧
     (128 ≤ u → exec (.xmTile d a y) s = .next (trapScalar s g 0x02)) ∧
     (u % 256 ≤ u / 256 % 256 → u / 256 % 256 ≤ 191 → u < 2 ^ 18 → EngineDone s g (.xmMcast d a y) d y 0 fun g =>
       { g with mset := { g.mset with mcFirst := u % 256, mcLast := u / 256 % 256, mcOps := u / 2 ^ 16 } }) ∧
     (u / 256 % 256 < u % 256 ∨ 191 < u / 256 % 256 → exec (.xmMcast d a y) s = .next (trapScalar s g 0x01)) ∧
     (u % 256 ≤ u / 256 % 256 → u / 256 % 256 ≤ 191 → 2 ^ 18 ≤ u → exec (.xmMcast d a y) s = .next (trapScalar s g 0x02))) ∧
  (∀ (s : State) (g : Group), Running s g → g.queue = [] → ∀ (d a b : Reg) (y : BitVec 1),
     let busy := (g.cmds.filter cmdPending).length
     let preds := predOk g (sreg g a) = true ∧ predOk g (sreg g b) = true
     (busy < 16 → mmaCheck g = none → preds → IssuesCommand s g (.xmMma d a b y) d a b y false) ∧
     (busy < 16 → scaCheck g = none → preds → IssuesCommand s g (.xmSca d a b y) d a b y true) ∧
     (16 ≤ busy → exec (.xmMma d a b y) s = .next s ∧ exec (.xmSca d a b y) s = .next s) ∧
     (∀ c, busy < 16 → mmaCheck g = some c → exec (.xmMma d a b y) s = .next (trapScalar s g c)) ∧
     (∀ c, busy < 16 → scaCheck g = some c → exec (.xmSca d a b y) s = .next (trapScalar s g c)) ∧
     (busy < 16 → mmaCheck g = none → ¬preds → exec (.xmMma d a b y) s = .next (trapScalar s g 0x01)) ∧
     (busy < 16 → scaCheck g = none → ¬preds → exec (.xmSca d a b y) s = .next (trapScalar s g 0x01)) ∧
     EngineDone s g (.xmBatch d y) d y (BitVec.ofNat 64 (numberAfter g.cmdBatch)) fun g =>
       { g with
         cmdBatch := numberAfter g.cmdBatch
         wraps := if g.cmdBatch = 2 ^ 32 - 1 then g.wraps ||| 2 else g.wraps
         cmds := g.cmds.map fun c => if c.batch == 0 then { c with batch := numberAfter g.cmdBatch } else c })

/-- R285, R286: the copy settings; a shape out of range traps 0x01 and a completion address that is not a multiple of 8 traps
0x02.
R287 to R290, R292: `xc.go` and `xc.fill` issue a copy, wait while 32 are unfinished, and trap 0x01 without a shape; `xc.batch`
seals what is not sealed yet; `xc.query` with s0 counts the copies that are under way. -/
def Obligations.CopySettingsAndIssue : Prop :=
  (∀ (s : State) (g : Group), Running s g → g.queue = [] → ∀ (d a b : Reg) (q : BitVec 4) (y : BitVec 1),
     let u := (sreg g a).toNat
     let v := (sreg g b).toNat
     let inRange := 1 ≤ u ∧ u ≤ 1048576 ∧ 1 ≤ v ∧ v ≤ 65536
     (inRange → EngineDone s g (.xcShape d a b y) d y 0 fun g => { g with cset := { g.cset with rowBytes := u, rows := v } }) ∧
     (¬inRange → exec (.xcShape d a b y) s = .next (trapScalar s g 0x01)) ∧
     (EngineDone s g (.xcStride d a b y) d y 0 fun g =>
       { g with cset := { g.cset with srcStride := sreg g a, dstStride := sreg g b } }) ∧
     (u % 8 = 0 → EngineDone s g (.xcDone d a b y) d y 0 fun g =>
       { g with cset := { g.cset with doneAddr := sreg g a, doneValue := sreg g b } }) ∧
     (u % 8 ≠ 0 → exec (.xcDone d a b y) s = .next (trapScalar s g 0x02)) ∧
     (EngineDone s g (.xcPerm d q y) d y 0 fun g => { g with cset := { g.cset with permMode := 1, permReg := q.toNat } }) ∧
     (EngineDone s g (.xcPermSc d q y) d y 0 fun g => { g with cset := { g.cset with permMode := 2, permReg := q.toNat } }) ∧
     EngineDone s g (.xcPermOff d y) d y 0 fun g => { g with cset := { g.cset with permMode := 0, permReg := 0 } }) ∧
  (∀ (s : State) (g : Group), Running s g → g.queue = [] → ∀ (d a b : Reg) (y : BitVec 1),
     let busy := (g.copies.filter fun c => c.st == .issued || c.st == .started).length
     let shaped := g.cset.rowBytes ≠ 0 ∧ g.cset.rows ≠ 0
     (busy < 32 → shaped → g.cset.permMode = 0 → IssuesCopy s g (.xcGo d a b y) d y (sreg g a) (sreg g b) none) ∧
     (busy < 32 → shaped → IssuesCopy s g (.xcFill d a b y) d y 0 (sreg g b) (some (sreg g a))) ∧
     (32 ≤ busy → exec (.xcGo d a b y) s = .next s ∧ exec (.xcFill d a b y) s = .next s) ∧
     (busy < 32 → ¬shaped → ∀ i ∈ [Instr.xcGo d a b y, .xcFill d a b y], exec i s = .next (trapScalar s g 0x01)) ∧
     (EngineDone s g (.xcBatch d y) d y (BitVec.ofNat 64 (numberAfter g.copyBatch)) fun g =>
       { g with
         copyBatch := numberAfter g.copyBatch
         wraps := if g.copyBatch = 2 ^ 32 - 1 then g.wraps ||| 8 else g.wraps
         traces := g.traces.map fun x => if x.batch == 0 then { x with batch := numberAfter g.copyBatch } else x
         copies := g.copies.map fun c => if c.batch == 0 then { c with batch := numberAfter g.copyBatch } else c }) ∧
     (sreg g a = 0 → Yields s g (.xcQuery d a) d (BitVec.ofNat 64 busy)) ∧
     ∃ n, n ≤ 3 ∧ (sreg g a ≠ 0 → Yields s g (.xcQuery d a) d (BitVec.ofNat 64 n)))

/-! ### The Churn's functions, notices, the operator's functions -/

/-- R350, R353, R356, R359: the Churn's functions that read it, pin and unpin; `xe.reg` with s0 unregisters a table that
nothing uses.
R350, R351, R360: `xe.reg` registers a table whose descriptor and frame 0 are valid as version 1; `xe.grad` records the
submission of a replica's gradient. Each replies 0. -/
def Obligations.ChurnFunctions : Prop :=
  (∀ (s : State) (g : Group), Running s g → g.queue = [] → ∀ (d a b : Reg) (y : BitVec 1) (die core slot : Nat),
     g.status = .bound die core slot →
     let u := (sreg g a).toNat
     let k := (sreg g b).toNat
     let pinnedFree := peersDone g = true ∧ ∀ c ∈ g.copies, c.st ≠ .issued ∧ c.st ≠ .started
     (table? s g.part = none →
       Yields s g (.xeHeat d a b) d 0 ∧ (u ≤ 1 → Yields s g (.xeVer d a) d 0) ∧
       (a = 0#6 → Yields s g (.xeReg d a) d 0)) ∧
     (u = 2 → Yields s g (.xeVer d a) d (Sparse.get s.fabric.kind4 g.part)) ∧
     (u = 3 → Yields s g (.xeVer d a) d (BitVec.ofNat 64 ((Sparse.get s.churn1 g.part).toNat / 2 ^ 32))) ∧
     (∀ t, table? s g.part = some t →
       (u < t.experts → k < 8 →
         Yields s g (.xeHeat d a b) d (BitVec.ofNat 64 (Sparse.get t.lastHeat (k * 4096 + u)).toNat)) ∧
       (u = 0 → Yields s g (.xeVer d a) d (BitVec.ofNat 64 (Sparse.get t.dieVersion die).toNat)) ∧
       ((g.pinned = 0 ∨ pinnedFree) →
         ∃ t1 g', exec (.xePin d y) s = .next t1 ∧ t1.cache = s.cache.filter (keptByAcquire g 3) ∧
           g' = { g with pinned := BitVec.ofNat 64 (Sparse.get t.dieVersion die).toNat, scalars := g'.scalars } ∧
           (∀ r, sreg g' r = if y = 1#1 ∧ r = d then kept g.live d g'.pinned else sreg g r) ∧
           ScalarDone { s with cache := t1.cache } t1 g g' (g.pc + 4)) ∧
       (a = 0#6 → (∃ x ∈ s.groups, x.part = g.part ∧ x.pinned ≠ 0) → Yields s g (.xeReg d a) d 3) ∧
       (a = 0#6 → (∀ x ∈ s.groups, x.part = g.part → x.pinned = 0) → t.forwards = [] → t.grads = [] → t.uses = [] →
         ∃ s1, s1 = { s with tables := s.tables.filter fun x => x.part != g.part } ∧
           RepliesFrom s s1 g.gid (.xeReg d a) d 1#1 0)) ∧
     (pinnedFree → EngineDone s g (.xeUnpin d y) d y g.pinned fun g => { g with pinned := 0 }) ∧
     (¬pinnedFree → exec (.xeUnpin d y) s = .next s)) ∧
  (∀ (s : State) (g : Group), Running s g → g.queue = [] → ∀ (d a : Reg) (s1 : State) (bs : List Byte),
     let va := (sreg g a).toNat
     (a ≠ 0#6 → va % 64 = 0 → dataPieces g 64 4 s va = (s1, [], .ok bs) → group? s1 g.gid = some g → tableDescOk bs = true →
       ∀ s2 frame s3 pages, bytesAt bs 0 8 % 64 = 0 → dataPieces g 64 8192 s1 (bytesAt bs 0 8) = (s2, [], .ok frame) →
       areaPages { agentOf g with unit := true } 32 s2 (bytesAt bs 0 8) = (s3, some pages) → frame0Ok (bytesAt bs 8 4) frame = true → table? s3 g.part = none →
       ∃ n : Table, n.part = g.part ∧ n.experts = bytesAt bs 8 4 ∧ n.rowBytes = bytesAt bs 0xC 4 ∧
         n.slots = bytesAt bs 0x10 4 ∧ n.version = 1 ∧ n.area = bytesAt bs 0 8 ∧ n.pages = pages ∧ n.switch = none ∧
         (group? s3 g.gid ≠ none →
           RepliesFrom s { s3 with tables := s3.tables ++ [n] } g.gid (.xeReg d a) d 1#1 0)) ∧
     ((∀ p ∈ g.peers, p.reply ≠ none) → va % 8 = 0 → dataPieces g 8 8 s va = (s1, [], .ok bs) → gradOk bs = true →
       ∀ t, table? s1 g.part = some t → bytesAt bs 6 1 < (replicasOf t (bytesAt bs 0 4) (bytesAt bs 4 2)).length →
       t.submitted.contains (bytesAt bs 0 4, bytesAt bs 4 2, bytesAt bs 6 1) = false → (mergesOpen s1).length < 64 →
       group? s1 g.gid ≠ none →
       ∃ n : Grad, n.version = bytesAt bs 0 4 ∧ n.expert = bytesAt bs 4 2 ∧ n.replica = bytesAt bs 6 1 ∧
         RepliesFrom s (putTable s1 { t with
           submitted := t.submitted ++ [(n.version, n.expert, n.replica)]
           grads := t.grads ++ [n] }) g.gid (.xeGrad d a) d 1#1 0))

/-- R22, R381, R382: `xo.dirty` reads and clears the dirty bits of 64 pages of a partition that is SEALING; a page number that is no
multiple of 64 traps 0x01 and a partition number above 63 traps 0x02; an owner's use is refused and its destination receives 0.
R383, R384: `xo.seal` and `xo.ctx` accept a well-formed request for a partition that is SEALING, and reply 0; `xo.stop` begins
the partition's stop and sleeps, or replies with the number of contexts of a stop that is over. An owner's use is refused. -/
def Obligations.OperatorFunctions : Prop :=
  (∀ (s : State) (g : Group), Running s g → g.queue = [] → ∀ (d a b : Reg) (y : BitVec 1),
     let v := (sreg g a).toNat
     let n := (sreg g b).toNat
     (g.auth ≠ 1 → ∃ t g', exec (.xoDirty d a b y) s = .next t ∧ group? t g.gid = some g' ∧ g'.pc = g.pc + 4 ∧
       (y = 1#1 → sreg g' d = 0) ∧ g'.pend = withFault g.pend s.nextId ⟨g.pc, 0xFB, 5, 4, 0x13, 0⟩) ∧
     (g.auth = 1 → n % 64 ≠ 0 → exec (.xoDirty d a b y) s = .next (trapScalar s g 0x01)) ∧
     (g.auth = 1 → n % 64 = 0 → 64 ≤ v → exec (.xoDirty d a b y) s = .next (trapScalar s g 0x02)) ∧
     ∀ p, g.auth = 1 → n % 64 = 0 → v < 64 → part? s v = some p → p.st = .sealing →
       ∃ (s1 : State) (p' : Part) (bits : Nat), s1 = putPart s p' ∧ p' = { p with clean := p'.clean } ∧
         (∀ k < 64, bits.testBit k = (gpaOwned s p (n + k) && !p.clean.contains (n + k))) ∧
         (∀ m, m ∈ p'.clean ↔ m ∈ p.clean ∨ (n ≤ m ∧ m < n + 64 ∧ gpaOwned s p m = true)) ∧
         RepliesFrom s s1 g.gid (.xoDirty d a b y) d y (BitVec.ofNat 64 bits)) ∧
  (∀ (s : State) (g : Group), Running s g → g.queue = [] → (∀ v, g.wait ≠ .done v) → ∀ (d a : Reg) (y : BitVec 1),
     let v := (sreg g a).toNat
     (∀ i ∈ [Instr.xoSeal d a y, .xoCtx d a y, .xoStop d a y], g.auth ≠ 1 →
       ∃ t g', exec i s = .next t ∧ group? t g.gid = some g' ∧ g'.pc = g.pc + 4 ∧ (y = 1#1 → sreg g' d = 0) ∧
         g'.pend = withFault g.pend s.nextId ⟨g.pc, 0xFB, 5, 4, 0x13, 0⟩) ∧
     (∀ s1 bs p, g.auth = 1 → v % 64 = 0 → dataPieces g 64 1 s v = (s1, [], .ok bs) → part? s1 (bytesAt bs 0 1) = some p →
       p.st = .sealing → group? s1 g.gid ≠ none →
       ∃ j : SealJob, j.part = p.id ∧ j.kind = bytesAt bs 1 1 ∧ j.round = bytesAt bs 4 4 ∧ j.object = bytesAt bs 8 8 ∧
         j.dest = bytesAt bs 0x10 8 ∧
         (sealDescOk false bs = true →
           RepliesFrom s { s1 with nextId := s1.nextId + 1, seals := s1.seals ++ [j] } g.gid (.xoSeal d a y) d y 0) ∧
         (sealDescOk true bs = true → p.stopped = true → (bytesAt bs 1 1 = 4 ∨ bytesAt bs 8 8 < p.contexts.length) →
           RepliesFrom s { s1 with nextId := s1.nextId + 1, seals := s1.seals ++ [j] } g.gid (.xoCtx d a y) d y 0)) ∧
     (g.auth = 1 → 64 ≤ v → exec (.xoStop d a y) s = .next (trapScalar s g 0x02)) ∧
     ∀ p, g.auth = 1 → v < 64 → part? s v = some p → p.st = .sealing →
       (p.stopped = true → EngineDone s g (.xoStop d a y) d y (BitVec.ofNat 64 p.contexts.length) id) ∧
       (p.stopped = false → p.stopping = true → ∃ t g', exec (.xoStop d a y) s = .next t ∧ SameMemory s t ∧
         group? t g.gid = some g' ∧ g' = { g with status := .waiting, wait := .stop p.id }) ∧
       (p.stopped = false → p.stopping = false →
         ∃ t, exec (.xoStop d a y) s = .next t ∧ SameMemory s t ∧
           group? t g.gid = some { g with status := .waiting, wait := .stop p.id } ∧ part? t v = some { p with stopping := true }))

/-! ### Lane words -/

/-- R209 to R211, R216, R222: the lane functions of integers and of bits, element by element; `vmad` rounds its sum once, and
`vsel` picks the whole lane value by a bit of the triple that imm21[5:0] names. -/
def Obligations.LaneIntegerResults : Prop :=
  ∀ (s : State) (g : Group) (w : LaneOps),
    let t := w.dt
    let c := laneCtx g
    let one : RegUses := ⟨useOf t, useNone, useNone, useOf t⟩
    let two : RegUses := ⟨useOf t, useOf t, useNone, useOf t⟩
    let three : RegUses := ⟨useOf t, useOf t, useOf t, useOf t⟩
    (∀ f ∈ laneBinaryForms, LaneReady s g f.2.1 w two noTiles →
      LaneVector s g (f.1 w) w two t fun i =>
        lanewise t fun j => f.2.2 g.mode t (elem t (srcA c w t i) j) (elem t (srcB c w t i) j)) ∧
    (∀ f ∈ laneUnaryForms w, LaneReady s g f.2.1 w one noTiles →
      LaneVector s g (f.1 w) w one t fun i => lanewise t fun j => f.2.2 g.mode t (elem t (srcA c w t i) j)) ∧
    (LaneReady s g 0x04 w three noTiles → LaneVector s g (.vmad w) w three t fun i => lanewise t fun j =>
      narrowed g.mode t
        (intOf t (elem t (srcA c w t i) j) * intOf t (elem t (srcB c w t i) j) + intOf t (elem t (srcC c w t i) j))) ∧
    (LaneReady s g 0x14 w two noTiles → LaneVector s g (.vsel w) w two t fun i =>
      if (tripleIn c.sc (w.imm.toNat % 64)).testBit i then srcA c w t i else srcB c w t i)

/-- R212, R217, R227: `vcmp`, `vfcmp` and `vballot` write the bits of the active lanes that pass to the triple vd, and zero to
every other bit; a floating comparison raises invalid for any NaN under an ordering condition and for a signalling one under
the others. -/
def Obligations.LaneComparisonResults : Prop :=
  ∀ (s : State) (g : Group) (w : LaneOps),
    let t := w.dt
    let c := laneCtx g
    let two : RegUses := ⟨useOf t, useOf t, useNone, useNone⟩
    let one : RegUses := ⟨useOf t, useNone, useNone, useNone⟩
    let x (i j : Nat) : FVal := finput g.mode (fmtOf t) (elem t (srcA c w t i) j)
    let y (i j : Nat) : FVal := finput g.mode (fmtOf t) (elem t (srcB c w t i) j)
    let k := w.imm.toNat % 8
    (LaneReady s g 0x15 w two noTiles → LaneTriple s g (.vcmp w) w two (fun i =>
      decide (i < g.lanes) && c.active i && together w fun j =>
        intCompare k (intOf t (elem t (srcA c w t i) j)) (intOf t (elem t (srcB c w t i) j))) 0) ∧
    (LaneReady s g 0x3E w two noTiles → LaneTriple s g (.vfcmp w) w two (fun i =>
      decide (i < g.lanes) && c.active i && together w fun j => floatCond k (x i j) (y i j))
      (c.lanes.foldl (fun e i => (List.range (elemCount t)).foldl (fun e j => e ||| floatCondEx k (x i j) (y i j)) e) 0)) ∧
    (LaneReady s g 0x75 w one noTiles → LaneTriple s g (.vballot w) w one (fun i =>
      decide (i < g.lanes) && c.active i && srcA c w t i != 0) 0)

/-- R195, R197, R213 to R215: the floating lane functions, element by element, each rounded once as the word or the mode
register says, with the exceptions of their active lanes; an enabled exception traps. -/
def Obligations.LaneFloatResults : Prop :=
  ∀ (s : State) (g : Group) (w : LaneOps),
    let t := w.dt
    let c := laneCtx g
    let one : RegUses := ⟨useOf t, useNone, useNone, useOf t⟩
    let two : RegUses := ⟨useOf t, useOf t, useNone, useOf t⟩
    let three : RegUses := ⟨useOf t, useOf t, useOf t, useOf t⟩
    let x (i j : Nat) : FVal := finput g.mode (fmtOf t) (elem t (srcA c w t i) j)
    let y (i j : Nat) : FVal := finput g.mode (fmtOf t) (elem t (srcB c w t i) j)
    let z (i j : Nat) : FVal := finput g.mode (fmtOf t) (elem t (srcC c w t i) j)
    let each (f : Nat → FRes) : FRes := packRes t ((List.range (elemCount t)).map f)
    (∀ f ∈ floatBinaryForms, LaneReady s g f.2.1 w two noTiles →
      LaneRounded s g (f.1 w) w two t (draws g w t) fun i =>
        each fun j => f.2.2 (roundingOf g w t i j) (fmtOf t) (x i j) (y i j)) ∧
    (∀ f ∈ fusedForms, LaneReady s g f.2.1 w three noTiles →
      LaneRounded s g (f.1 w) w three t (draws g w t) fun i =>
        each fun j => fmaVal (roundingOf g w t i j) (fmtOf t) (if f.2.2.1 then fnegate (x i j) else x i j) (y i j)
          (if f.2.2.2 then fnegate (z i j) else z i j)) ∧
    (∀ f ∈ minMaxForms, LaneReady s g f.2.1 w two noTiles →
      LaneRounded s g (f.1 w) w two t false fun i =>
        each fun j => fminmax g.mode ⟨.rne, saturates g.mode t, flushesOut g.mode, 0⟩ (fmtOf t) f.2.2.1 f.2.2.2
          (elem t (srcA c w t i) j) (elem t (srcB c w t i) j)) ∧
    (∀ f ∈ floatUnaryForms, LaneReady s g f.2.1 w one noTiles →
      LaneRounded s g (f.1 w) w one t (f.2.2.1 && draws g w t) fun i =>
        each fun j => f.2.2.2 (roundingOf g w t i j) (fmtOf t) (x i j))

/-- R218 to R221: the converting lane functions: `vcvt` between types of one width element by element, else one element a lane;
`vpack` and `vqgrp` gather 2, 4 or 8 registers into the elements of one; `vunpk` spreads a packed word over as many registers. -/
def Obligations.LaneConversionResults : Prop :=
  ∀ (s : State) (g : Group) (w : LaneOps),
    let t := w.dt
    let c := laneCtx g
    let src := dtypeOf (w.imm.toNat % 16)
    let n := if dtypeWidth src = dtypeWidth t then elemCount src else 1
    let cvt : RegUses := ⟨useOf src, useNone, useNone, useOf t⟩
    let pack (k : Nat) : RegUses := ⟨useMany k, useOf .f32, useNone, useOf .i32⟩
    let unpk (k : Nat) : RegUses := ⟨useOf .i32, useOf .f32, if dtypeFloat t then useNone else useOf .i32, useMany k⟩
    let k := if t = .n4 then 8 else 4
    let grp : RegUses := ⟨useMany k, useOf .f32, useOf .i32, useOf .i32⟩
    (LaneReady s g 0x60 w cvt noTiles →
      LaneRounded s g (.vcvt w) w cvt t ((dtypeFloat src || dtypeFloat t) && draws g w t) fun i =>
        packRes t ((List.range n).map fun j => convElem c w.rs src t (i * 8 + j) (elem src (srcA c w src i) j))) ∧
    (∀ f ∈ [(Instr.vpack2, 0x61, 2), (.vpack4, 0x62, 4), (.vpack8, 0x63, 8)],
      LaneReady s g f.2.1 w (pack f.2.2) noTiles →
      LaneRounded s g (f.1 w) w (pack f.2.2) .i32 (draws g w t) fun i =>
        packRes t ((List.range f.2.2).map fun j =>
          let p := exactProduct (valueOf32 c src (manyLane c w j i)) (scaleLane c w i)
          let r := convVal (roundingOf g w t i j) t p.1
          ⟨r.bits, r.ex ||| p.2⟩)) ∧
    (∀ f ∈ [(Instr.vunpk2, 0x64, 2), (.vunpk4, 0x65, 4), (.vunpk8, 0x66, 8)],
      LaneReady s g f.2.1 w (unpk f.2.2) noTiles →
      let r (i j : Nat) : FRes := fmulVal (roundingOf g w .f32 i j) (fmtOf .f32)
        (unpackElem c w (packedLane c w i) (if dtypeFloat t then 0 else srcC c w .i32 i) j) (scaleLane c w i)
      LaneEffect s s g (f.1 w) w (lastRead w (unpk f.2.2))
        (fun d => if w.vd.toNat ≤ d ∧ d < w.vd.toNat + f.2.2 then some fun i => (r i (d - w.vd.toNat)).bits else none) id id
        (((List.range g.lanes).map fun i => if c.active i then (List.range f.2.2).map (r i) else []).foldl
          (fun e rs => e ||| exUnion rs) 0) (draws g w .f32)) ∧
    (LaneReady s g 0x67 w grp noTiles →
      LaneRounded s g (.vqgrp w) w grp .i32 (draws g w t) fun i =>
        packRes t ((List.range k).map fun j =>
          qgrpElem (roundingOf g w t i j) t (valueOf32 c .f32 (manyLane c w j i)) (scaleLane c w i) (intOf .i32 (srcC c w .i32 i))))

/-- R142, R223, R226, R228, R229: the lane functions that look at other lanes. -/
def Obligations.LaneCrossResults : Prop :=
  ∀ (s : State) (g : Group) (w : LaneOps),
    let t := w.dt
    let c := laneCtx g
    let one : RegUses := ⟨useOf t, useNone, useNone, useOf t⟩
    let idx : RegUses := ⟨useOf t, useIndex t, useNone, useOf t⟩
    let none_ : RegUses := ⟨useNone, useNone, useNone, useOf t⟩
    let pick (i : Nat) : Nat :=
      let k := srcB c w .n32 i
      if k < g.lanes ∧ c.isLive k = true then srcA c w t k else 0
    let key (i : Nat) : Nat := if w.imm.toNat.testBit 0 then numKey t (srcA c w t i) else srcA c w t i
    let sel := (List.range g.lanes).filter fun i => c.isLive i && (tripleIn c.sc (w.imm.toNat % 64)).testBit i
    (LaneReady s g 0x70 w idx noTiles → LaneVector s g (.vgath w) w idx t pick) ∧
    (LaneReady s g 0x71 w one noTiles → LaneVector s g (.vbcast w) w one t pick) ∧
    (LaneReady s g 0x74 w one noTiles → LaneVector s g (.vmatch w) w one t fun i =>
      let same := c.lanes.filter fun l => key l == key i
      if w.imm.toNat.testBit 1 then (same.filter fun l => decide (l < i)).length else same.headD i) ∧
    (LaneReady s g 0x76 w one noTiles → LaneVector s g (.vcompact w) w one t fun i =>
      match sel[c.lanes.idxOf i]? with
      | some l => srcA c w t l
      | none => 0) ∧
    (LaneReady s g 0x77 w one noTiles → LaneVector s g (.vexpand w) w one t fun i =>
      let k := sel.idxOf i
      if i ∈ sel then (if k < g.lanes ∧ c.isLive k = true then srcA c w t k else 0) else regValue c (dtypeWide t) w.vd.toNat i) ∧
    (LaneReady s g 0x78 w none_ noTiles → LaneVector s g (.vlaneid w) w none_ t fun i =>
      match w.imm.toNat % 4 with
      | 0 => i
      | 1 => (c.lanes.filter fun l => decide (l < i)).length
      | 2 => ((List.range g.lanes).filter fun l => c.isLive l && decide (l < i)).length
      | _ => c.count)

/-- R193, R203, R224, R225: a reduction is the balanced tree over 128 leaves in lane order, of which the inactive ones are
skipped; its result goes to every active lane, or to a scalar register under imm21[4]. A scan leaves in each active lane the
running value, or under imm21[3] the one before it. A floating input or result that is subnormal is flushed under its mode
bit, one that no operation has changed too (R193); a NaN that comes out is the default NaN, also one that no operation has
made (R196). That a minimum or maximum takes no draw is the model's reading (DEDUCED, log entry 48). -/
def Obligations.LaneReductionResults : Prop :=
  ∀ (s : State) (g : Group) (w : LaneOps),
    let t := w.dt
    let c := laneCtx g
    let op := w.imm.toNat % 8
    let f := redNode c w.rs t op
    let v (i : Nat) : Nat := if dtypeFloat t then inputBits g.mode (fmtOf t) (srcA c w t i) else srcA c w t i
    let result (r : FRes) : FRes :=
      if dtypeFloat t = true ∧ isNan (fdecode (fmtOf t) r.bits) = true then
        ⟨defaultNan (fmtOf t), r.ex ||| snan (fdecode (fmtOf t) r.bits)⟩
      else if dtypeFloat t then flushRes ⟨.rne, saturates g.mode t, flushesOut g.mode, 0⟩ (fmtOf t) r.bits r.ex else r
    let red := result ((redTree f ((List.range 128).map fun i =>
      if i < g.lanes ∧ c.active i = true then some ⟨v i, 0⟩ else none)).getD ⟨redIdentity t op, 0⟩)
    let ps := prefixes f result v (redIdentity t op) c.lanes
    let drawn := dtypeFloat t && op == 0 && draws g w t
    let one : RegUses := ⟨useOf t, useNone, useNone, useOf t⟩
    let scalar : RegUses := ⟨useOf t, useNone, useNone, useNone⟩
    (w.imm.toNat.testBit 4 = false → LaneReady s g 0x72 w one noTiles →
      LaneEffect s s g (.vred w) w (lastRead w one) (destOf t w.vd.toNat fun _ => red.bits) id id red.ex drawn) ∧
    (w.imm.toNat.testBit 4 = true → LaneReady s g 0x72 w scalar noTiles →
      ∃ file, (∀ m, ScalarFile g.live (w.vd.toNat % 64) (redScalar t red.bits) m (file m)) ∧
        LaneEffect s s g (.vred w) w (lastRead w scalar) noDest file id red.ex drawn) ∧
    (LaneReady s g 0x73 w one noTiles →
      LaneEffect s s g (.vscan w) w (lastRead w one) (destOf t w.vd.toNat fun i =>
        match ps.find? fun p => p.1 == i with
        | some p => if w.imm.toNat.testBit 3 then p.2.2 else p.2.1.bits
        | none => 0) id id (ps.foldl (fun e p => e ||| p.2.1.ex) 0) drawn)

/-- R120, R118, R136: a lane word that fails a check traps with that check's cause and changes nothing: an unassigned code, a
value not allowed, a field that must be zero, and for a word without tiles a register that the group has not declared (0x01),
an odd register of a 64-bit operand (0x0B), a dead source (0x03). -/
def Obligations.LaneChecksTrap : Prop :=
  (∀ (i : Instr) (op : Nat) (w : LaneOps), laneParts i = some (op, w) →
    ∀ (s : State) (g : Group), Running s g → ∀ e, laneCheck (rawLane op w) = some e →
      exec i s = .next (trapLane s g e.cause)) ∧
  ∀ (s : State) (g : Group) (w : LaneOps), Running s g → ∀ f ∈ laneBinaryForms, laneCheck (rawLane f.2.1 w) = none →
    ∀ e, regCheck g w ⟨useOf w.dt, useOf w.dt, useNone, useOf w.dt⟩ noTiles = some e →
      exec (f.1 w) s = .next (trapLane s g e)

/-! ### Lane accesses, permutations and tiles -/

/-- R273 to R275: the address of a lane, and the bytes that its access takes.
R275, R277, R279, R280: a lane load writes to each active lane the bytes at its address, a memory form of a signed type
extending its value by its sign; a lane that fails receives zero and is recorded; nothing else changes but held translations
and lines. `vprf` changes nothing. That `vldc` with a 64-bit type names its offset as a pair is the model's reading (DEDUCED,
log entry 49). -/
def Obligations.LaneAddressesAndLoads : Prop :=
  (∀ (c : LaneCtx) (w : LaneOps) (i : Nat),
     let disp : Int := (bits w.imm.toNat 5 16 : Int) - if bits w.imm.toNat 5 16 < 2 ^ 15 then 0 else 2 ^ 16
     let b32 := srcB c w .i32 i
     let b64 := srcB c w .n64 i
     (addrBase c w i : Int) = ((srcA c w .n64 i : Int) + (if b32 < 2 ^ 31 then (b32 : Int) else (b32 : Int) - 2 ^ 32) + disp) % 2 ^ 64 ∧
     (addrStride c w i : Int) =
       ((srcA c w .n64 i : Int) + i * (if b64 < 2 ^ 63 then (b64 : Int) else (b64 : Int) - 2 ^ 64) + disp) % 2 ^ 64 ∧
     (addrWindow c w i : Int) = 0xFFFFF00000000000 + ((srcA c w .n32 i : Int) + srcB c w .n32 i + disp) % 2 ^ 32 ∧
     addrAmo c w i = srcA c w .n64 i ∧ addrAmoc c w i = 0xFFFFF00000000000 + srcA c w .n32 i ∧
     accessSize w = (if w.imm.toNat.testBit 4 then dtypeWidth w.dt / 8 else if dtypeWide w.dt then 8 else 4)) ∧
  (∀ (s : State) (g : Group) (w : LaneOps),
     let c := laneCtx g
     let t := w.dt
     let size := accessSize w
     (∀ f ∈ laneLoadForms w, LaneReady s g f.2.1 w f.2.2.1 noTiles →
       let rs := (resolveLanes (fun s x => resolveAligned s (agentOf g) x size .load) s
         (c.lanes.map fun i => (i, f.2.2.2 c i))).2
       (∀ r ∈ rs, foundHere s r.2.2 = true) →
       let value (i : Nat) : Nat := match rs.find? fun r => r.1 == i with
         | some r => laneRead s g size r.2.2
         | none => 0
       ∃ u g', exec (f.1 w) s = .next u ∧
         LaneDone { s with tlb := u.tlb, cache := u.cache } u g g' c.count
           (fun r => (destOf t w.vd.toNat id r).isSome) [] ∧
         g' = { g with vregs := g'.vregs, dirty := g'.dirty, pend := withFaults g.pend s.nextId 0 size rs } ∧
         VectorsAfter g g' w (lastRead w f.2.2.1) (destOf t w.vd.toNat fun i =>
           if w.imm.toNat.testBit 4 && dtypeSigned t then extended t (value i)
           else value i)) ∧
     (let u : RegUses := ⟨⟨2, true⟩, useIndex t, useNone, useNone⟩
      LaneReady s g 0x98 w u noTiles →
        LaneEffect s s g (.vprf w) w (lastRead w u) noDest id id 0 false))

/-- R278, R280: a lane store writes the low bytes of each active lane's source C where its address leads, in ascending lane
order, and nothing else; a lane that fails is recorded. That `vstc` with a 64-bit type names its offset as a pair is the
model's reading (DEDUCED, log entry 49). -/
def Obligations.LaneStoreEffects : Prop :=
  ∀ (s : State) (g : Group) (w : LaneOps),
    let c := laneCtx g
    let size := accessSize w
    ∀ f ∈ laneStoreForms w, LaneReady s g f.2.1 w f.2.2.1 noTiles →
      let rs := (resolveLanes (fun s x => resolveAligned s (agentOf g) x size .store) s
        (c.lanes.map fun i => (i, f.2.2.2 c i))).2
      (∀ r ∈ rs, foundWritable s size r.2.2 = true) →
      let ws := rs.filterMap fun r =>
        match r.2.2 with
        | .ok l => some (l, natToBytes size (srcC c w w.dt r.1))
        | _ => none
      ∃ t g', exec (f.1 w) s = .next t ∧ LaneWrote s t g g' c.count (fun _ => false) ws ∧
        g' = { g with
          vregs := g'.vregs, pend := withFaults g.pend s.nextId 1 size rs, traces := tracesLeft ws g.traces } ∧
        VectorsAfter g g' w (lastRead w f.2.2.1) noDest

/-- R204, R283, R284, R280: of the lanes of one address each active lane of a lane atomic fetches the value that the lanes below it
leave there, the operands below it folded first, and the place holds the value with all of them; compare-and-swaps go one by one in
ascending order. Distinct addresses lead here to places that do not overlap; a lane that fails receives zero and is recorded. That
`vamoc` with a 64-bit type names its offset as a pair is the model's reading (DEDUCED, log entry 49). -/
def Obligations.LaneAtomicEffects : Prop :=
  ∀ (s : State) (g : Group) (w : LaneOps),
    let c := laneCtx g
    let t := w.dt
    let op := bits w.imm.toNat 4 5
    let size := dtypeWidth t / 8
    let v (i : Nat) : Nat := srcB c w t i % 2 ^ (8 * size)
    let cmp (i : Nat) : Nat := srcC c w t i % 2 ^ (8 * size)
    ∀ f ∈ laneAmoForms w, LaneReady s g f.2.1 w f.2.2.1 noTiles →
      let addr (i : Nat) : Nat := f.2.2.2 c i
      let rs := (resolveLanes (fun s x => resolveAtomic s (agentOf g) x size) s (c.lanes.map fun i => (i, addr i))).2
      (∀ r ∈ rs, foundWritable s size r.2.2 = true) →
      (∀ r ∈ rs, ∀ q ∈ rs, r.2.1 ≠ q.2.1 → ∀ k l, r.2.2 = .ok k → q.2.2 = .ok l → ∀ a, (offsetIn k size a).isSome = true →
        offsetIn l size a = none) →
      (∀ r ∈ rs, ∀ q ∈ rs, r.2.1 = q.2.1 → r.2.2 = q.2.2) →
      let same (i : Nat) : List Nat := c.lanes.filter fun l => addr l == addr i
      let before (i : Nat) : List Nat := (same i).filter fun l => decide (l < i)
      let old (l : Loc) : Nat := bytesToNat (readBytes s l size)
      let fetch (l : Loc) (i : Nat) : Nat :=
        if op = 9 then casFold (old l) ((before i).map fun k => (v k, cmp k))
        else if before i = [] then old l else amoNew op size (old l) (amoFold op size ((before i).map v)) 0
      let ws := rs.filterMap fun r =>
        match r.2.2 with
        | .ok l =>
          if op = 9 then (if fetch l r.1 = cmp r.1 then some (l, natToBytes size (v r.1)) else none)
          else if before r.1 = [] then
            some (l, natToBytes size (amoNew op size (old l) (amoFold op size ((same r.1).map v)) 0))
          else none
        | _ => none
      ∃ u g', exec (f.1 w) s = .next u ∧
        LaneWrote s u g g' c.count (fun r => (destOf t w.vd.toNat id r).isSome) ws ∧
        g' = { g with
          vregs := g'.vregs, dirty := g'.dirty, pend := withFaults g.pend s.nextId 2 size rs
          traces := tracesLeft ws g.traces } ∧
        VectorsAfter g g' w (lastRead w f.2.2.1) (destOf t w.vd.toNat fun i =>
          match rs.find? fun r => r.1 == i with
          | some r => (match r.2.2 with
            | .ok l => fetch l i
            | _ => 0)
          | none => 0)

/-- R250 to R257: the permutation words: a vector of bytes is checked and loaded, or traps 0x09 or 0x0A; the identity, a product, an
inverse, a power and a random shuffle; the bytes and the facts of a permutation; and a gather by it, which waits for its route
solve. -/
def Obligations.PermutationResults : Prop :=
  ∀ (s : State) (g : Group) (w : LaneOps),
    let t := w.dt
    let c := laneCtx g
    let one : RegUses := ⟨useOf t, useNone, useNone, useNone⟩
    let res : RegUses := ⟨useNone, useNone, useNone, useOf t⟩
    let both : RegUses := ⟨useOf t, useNone, useNone, useOf t⟩
    let none_ : RegUses := ⟨useNone, useNone, useNone, useNone⟩
    let a := permOf g (w.imm.toNat % 16)
    let b := permOf g (w.imm.toNat / 16 % 16)
    let at_ (q : Perm) (i : Nat) : Nat := if i < q.items.length then q.items.getD i 0 else i
    let n (x : LaneSrc) : Nat := qSize c x
    let vec (i : Nat) : Nat := srcA c w .n32 (i / 4) / 2 ^ (8 * (i % 4)) % 256
    let bijective (m : Nat) : Prop := ∀ j < m, ∃ i < m, vec i = j
    (LaneReady s g 0xB0 w one noTiles →
      (2 ≤ n w.b → n w.b ≤ 128 → bijective (n w.b) → LanePerm s g (.qld w) w one (madePerm (n w.b) vec) false) ∧
      (2 ≤ n w.b → n w.b ≤ 128 → ¬bijective (n w.b) → exec (.qld w) s = .next (trapLane s g 0x09)) ∧
      (¬(2 ≤ n w.b ∧ n w.b ≤ 128) → exec (.qld w) s = .next (trapLane s g 0x0A))) ∧
    (LaneReady s g 0xB1 w one noTiles →
      (2 ≤ n w.b → n w.b ≤ 128 → bijective (n w.b) → LaneScalar s g (.qldt w) w one 0) ∧
      (2 ≤ n w.b → n w.b ≤ 128 → ¬bijective (n w.b) → LaneScalar s g (.qldt w) w one 1) ∧
      (¬(2 ≤ n w.b ∧ n w.b ≤ 128) → LaneScalar s g (.qldt w) w one 2)) ∧
    (LaneReady s g 0xB2 w res noTiles → LaneVector s g (.qst w) w res t fun l =>
      if l < 32 then at_ a (4 * l) + 2 ^ 8 * at_ a (4 * l + 1) + 2 ^ 16 * at_ a (4 * l + 2) + 2 ^ 24 * at_ a (4 * l + 3)
      else if l = 32 then a.size else 0) ∧
    (LaneReady s g 0xB3 w none_ noTiles →
      (2 ≤ n w.a → n w.a ≤ 128 → LanePerm s g (.qid w) w none_ (madePerm (n w.a) id) false) ∧
      (¬(2 ≤ n w.a ∧ n w.a ≤ 128) → exec (.qid w) s = .next (trapLane s g 0x0A))) ∧
    (LaneReady s g 0xB4 w none_ noTiles →
      LanePerm s g (.qcomp w) w none_ (madePerm (max a.size b.size) fun i => at_ a (at_ b i)) false) ∧
    (LaneReady s g 0xB5 w none_ noTiles → LanePerm s g (.qinv w) w none_ (madePerm a.size fun i => a.items.idxOf i) false) ∧
    (LaneReady s g 0xB6 w none_ noTiles →
      let k := (sregIn c.sc (w.a.field.toNat % 64)).toInt
      LanePerm s g (.qpow w) w none_ (madePerm a.size fun i =>
        iterate (at_ a) (k % ((cycleOf a i).length : Int)).toNat i) false) ∧
    (LaneReady s g 0xB7 w none_ noTiles →
      (2 ≤ n w.a → n w.a ≤ 128 → LanePerm s g (.qrand w) w none_
        (madePerm (n w.a) fun i => (shuffle g.seed (n w.a - 1) (List.range (n w.a))).getD i 0) true) ∧
      (¬(2 ≤ n w.a ∧ n w.a ≤ 128) → exec (.qrand w) s = .next (trapLane s g 0x0A))) ∧
    (LaneReady s g 0xB8 w none_ noTiles → LaneScalar s g (.qcyc w) w none_
      (cycleFact a (w.imm.toNat / 256 % 8) (sregIn c.sc (w.a.field.toNat % 64)).toNat)) ∧
    (LaneReady s g 0xB9 w both noTiles →
      (a.solving = true → exec (.qapp w) s = .next s) ∧
      (a.solving = false → LaneVector s g (.qapp w) w both t fun i =>
        let k := if w.imm.toNat.testBit 11 then (if i < a.size then a.items.idxOf i else i) else at_ a i
        if k < g.lanes ∧ c.isLive k = true then srcA c w t k else 0))

/-- R231, R248, R249: the tile words, which wait for the matrix commands that use their tiles: an element read by each active
lane, zero past the tile's end; the elements written, by the highest lane that names one; the tiles parked under a handle of
their own in the package's store, within the region's caps (0x22) and the store's 4,096 tiles (0x23), and cleared; and
unparked by their handle, or trap 0x01. -/
def Obligations.TileResults : Prop :=
  ∀ (s : State) (g : Group) (w : LaneOps),
    let t := w.dt
    let c := laneCtx g
    let ts := tilesOf w
    let read : RegUses := ⟨useIndex t, useNone, useNone, useOf t⟩
    let write : RegUses := ⟨useOf t, useIndex t, useNone, useNone⟩
    let none_ : RegUses := ⟨useNone, useNone, useNone, useNone⟩
    let nums := tileNumbers w
    let word (k e : Nat) : Nat := (Sparse.get (g.tiles.getD (w.imm.toNat % 8 + k) []) e).toNat
    let place (x : Nat → Nat) (i : Nat) : Nat := x i + if w.imm.toNat.testBit 3 then i else 0
    let h := (sregIn c.sc (w.a.field.toNat % 64)).toNat
    (LaneReady s g 0xC0 w read ts →
      (tileBusy g nums false = true → exec (.vacrd w) s = .next s) ∧
      (tileBusy g nums false = false → LaneVector s g (.vacrd w) w read t fun i =>
        let e := place (srcA c w .n32) i
        if e < 4096 then word 0 e + if dtypeWide t then 2 ^ 32 * word 1 e else 0 else 0)) ∧
    (LaneReady s g 0xC1 w write ts →
      (tileBusy g nums true = true → exec (.vacwr w) s = .next s) ∧
      (tileBusy g nums true = false → ∃ tiles : List (Sparse 32),
        (tiles.length = g.tiles.length ∧ ∀ k < tiles.length, ∀ e, Sparse.get (tiles.getD k []) e =
          match (c.lanes.filter fun i => place (srcB c w .n32) i == e && decide (e < 4096)).getLast?, k - w.imm.toNat % 8 with
          | some i, 0 => if k ∈ nums then BitVec.ofNat 32 (srcA c w t i) else Sparse.get (g.tiles.getD k []) e
          | some i, _ => if k ∈ nums then BitVec.ofNat 32 (srcA c w t i / 2 ^ 32) else Sparse.get (g.tiles.getD k []) e
          | none, _ => Sparse.get (g.tiles.getD k []) e) ∧
        LaneEffect s s g (.vacwr w) w (lastRead w write) noDest id (fun g => { g with tiles := tiles }) 0 false nums)) ∧
    (LaneReady s g 0xC2 w none_ ts →
      let caps := withinCaps (chain s g.part g.region) (fun r => r.parked) (fun r => r.parkCap) nums.length
      let stored := (s.parks.map fun p => p.tiles.length).sum
      (tileBusy g nums true = true → exec (.vpark w) s = .next s) ∧
      (tileBusy g nums true = false → caps = false → exec (.vpark w) s = .next (trapLane s g 0x22)) ∧
      (tileBusy g nums true = false → caps = true → 4096 < stored + nums.length → exec (.vpark w) s = .next (trapLane s g 0x23)) ∧
      (tileBusy g nums true = false → caps = true → stored + nums.length ≤ 4096 → (∀ p ∈ s.parks, 1 ≤ p.tiles.length) →
        ∃ (handle : Nat) (file : Sparse 64 → Sparse 64) (s1 : State),
          0 < handle ∧ handle < 2 ^ 32 ∧ (∀ p ∈ s.parks, p.handle ≠ handle) ∧
          (∀ m, ScalarFile g.live (w.vd.toNat % 64) (BitVec.ofNat 64 handle) m (file m)) ∧
          s1 = { chargeUp s g.part g.region (fun r => { r with parked := r.parked + nums.length }) with
            nextId := s.nextId + 1,
            parks := s.parks ++ [⟨handle, g.part, g.region, nums.map fun k => g.tiles.getD k []⟩] } ∧
          LaneEffect s s1 g (.vpark w) w [] noDest file
            (fun g => { g with tiles := nums.foldl (fun l k => listSet l k []) g.tiles }) 0 false nums)) ∧
    (LaneReady s g 0xC3 w none_ ts →
      let found := s.parks.find? fun p => p.handle == h && p.part == g.part && p.region == g.region
      (tileBusy g nums true = true → exec (.vunpark w) s = .next s) ∧
      (tileBusy g nums true = false → found = none → exec (.vunpark w) s = .next (trapLane s g 0x01)) ∧
      (∀ p, tileBusy g nums true = false → found = some p → p.tiles.length ≠ nums.length →
        exec (.vunpark w) s = .next (trapLane s g 0x01)) ∧
      (∀ p, tileBusy g nums true = false → found = some p → p.tiles.length = nums.length →
        LaneEffect s
          { chargeUp s g.part g.region (fun r => { r with parked := r.parked - nums.length }) with parks := s.parks.filter fun x => x != p }
          g (.vunpark w) w [] noDest id
          (fun g => { g with tiles := (nums.zip p.tiles).foldl (fun l x => listSet l x.1 x.2) g.tiles }) 0 false nums))

/-! ### Steps of a group's engines -/

/-- R243, R244, R236: a queued matrix command whose predecessors are over and whose tiles are free starts where no other group
of its core comes first; one with a failed predecessor is cancelled; a started one reads its operand rows one by one, and
keeps their bytes and the entries of those that failed; R170, R239, R386: when it has read them all it completes: its tiles
are written, groups that sleep on one are woken, the work is counted, failed rows become pending faults. R257: a route solve
completes. That one row is read in one step, and that the tiles are computed and written in one step, is the model's DESIGN
CHOICE (log entry 3); what a row sees of the group's own copies is a free value (log entry 66). -/
def Obligations.MatrixSteps : Prop :=
  ∀ (s : State) (gid id q : Nat) (g : Group), group? s gid = some g →
    Becomes s (.routeSolveComplete gid q) gid
      { g with perms := listSet g.perms q { permOf g q with solving := false } } ∧
    ∀ c, (g.cmds.find? fun c => c.id == id) = some c →
      let put (c' : Command) : List Command := g.cmds.map fun x => if x.id == id then c' else x
      (c.st = .queued → c.preds.any (predPending g) = false → c.preds.any (predFailed g) = true →
        Becomes s (.matrixCommandStart gid id) gid { g with cmds := put { c with st := .cancelled } }) ∧
      (c.st = .queued → c.preds.any (predPending g) = false → c.preds.any (predFailed g) = false → tileWait g c = false →
        (∀ h ∈ s.groups, h.gid ≠ gid → keyBefore h g = true → isBound h = true → isBound g = true →
          (agentOf h).die = (agentOf g).die → (agentOf h).core = (agentOf g).core → ∀ x ∈ h.cmds, canStart h x = false) →
        Becomes s (.matrixCommandStart gid id) gid { g with cmds := put { c with st := .started } }) ∧
      (c.st = .started → c.rows.length < cmdRowCount c →
        let a := cmdRow c c.rows.length
        let r := operandBytes s g a.1 a.2
        (∀ e, r.2 = some e → e.2 = none) →
        ∃ t, exec (.matrixCommandStart gid id) s = .next t ∧ t = { s with groups := t.groups, nextId := s.nextId + 1 } ∧
          group? t gid = some { g with cmds := put { c with
            rows := c.rows ++ [r.1], faults := match r.2 with
              | some e => c.faults ++ [e.1]
              | none => c.faults } } ∧
          ∀ n, n ≠ gid → group? t n = group? s n) ∧
      (c.st = .started → cmdRowCount c ≤ c.rows.length →
        let out := cmdTiles g c
        let written := out.map fun r => r.1
        ∃ t g', exec (.matrixCommandComplete gid id) s = .next t ∧ t = { s with groups := t.groups, regions := t.regions } ∧
          Counted s t g (matrixWork c) ∧ (∀ n, n ≠ gid → group? t n = (group? s n).map (wokenByRegs gid (fun _ => false) written)) ∧
          group? t gid = some (wokenByRegs gid (fun _ => false) written g') ∧
          ProvisionalCounts s g (matrixWork c) g'.prov ∧
          g' = { g with
            tiles := out.foldl (fun l r => listSet l r.1 r.2) g.tiles
            pend := c.faults.foldl (fun p e => withFault p s.nextId e) g.pend
            cmds := if c.faults = [] then g.cmds.filter fun x => x.id != id else put { c with st := .faulted, rows := [], faults := [] }
            prov := g'.prov })

/-- R270, R287, R288, R291, R292, R304: an issued copy starts where no other group's comes first on its core; a started one
performs one row: its bytes go from source to destination, are counted, and are done; a failing unit stops it where it fails.
A copy with all its bytes done stores its completion word and is over; a stopped one leaves its failure pending in its group,
and in the image of a saved group that has not trapped (R369). That one row is read and written in one step is the model's
DESIGN CHOICE (log entry 3). -/
def Obligations.CopySteps : Prop :=
  ∀ (s : State) (gid num : Nat) (g : Group) (c : Copy), group? s gid = some g → copy? g num = some c →
    let n := c.set.rowBytes
    let rr := copyRows c (c.bytes / n)
    let src := copySource s g c rr.1
    let dst := rowLook g c src.s (rowPieces (c.dst + BitVec.ofNat 64 rr.2 * c.set.dstStride) n)
    let put (c' : Copy) : Group := { g with copies := g.copies.map fun x => if x.num == num then c' else x }
    let x := c.set.doneAddr.toNat
    let value := natToBytes 8 c.set.doneValue.toNat
    let ended : Group := { g with copies := g.copies.filter fun x => x.num != num }
    (c.st = .issued → c.fault = none →
      (∀ h ∈ s.groups, h.gid ≠ gid → keyBefore h g = true → ∀ y ∈ h.copies, y.st = .issued → ¬(y.die = c.die ∧ y.core = c.core)) →
      Becomes s (.copyStart gid num) gid (put { c with st := .started })) ∧
    (c.st = .started → c.fault = none → c.bytes < n * c.set.rows →
      src.fail = none → src.wait = false → src.asks = [] → dst.fail = none → dst.wait = false → dst.asks = [] →
      (∀ p ∈ dst.places, (∃ a, p.1 = .mem a ∧ Unwatched s a p.2.2) ∨ ∃ k o, p.1 = .scratch k o ∧ (cohort? s k).isSome = true) →
      let ws := cutAt dst.places src.bytes
      ∃ t, exec (.copyStart gid num) s = .next t ∧ Wrote s t gid (fun _ => false) ws ∧
        group? t gid = some { ws.foldl (fun h w => wokenAt w.1 w.2 h) (put { c with st := .started, bytes := c.bytes + n }) with
          traces := if g.status = .ended then g.traces else copyTraces s c ws g.traces } ∧
        CountedIn s t g.part g.region 0x0B (dst.places.foldl (fun k p => k + p.2.2) 0)) ∧
    (c.st = .started → c.fault = none → c.bytes < n * c.set.rows → ∀ e, src.fail = some (e, none) →
      ∃ t, exec (.copyStart gid num) s = .next t ∧ OnlyGroup { s with tlb := t.tlb } t gid ∧
        group? t gid = some (put { c with st := .started, fault := some e })) ∧
    (c.st = .started → c.fault = none → c.bytes = n * c.set.rows → copyPeersDone g num = true → (x = 0 ∨ c.word = true) →
      Becomes s (.copyComplete gid num) gid ended) ∧
    (c.st = .started → c.fault = none → c.bytes = n * c.set.rows → copyPeersDone g num = true → x ≠ 0 → c.word = false →
      x % 8 = 0 → ∀ s1 p, resolve s (copyAgent g c) x .store = (s1, .ok (.mem p)) → Unwatched s p 8 →
      ∃ t, exec (.copyComplete gid num) s = .next t ∧ Wrote s t gid (fun _ => false) [(.mem p, value)] ∧
        group? t gid = some (wokenBy p 8 ended) ∧ t.regions = s.regions) ∧
    ∀ e, c.st = .started → c.fault = some e → copyPeersDone g num = true → g.status ≠ .ended →
      let pend := withFault g.pend s.nextId e
      let h : Group := { put { c with st := .faulted } with pend := pend }
      (g.saved = false → Becomes s (.copyFault gid num) gid h) ∧
      ∀ p o, g.saved = true → part? s g.part = some p → g.image = some o →
        ∃ t, t = { s with groups := t.groups } ∧ group? t gid = some h ∧ (∀ n, n ≠ gid → group? t n = group? s n) ∧
          exec (.copyFault gid num) s = .next
            (if getStore t p (o + 0x19) 1 = [5] then t else putStore t p (o + 0x1C00) (pendingBytes pend))

/-- R170, R359, R91, R373, R98: a woken watcher joins its die's return list; an ended group whose copies are over gives up its
pin; a chooser's count reaches its limit; the body that waits longest for a buffer is written once that is free and the
disposition of the body before it has been taken, and its handler fires; a body that belongs to no trapped group is written so
too, with its handler if it is a watchpoint's (R171, R271, R374), past those that wait for another buffer; the fetch of a word
that fails traps with its cause and its access entry. -/
def Obligations.GroupSteps : Prop :=
  (∀ (s : State) (gid : Nat) (g : Group), group? s gid = some g →
    (g.status = .waiting → (g.wait = .woken ∨ ∃ p a, g.wait = .word (.peer p a)) →
      ∃ t, exec (.wwaitWake gid) s = .next t ∧ t = { s with groups := t.groups, nextId := s.nextId + 1 } ∧
        group? t gid = some { g with status := .ready, readySeq := s.nextId } ∧ ∀ n, n ≠ gid → group? t n = group? s n) ∧
    (g.status = .ended → (∀ c ∈ g.copies, c.st ≠ .issued ∧ c.st ≠ .started) →
      Becomes s (.pinReleaseAtEnd gid) gid { g with pinned := 0 }) ∧
    Becomes s (.priorityRaise gid .scalar) gid { g with chooseS := 4096 } ∧
    Becomes s (.priorityRaise gid .main) gid { g with chooseM := 4096 } ∧
    Becomes s (.priorityRaise gid .special) gid { g with chooseX := 4096 } ∧
    (gid ≠ 0 → g.bodyState = .waiting → ∀ dom buf handler p s1, domainOf s g.part g.region = some (dom, buf, handler) →
      let s0 := bufferReady s dom.part buf
      (∀ n ∈ bodiesWaiting s g.part buf, g.ordinal ≤ n) → bufferFree s0 dom.part buf = true → bufferHandled s0 dom.part buf = false →
      bufferPlace s0 dom.part buf .store = some p → rangeBad s0 p g.body.length = false → fireHandler (putBytes s0 p g.body) dom buf handler gid = some s1 →
      ∃ t g1, exec (.bodyWrite gid) s = .next t ∧ group? s1 gid = some g1 ∧
        group? t gid = some { g1 with bodyState := .handling, body := g.body } ∧
        (∀ a, Sparse.get t.mem a = if p ≤ a ∧ a < p + g.body.length then g.body.getD (a - p) 0 else Sparse.get s0.mem a))) ∧
  (∀ (s : State) (b : LooseBody) (before rest : List LooseBody), s.bodies = before ++ b :: rest →
    (∀ x ∈ before, writeLoose s x = none) →
    ∀ dom buf handler p, domainOf s b.part b.region = some (dom, buf, handler) → (∀ n ∈ bodiesWaiting s b.part buf, b.ordinal ≤ n) →
      let s0 := bufferReady s dom.part buf
      let left := s.bodies.filter fun x => x != b
      bufferFree s0 dom.part buf = true → bufferHandled s0 dom.part buf = false → bufferPlace s0 dom.part buf .store = some p →
      rangeBad s0 p b.bytes.length = false →
      (b.fires = false ∨ handler = 0 → exec (.bodyWrite 0) s = .next { putBytes s0 p b.bytes with bodies := left }) ∧
      (b.fires = true → handler ≠ 0 → ∀ s1, fireHandler (putBytes s0 p b.bytes) dom buf handler 0 = some s1 →
        exec (.bodyWrite 0) s = .next { s1 with bodies := left })) ∧
  ∀ (s : State) (g : Group) (lane : Bool) (cause addr : Nat), Running s g → (lane = true → g.queue ≠ []) →
    let pc := if lane then lanePc s g else g.pc
    let size := if lane then 12 else 4
    (BitVec.ofNat 64 addr - pc).toNat < size → cmdsDone g = true → peersDone g = true →
    ∀ s1 gov, resolve s (agentOf g) addr .exec = (s1, .fail cause gov) →
      exec (.instructionFetchFault lane cause addr) s = .next
        (takeTrap (refusalEnvelope s1 gov) g ⟨cause, lane, some ⟨pc, if lane then 0xFF else 0xFE, 0, size, cause, 0⟩⟩)

/-! ### Commands of owners and of the operator -/

/-- R39 to R41, R24, R266 to R268, R271, R369, R404, R407, R416: what each owner's command does where its operands are good,
and its reply where a check fails, of which the first counts and which then has no effect. Each state `s1`, `s2` … is the one
that the look at the next address leaves: a fresh page has been zeroed, and a refusal has sent its envelope. A stage-1 root
whose invalidation has still to wait for accesses to peers is answered when that is over. Of these the following are the
model's, not the spec's: reply 1 for a stage-1 root that is not aligned (DEDUCED, log entry 35); that a root command ends only
when those accesses are answered, and that the first check that fails gives the reply (DEDUCED, log entry 41); the digest of
the owner's key and the check of its signature, which are computed as their standards say (PRESUMED, log entry 5). -/
def Obligations.OwnerCommands : Prop :=
  ∀ (s s0 : State) (fn block : Nat) (p : Part) (bs : List Byte),
    let f (o n : Nat) : Nat := bytesAt bs o n
    let word (s1 : State) (b : Bool) : Prop := wordOk s0 (some p) bs = (s1, b)
    let answer (s1 : State) (n : Nat) : Host.Outcome State Fault Refusal := .next (ownerAnswer s1 p block bs n [])
    (OwnerBlock s s0 fn block 1 true p bs →
      let key := (bs.drop 0x20).take 64
      let good := ringOk (f 0x60 8) (f 0x68 4) = true ∧ storeRangeOk (f 0x78 8) (f 0x80 8) = true
      let signed := ownerSigned key ((bs.drop 0x20).take 0xA0) (bs.drop 0xC0) = true
      (¬good → exec (.bind fn block) s = answer s0 1) ∧
      (good → p.st ≠ .created → exec (.bind fn block) s = answer s0 2) ∧
      (good → p.st = .created → ¬signed → exec (.bind fn block) s = answer s0 3) ∧
      ∀ s1 b s2 c s3 pages, good → p.st = .created → signed → word s1 b → ownerRingMapped s1 p (f 0x60 8) (f 0x68 4) = (s2, c) →
        storePagesOf s2 p (f 0x78 8) (f 0x80 8) = (s3, pages) →
        ((b = false ∨ c = false ∨ pages = none) → exec (.bind fn block) s = answer s3 4) ∧
        ∀ ps, b = true → c = true → pages = some ps →
          exec (.bind fn block) s = answer (ringStart (putPart (fabricUp s3 p.id) { p with
            st := .owned, ownerKey := key, keyDigest := digestOf (sm3 key), ring := some ⟨f 0x60 8, f 0x68 4, 0, 0, false⟩
            auditFn := if f 0x6C 2 = 0xFFFF then none else some (f 0x6C 2), root := BitVec.ofNat 64 (f 0x70 8)
            storeBase := f 0x78 8, storeLen := f 0x80 8, storePages := ps }) (f 0x60 8) fun a => atOwner s3 p a true) 0) ∧
    (OwnerBlock s s0 fn block 2 false p bs →
      let v := f 0x20 8
      (v % 0x10000 ≠ 0 → exec (.setStage1Root fn block) s = answer s0 1) ∧
      (v % 0x10000 = 0 → p.st ≠ .owned → exec (.setStage1Root fn block) s = answer s0 2) ∧
      ∀ s1 s2, v % 0x10000 = 0 → p.st = .owned → word s1 true → (v = 0 → s2 = s1) →
        (v ≠ 0 → ∃ a, guestPlace p false s1 v = (s2, some a)) →
        let s3 := rootInvalidate (putPart s2 { p with stage1 := v }) p.id 1
        (rootPending s3 p.id = false → exec (.setStage1Root fn block) s = answer s3 0) ∧
        (rootPending s3 p.id = true → exec (.setStage1Root fn block) s =
          .next (putPart s3 { p with stage1 := v, rootBusy := true, busy := true, command := block }))) ∧
    (s.boot.booted = true → mailboxPart s fn = some p → (p.busy = true → p.command = block) → p.rootBusy = true → block % 64 = 0 →
      guestGet s p block 256 = (s0, some bs) →
      (rootPending s0 p.id = true → exec (.setStage1Root fn block) s = .next s0) ∧
      (rootPending s0 p.id = false → exec (.setStage1Root fn block) s = answer (putPart s0 { p with rootBusy := false }) 0)) ∧
    (OwnerBlock s s0 fn block 3 false p bs → p.st = .owned → f 0x24 1 ≤ 3 → ∀ s1, word s1 true →
      let put (s : State) (w : List Watch) : State :=
        modRegion s p.id (f 0x20 4) fun g => { g with watch := g.watch.filter (fun x => x.index != f 0x24 1) ++ w }
      let base := f 0x28 8
      let len := f 0x30 4
      (f 0x25 1 = 0 → (region? s1 p.id (f 0x20 4)).isSome = true → exec (.setWatchpoint fn block) s = answer (put s1 []) 0) ∧
      (f 0x25 1 = 0 → region? s1 p.id (f 0x20 4) = none → exec (.setWatchpoint fn block) s = answer s1 5) ∧
      (1 ≤ f 0x25 1 → f 0x25 1 ≤ 3 → base % 8 = 0 → 8 ≤ len → len ≤ 65536 → len % 8 = 0 → base % 0x10000 + len ≤ 0x10000 →
        ∀ s2 a n, devRange s1 p.id .load base len = (s2, .ok [(a, n)]) → (region? s2 p.id (f 0x20 4)).isSome = true →
        exec (.setWatchpoint fn block) s = answer (put s2 [⟨f 0x24 1, f 0x25 1, BitVec.ofNat 64 base, a, len⟩]) 0)) ∧
    (OwnerBlock s s0 fn block 4 false p bs → p.st = .owned → storeRangeOk (f 0x20 8) (f 0x28 8) = true →
      ∀ s1 s2 pages, word s1 true → storePagesOf s1 p (f 0x20 8) (f 0x28 8) = (s2, some pages) →
      ((∀ g ∈ s1.groups, g.part = p.id → g.image = none) → exec (.setContextStore fn block) s = answer
        (putPart s2 { p with storeBase := f 0x20 8, storeLen := f 0x28 8, storePages := pages }) 0) ∧
      ((∃ g ∈ s1.groups, g.part = p.id ∧ g.image ≠ none) → exec (.setContextStore fn block) s = answer s2 5)) ∧
    (OwnerBlock s s0 fn block 5 false p bs → p.st ≠ .free → f 0x40 8 % 64 = 0 →
      ∀ s1 s2, word s1 true → guestTakes s1 p (f 0x40 8) 2048 = (s2, true) →
      exec (.attest fn block) s = answer
        (guestPut { s2 with nextId := s2.nextId + 1 } p (f 0x40 8) (attestReply s2 p ((bs.drop 0x20).take 32))) 0) ∧
    (OwnerBlock s s0 fn block 6 false p bs → p.st = .owned →
      f 0x20 1 ≤ 7 → f 0x21 3 = 0 → f 0x24 4 < 16384 → f 0x28 8 % 64 = 0 → f 0x38 8 % 64 = 0 → f 0x40 8 % 64 = 0 →
      entriesOk (f 0x30 4) 4096 = true → entriesOk (f 0x34 4) 4096 = true → entriesOk (f 0x48 4) 8192 = true → f 0x4C 84 = 0 →
      ∀ s1 s2 a b c, word s1 true → devMany p.id s1 [(.load, f 0x28 8, 64 * f 0x30 4), (.load, f 0x38 8, 32 * f 0x34 4),
          (.store, f 0x40 8, 32 * f 0x48 4)] = (s2, .ok true [a, b, c]) →
      ∀ x, qp? s2 (f 0x20 1 * 16384 + f 0x24 4) = some x → x.part = p.id → x.work = [] →
      exec (.setRdmaQueues fn block) s = answer (putQp s2 { x with
        sendAt := a, sendEntries := f 0x30 4, recvAt := b, recvEntries := f 0x34 4, cqAt := c, cqEntries := f 0x48 4
        sendProd := 0, recvProd := 0, sendIdx := 0, recvIdx := 0, cqIdx := 0, cqCons := 0 }) 0) ∧
    (OwnerBlock s s0 fn block 7 false p bs → p.st = .owned → 1 ≤ f 0x28 8 → f 0x28 8 ≤ 2 ^ 40 → f 0x30 1 < 4 →
      p.regions.length < 65536 → p.issued.length ≤ 2 ^ 24 →
      ∀ s1 s2 ps, word s1 true → devRange s1 p.id (regionAcc (f 0x30 1)) (f 0x20 8) (f 0x28 8) = (s2, .ok ps) →
      ∃ k, k < 2 ^ 32 ∧ k ∉ p.issued ∧ exec (.registerMemoryRegion fn block) s = .next
        (ownerAnswer (putPart { s2 with nextId := s2.nextId + 1 } { p with
            regions := p.regions ++ [⟨k, ps, f 0x20 8, f 0x28 8, f 0x30 1⟩], issued := k :: p.issued.take (2 ^ 24 - 1) })
          p block bs 0 [(0x38, natToBytes 4 k)])) ∧
    (OwnerBlock s s0 fn block 8 false p bs → p.st = .owned → ∀ s1, word s1 true →
      ((∃ m ∈ p.regions, m.key = f 0x20 4) → exec (.deregisterMemoryRegion fn block) s = answer
        (putPart s1 { p with regions := p.regions.filter fun m => m.key != f 0x20 4 }) 0) ∧
      ((∀ m ∈ p.regions, m.key ≠ f 0x20 4) → exec (.deregisterMemoryRegion fn block) s = answer s1 5))

/-- R42, R24, R34 to R37, R380: the life of a partition: a free slot is created; a created or owned one is deleted; an owned
or sealing one is reset, and its time-shared dies are leased to it alone; a session opens for an owned one with the owner's
consent; its commit or abort ends it; a free slot is staged; scrubbing ends in FREE or OWNED. A wrong state replies 2. Each
state `s1`, `s2` … is the one that the look at the next address leaves. Of these the following are the model's, not the
spec's: reply 1 to a create of partition 0, the class-7 envelope of a refused session, which goes to the operator, its reason
1 also without a consent record, its replies 3 and 5, the 2 KiB at the report operand, and the round field of a commit's
header (DESIGN CHOICE, log entry 57); the order of the reasons (DEDUCED, log entry 44); what a staged slot holds before its
commit (DESIGN CHOICE, log entry 45); the counter of the class-9 envelopes of a reset (DEDUCED, log entry 58); keys, key
blobs, encryption and authentication, which are computed as their standards say (PRESUMED, log entry 5). -/
def Obligations.PartitionLife : Prop :=
  ∀ (s s0 : State) (block : Nat) (bs : List Byte),
    let f (o n : Nat) : Nat := bytesAt bs o n
    let id := f 0x20 1
    let word (s1 : State) (b : Bool) : Prop := wordOk s0 none bs = (s1, b)
    let answer (s1 : State) (n : Nat) : Host.Outcome State Fault Refusal := .next (operatorAnswer s1 block bs n)
    (∀ secret, OperatorBlock s s0 block 0x10 bs →
      (∀ s1, 1 ≤ id → id < 64 → part? s0 id = none → word s1 true → exec (.create block secret) s = answer { fabricUp s1 id with
        parts := s1.parts ++ [{ Part.empty id .created with
          secret := secret, mailbox := f 0x22 2, launchFn := f 0x24 2, stage2 := (Sparse.get s1.freeRoots id).toNat }]
        freeRoots := Sparse.set s1.freeRoots id 0
        launchFns := s1.launchFns.filter (fun x => x.fn != f 0x24 2) ++ [LaunchFn.reset (f 0x24 2) id] } 0) ∧
      (1 ≤ id → id < 64 → part? s0 id ≠ none → exec (.create block secret) s = answer s0 2) ∧
      ((id = 0 ∨ 64 ≤ id) → exec (.create block secret) s = answer s0 1)) ∧
    (∀ p, part? s0 id = some p → 1 ≤ id → id < 64 →
      (OperatorBlock s s0 block 0x11 bs →
        (∀ s1, (p.st = .created ∨ p.st = .owned) → word s1 true →
          exec (.delete block) s = answer (toScrubbing (teardownNotice (stopWork s1 id false) id) id) 0) ∧
        (p.st ≠ .created → p.st ≠ .owned → exec (.delete block) s = answer s0 2)) ∧
      (OperatorBlock s s0 block 0x12 bs →
        (∀ s1, (p.st = .owned ∨ p.st = .sealing) → word s1 true →
          let a := teardownNotice (stopWork s1 id false) id
          let b := { a with parts := a.parts.map fun q =>
            if q.id == id then { outOfSession q with st := .resetting } else q }
          exec (.reset block) s = answer
            ((sharedDies b id).foldl (fun s d => leaseArrive s d (BitVec.ofNat 64 (2 ^ id)) (some id)) b) 0) ∧
        (p.st ≠ .owned → p.st ≠ .sealing → exec (.reset block) s = answer s0 2)) ∧
      (∀ session, OperatorBlock s s0 block 0x13 bs →
        (f 0x30 8 % 64 = 0 → p.st ≠ .owned → exec (.openSession block session) s = answer s0 2) ∧
        (∀ s1 s2 report s3 q s4 consent, f 0x30 8 % 64 = 0 → p.st = .owned → word s1 true →
          operatorGet s1 (f 0x28 8) 2048 = (s2, some report) → issuerTakes s2 none (f 0x30 8) 256 = (s3, true) →
          part? s3 id = some q → consentRecord s3 q = (s4, consent) →
          let why := sessionRefusal q consent report
          (why ≠ 0 → exec (.openSession block session) s = answer
            (envelope s4 .operator 7 0 why (noPlace id 0 0)) (if why = 1 ∨ why = 4 then 3 else 5)) ∧
          (∀ c, why = 0 → consent = some c →
            exec (.openSession block session) s = answer
              (issuerWrite (putPart { s4 with nextId := s4.nextId + 1 } { outOfSession q with
                st := .sealing, session := session, seqHigh := bytesAt c 8 8
                usesLeft := (if q.seqHigh < bytesAt c 8 8 then bytesAt c 6 2 else q.usesLeft) - 1 }) none (f 0x30 8)
                (keyBlob ((report.drop 0x70).take 64) q session s4.nextId)) 0))) ∧
      (OperatorBlock s s0 block 0x16 bs →
        (f 0x28 8 % 128 = 0 → (p.st ≠ .sealing ∨ p.stopped = false) → exec (.commit block) s = answer s0 2) ∧
        (∀ s1 s2 q, p.st = .sealing → p.stopped = true → f 0x28 8 % 128 = 0 → word s1 true →
          issuerTakes s1 none (f 0x28 8) 128 = (s2, true) → part? s2 id = some q →
          exec (.commit block) s = answer (toScrubbing (teardownNotice (stopWork (issuerWrite s2 none (f 0x28 8)
            (sealedObject q 3 (finalRound q) q.objects.length (finalRound q) [])) id true) id) id) 0)) ∧
      (OperatorBlock s s0 block 0x17 bs →
        (∀ s1, p.st = .sealing → word s1 true → exec (.abort block) s = answer (resumeCopies { s1 with
          seals := s1.seals.filter fun j => j.part != id
          parts := s1.parts.map fun q => if q.id == id then { outOfSession q with st := .owned } else q } id) 0) ∧
        (∀ s1, p.st = .staged → word s1 true → exec (.abort block) s = answer (toScrubbing (stopWork s1 id false) id) 0) ∧
        (p.st ≠ .sealing → p.st ≠ .staged → exec (.abort block) s = answer s0 2))) ∧
    (OperatorBlock s s0 block 0x14 bs → ∀ s1 b s2 blob, word s1 b → operatorGet s1 (f 0x28 8) 256 = (s2, some blob) →
      match sm2Decrypt (identitySecret 8) 73 blob with
      | none => exec (.stage block) s = answer s2 3
      | some t =>
        let n := bytesAt t 32 1
        (1 ≤ n ∧ n < 64 ∧ part? s2 n = none → b = true → exec (.stage block) s = answer { s2 with
          parts := s2.parts ++ [{ Part.empty n .staged with
            secret := digestOf (t.take 32), session := BitVec.ofNat 64 (bytesAt t 33 8)
            keyDigest := digestOf ((t.drop 41).take 32), stage2 := (Sparse.get s2.freeRoots n).toNat }]
          freeRoots := Sparse.set s2.freeRoots n 0 } 0) ∧
        (¬(1 ≤ n ∧ n < 64 ∧ part? s2 n = none) → exec (.stage block) s = answer s2 2)) ∧
    ∀ part p, part? s part = some p →
      (p.st = .resetting → (∀ j ∈ s.leaseJobs, j.owner ≠ some part) →
        exec (.scrubComplete part) s = .next (envelopeBoth (countEverywhere
          (giveBack (putPart (fabricUp (scrubPages s part) part) { p with st := .owned, leaseBack := [] }) p.leaseBack) part 0x29 2)
          9 (taggedPages s part).length (noPlace part 0 0))) ∧
      (p.st = .scrubbing → (∀ j ∈ s.zeroing, j.part = part ∨ ∀ n ∈ taggedPages s part,
          n ≠ j.entry / 0x10000 ∧ n ≠ (j.entry + 7) / 0x10000 ∧ ¬(j.base / 0x10000 ≤ n ∧ n < j.base / 0x10000 + j.size / 0x10000) ∧
          ¬(j.base ≤ n * 0x10000 + 0xFFFF ∧ n * 0x10000 < j.base + j.size)) → ∃ t, exec (.scrubComplete part) s = .next t ∧ part? t part = none ∧
        (∀ r ∈ t.regions, r.part ≠ part) ∧ (∀ e ∈ t.tlb, e.part ≠ part) ∧
        ∀ n k, n ∈ taggedPages s part → k < 0x10000 → Sparse.get t.mem (n * 0x10000 + k) = 0)

/-- R28, R29, R37, R42, R43, R80, R403: an object of the session with a good header, a good MAC and a new round is installed:
a page is written, a context image or the queue state is kept, a commit that counts right makes the partition OWNED with its
work; an object of an old round is dropped; a bad one is dropped and reported. Rings are registered; a queue pair is connected
for an owned partition and released, its outstanding requests flushed and then the send entries not taken yet. Of these the
following are the model's, not the spec's: reply 0 for an object of an old round, and that the round field of a commit is not
looked at (DESIGN CHOICE, log entry 57); how the work that a commit brings along is laid out and taken up (`adopt`, DESIGN
CHOICE, log entry 45); the MAC and the payload's encryption, which are computed as their standards say (PRESUMED, log entry
5); that flushed entries are written even where the owner has left no entry free (DESIGN CHOICE, log entry 8). -/
def Obligations.OperatorObjects : Prop :=
  ∀ (s s0 : State) (block : Nat) (bs : List Byte),
    let f (o n : Nat) : Nat := bytesAt bs o n
    let id := f 0x20 1
    let word (s1 : State) (b : Bool) : Prop := wordOk s0 none bs = (s1, b)
    let answer (s1 : State) (n : Nat) : Host.Outcome State Fault Refusal := .next (operatorAnswer s1 block bs n)
    (∀ q, OperatorBlock s s0 block 0x15 bs → 1 ≤ id → id < 64 → part? s0 id = some q →
      (q.st ≠ .staged → exec (.install block) s = answer s0 2) ∧
      (∀ s1 s2 h, q.st = .staged → word s1 true → operatorGet s1 (f 0x28 8) 128 = (s2, some h) →
        let k (o n : Nat) : Nat := bytesAt h o n
        let told (s : State) (n : Nat) : State := envelope s .operator 7 0 n (noPlace id 0 0)
        (∀ p, sealHeadOk h = false → part? s2 id = some p → exec (.install block) s = answer (told s2 7) 5) ∧
        (∀ s3 body p, sealHeadOk h = true → operatorGet s2 (f 0x28 8 + 128) (k 0x14 4) = (s3, some body) → part? s3 id = some p →
          ((k 5 1 ≠ id ∨ k 8 8 ≠ p.session.toNat) → exec (.install block) s = answer (told s3 7) 5) ∧
          (k 5 1 = id → k 8 8 = p.session.toNat →
            if objectMac p.secret (h.take 0x60 ++ body) = (h.drop 0x60).take 32 then
              (k 4 1 ≠ 3 → (∃ x ∈ p.objects, x.1 = k 4 1 ∧ x.2.1 = k 0x18 8 ∧ k 0x10 4 ≤ x.2.2) →
                exec (.install block) s = answer s3 0) ∧
              (k 4 1 = 3 ∨ (∀ x ∈ p.objects, x.1 = k 4 1 → x.2.1 = k 0x18 8 → x.2.2 < k 0x10 4) →
                let plain := payloadUnits openUnit p.secret (k 0x10 4) (k 0x18 8) (k 4 1) body
                let q := noteObject p (k 4 1) (k 0x18 8) (k 0x10 4)
                let owned : Part := { outOfSession p with st := .owned }
                (∀ s4 a, k 4 1 = 1 → guestPlace p true s3 (k 0x18 8 * 0x10000) = (s4, some a) →
                  exec (.install block) s = answer (putPart (putBytes s4 a plain) q) 0) ∧
                (k 4 1 = 2 → exec (.install block) s = answer
                  (putPart s3 { q with images := q.images.filter (fun x => x.1 != k 0x18 8) ++ [(k 0x18 8, plain)] }) 0) ∧
                (k 4 1 = 4 → exec (.install block) s = answer (putPart s3 { q with queueState := plain }) 0) ∧
                (k 4 1 = 3 → (p.objects.length = k 0x18 8 ∧ ∀ x ∈ p.objects, x.2.2 ≤ k 0x20 4) → exec (.install block) s = answer
                  (adopt (putPart (fabricUp s3 id) owned) owned p.images p.queueState) 0) ∧
                (k 4 1 = 3 → ¬(p.objects.length = k 0x18 8 ∧ ∀ x ∈ p.objects, x.2.2 ≤ k 0x20 4) →
                  exec (.install block) s = answer s3 5))
            else exec (.install block) s = answer (told s3 6) 5)))) ∧
    (∀ (i : Nat → Instr) (code size : Nat) (put : State → Nat → Ring → State),
      ((i = .registerEnvelopeRing ∧ code = 0x18 ∧ size = 32 ∧
          put = fun s d r => if d = 8 then { s with ring8 := some r } else { s with ring9 := some r }) ∨
        (i = .registerDemandRing ∧ code = 0x19 ∧ size = 16 ∧
          put = fun s d r => if d = 8 then { s with demand8 := some r } else { s with demand9 := some r })) →
      OperatorBlock s s0 block code bs →
      (∀ s1 s2, (id = 8 ∨ id = 9) ∧ ringOk (f 0x28 8) (f 0x30 4) = true → word s1 true →
        operatorTakes s1 (f 0x28 8) (0x40 + size * f 0x30 4) = (s2, true) →
        exec (i block) s = answer (put (ringStart s2 (f 0x28 8) fun a => some a) id ⟨f 0x28 8, f 0x30 4, 0, 0, false⟩) 0) ∧
      (¬((id = 8 ∨ id = 9) ∧ ringOk (f 0x28 8) (f 0x30 4) = true) → exec (i block) s = answer s0 1)) ∧
    (∀ p, OperatorBlock s s0 block 0x1A bs → id ≤ 7 → 1 ≤ f 0x21 1 → f 0x21 1 < 64 → f 0x22 1 ≤ 2 → f 0x23 1 = 0 →
      f 0x24 4 < 16384 → f 0x38 4 < 2 ^ 24 → f 0x3C 4 < 2 ^ 24 → f 0x40 4 < 2 ^ 24 → f 0x44 92 = 0 →
      part? s0 (f 0x21 1) = some p →
      (p.st ≠ .owned → exec (.connectQueuePair block) s = answer s0 2) ∧
      (∀ s1, p.st = .owned → word s1 true → qp? s1 (id * 16384 + f 0x24 4) ≠ none →
        exec (.connectQueuePair block) s = answer s1 5) ∧
      (∀ s1, p.st = .owned → word s1 true → qp? s1 (id * 16384 + f 0x24 4) = none →
        exec (.connectQueuePair block) s = answer { s1 with
          qps := s1.qps ++ [QueuePair.connected (id * 16384 + f 0x24 4) (f 0x21 1) (f 0x22 1) ((bs.drop 0x28).take 16) (f 0x38 4)
            (f 0x3C 4) (f 0x40 4)] } 0)) ∧
    (OperatorBlock s s0 block 0x1B bs → id ≤ 7 → f 0x24 4 < 16384 → ∀ s1, word s1 true →
      (qp? s1 (id * 16384 + f 0x24 4) = none → exec (.releaseQueuePair block) s = answer s1 0) ∧
      (∀ x, qp? s1 (id * 16384 + f 0x24 4) = some x → exec (.releaseQueuePair block) s = answer
        (let s2 := flushSends x.sendEntries (x.work.foldl (fun s w => cqPut s x.q w.wrid 0 0 w.opcode 5) s1) x.q
         { s2 with qps := s2.qps.filter fun y => y.q != x.q }) 0)) ∧
    (∀ (s : State) (n q : Nat) (x : QueuePair), qp? s q = some x →
      (x.sendIdx = x.sendProd → flushSends n s q = s) ∧
      (x.sendIdx ≠ x.sendProd → ∀ s1 e, nextSend s x = (s1, some e) → flushSends (n + 1) s q =
        flushSends n (cqPut (putQp s1 { x with sendIdx := (x.sendIdx + 1) % 2 ^ 32 }) q (bytesAt e 8 8) 0 0 (bytesAt e 0 1) 5) q))

/-! ### Hosts, boot and dies -/

/-- R8, R16, R39, R42, R66, R67, R69, R81, R83, R376, R391, R415: writes of registers complete: a control register, a bind
record's dwords, a launch function's own, an audit function's and a mailbox. The reserved half of 0x821 ignores writes, while
an audit selection with a nonzero reserved field gets an error response; audit functions are there once boot has ended.
FEATURES_OK is not taken with features that are not accepted; a queue is enabled by a good size; its base is kept with the
places of its ring, or breaks the queue; a reset of the device status returns the function to reset and forgets its requests.
Of these the following are the model's, not the spec's: the offsets and bits of a launch function's registers (PRESUMED, log
entry 7); which requests a reset forgets (DEDUCED, log entry 43); that a ring with entries or a base outside the limits
registers nothing (DESIGN CHOICE, log entry 57); the page `more` kept behind a ring (DESIGN CHOICE, log entry 62). -/
def Obligations.RegisterWrites : Prop :=
  ∀ (s : State) (v : Word),
    let n := v.toNat
    (∀ off, 0x840000 ≤ off → off < 0x840100 → off % 32 = 8 → exec (.registerWrite .control off v) s =
      .next { s with pre821 := Sparse.set s.pre821 ((off - 0x840000) / 0x20) (BitVec.ofNat 64 (n % 2 ^ 32)) }) ∧
    (∀ off, 0x840000 ≤ off → off < 0x840100 → off % 32 = 0x10 ∨ off % 32 = 0x18 → exec (.registerWrite .control off v) s = .next s) ∧
    (∀ die < 8, ∀ core < 192, ∀ slot < 16,
      let at_ := 0x1000000 + die * 0x10000 + core * 0x100 + slot * 0x10
      exec (.registerWrite .control (at_ + 8) v) s = exec (.bindRecordStage die core slot v) s ∧
      exec (.registerWrite .control at_ v) s = exec (.bindRecordCommit die core slot v none) s) ∧
    (∀ off, 0x830000 ≤ off → off < 0x830400 → off % 16 = 0 → exec (.registerWrite .control off v) s =
      .next { s with churn0 := Sparse.set s.churn0 ((off - 0x830000) / 16) v }) ∧
    exec (.registerWrite .control 0x870000 v) s = .next { s with cmdHeld := s.cmdHeld ++ [n] } ∧
    (∀ fn, FnBecomes s (.registerWrite (.launchFn fn) 0x16 v) fn fun x => { x with select := n % 2 ^ 16 }) ∧
    (∀ fn, FnBecomes s (.registerWrite (.launchFn fn) 0x10 v) fn fun x => { x with configVector := n % 2 ^ 16 }) ∧
    (∀ fn, n % 256 ≠ 0 → FnBecomes s (.registerWrite (.launchFn fn) 0x14 v) fn fun x =>
      let offered := 2 ^ 28 + 2 ^ 29 + 2 ^ 32 + 2 ^ 33
      let accepted := x.features.testBit 33 = true ∧ x.features &&& offered = x.features
      { x with status := (if (n % 256).testBit 3 = true ∧ ¬accepted then n % 256 - 8 else n % 256) ||| (x.status &&& 0x40) }) ∧
    (s.boot.booted = true → ∀ fn,
      AuditBecomes s (.registerWrite (.auditFn fn) 0x10 v) fn (fun a => { a with ringBase := v }) ∧
      (∀ off, off ≠ 0x10 → AuditBecomes s (.registerWrite (.auditFn fn) off v) fn fun a => a) ∧
      (∀ off, AuditBecomes s (.registerWrite (.auditWindow fn) off v) fn fun a => { a with unsupported := a.unsupported + 1 }) ∧
      (n < 2 ^ 38 → AuditBecomes s (.auditSelect fn v) fn fun a => { a with select := v }) ∧
      (2 ^ 38 ≤ n → AuditBecomes s (.auditSelect fn v) fn fun a => { a with unsupported := a.unsupported + 1 }) ∧
      let a := (s.auditFns.find? fun a => a.fn == fn).getD ⟨fn, 0, 0, none, 0⟩
      let base := a.ringBase.toNat
      let good := base % 64 = 0 ∧ ∃ k < 9, n = 2 ^ (k + 4)
      (¬good → exec (.auditRingRegister fn v) s = .next s) ∧
      (good → ∃ t, exec (.auditRingRegister fn v) s = .next t ∧
        t = { s with mem := t.mem, groups := t.groups, parts := t.parts, auditFns := t.auditFns } ∧
        (∀ x, Sparse.get t.mem x = if 2 ^ 60 + base ≤ x ∧ x < 2 ^ 60 + base + 24 then 0 else Sparse.get s.mem x) ∧
        (Unwatched s (2 ^ 60 + base) 24 → t.groups = s.groups) ∧
        t.auditFns = s.auditFns.filter (fun a => a.fn != fn) ++ [{ a with ring := some ⟨base, n, 0, 0, false⟩ }])) ∧
    (s.boot.booted = false → ∀ fn off, exec (.auditSelect fn v) s = .next s ∧ exec (.auditRingRegister fn v) s = .next s ∧
      exec (.registerWrite (.auditFn fn) off v) s = .next s ∧ exec (.registerWrite (.auditWindow fn) off v) s = .next s) ∧
    (∀ fn, exec (.registerWrite (.mailboxFn fn) 0 v) s = .next { s with parts := s.parts.map fun (p : Part) =>
      if p.id != 0 && p.mailbox == fn then
        (if p.busy then { p with unsupported := p.unsupported + 1 } else { p with busy := true, command := n }) else p }) ∧
    (∀ fn q, FnBecomes s (.queueEnable fn q) fn (queueMade q fun y =>
      if ∃ k ∈ List.range 12, y.size = 2 ^ (k + 1) then { y with enabled := true } else y)) ∧
    (∀ fn q ring, launchFn? s fn = none → exec (.queueBaseWrite fn q ring v) s = .next s) ∧
    (∀ fn q ring x p, launchFn? s fn = some x → part? s x.part = some p →
      let y := (vqueue? x q).getD (VQueue.reset q)
      let held (at_ : List (Option Nat)) (y : VQueue) : VQueue := match ring with
        | .descTable => { y with desc := n, descAt := at_ }
        | .driver => { y with driver := n, driverAt := at_ }
        | .device => { y with device := n, deviceAt := at_ }
      let with_ (s : State) (at_ : List (Option Nat)) : State := { s with
        launchFns := s.launchFns.map fun x => if x.fn == fn then queueMade q (held at_) x else x }
      ∀ s1 pages, ringPages (with_ s []) p (decide (ring = .device)) n (max 1 (ringLength ring y.size)) = (s1, pages) →
        ∃ more, let u := with_ s1 (pages ++ more)
          exec (.queueBaseWrite fn q ring v) s = .next (if ∀ a ∈ pages, a ≠ none then u
            else { u with launchFns := u.launchFns.map fun x => if x.fn == fn then queueBroken q 1 n x else x })) ∧
    (∀ fn, let came (o : Offer) : Bool := o.fn == fn && (launchFn? s fn).any fun f => f.part == o.part
      exec (.deviceStatusReset fn) s = .next { s with
        launchFns := s.launchFns.map fun x =>
          if x.fn == fn then { LaunchFn.reset fn x.part with unsupported := x.unsupported } else x
        offers := s.offers.filter fun o => !came o
        tasks := s.tasks.map fun t => if t.held.any came then { t with held := none } else t })

/-- R408, R409: `xh.post` puts its notice into the queue that s[sb] names and replies with what became of it, 2 without such a
queue; `xh.notify` replies 1 and notes the used index as signalled, or 0 where the driver holds signals back, or 2 without
such a queue.
R68, R69, R314, R401: a doorbell of a broken queue is recorded; one of an odd queue does nothing; one of an even queue
lets the queue consume its chains, of which the first good launch request is offered; a host's own memory is read and written
at once. -/
def Obligations.HostNoticesAndRequests : Prop :=
  (∀ (s : State) (g : Group), Running s g → g.queue = [] → ∀ (d a b : Reg) (y : BitVec 1),
     (∀ s1 bs, (∀ p ∈ g.peers, p.reply ≠ none) → (sreg g a).toNat % 64 = 0 →
       dataPieces g 64 1 s (sreg g a).toNat = (s1, [], .ok bs) →
       (noticeQueue s1 g (sreg g b).toNat = none → group? s1 g.gid ≠ none →
         RepliesFrom s s1 g.gid (.xhPost d a b y) d y 2) ∧
       (∀ f v s2 n, noticeQueue s1 g (sreg g b).toNat = some (f, v) → postNotice s1 f v bs = (s2, n) →
         group? s2 g.gid ≠ none → RepliesFrom s s2 g.gid (.xhPost d a b y) d y (BitVec.ofNat 64 n))) ∧
     (noticeQueue s g (sreg g a).toNat = none → RepliesFrom s s g.gid (.xhNotify d a y) d y 2) ∧
     ∀ f v s1, noticeQueue s g (sreg g a).toNat = some (f, v) → group? s1 g.gid ≠ none →
       (signalHeld s f v = (s1, true) → RepliesFrom s s1 g.gid (.xhNotify d a y) d y 0) ∧
       (signalHeld s f v = (s1, false) →
         RepliesFrom s (modQueue s1 f.fn v.index fun q => { q with signalled := q.usedIdx }) g.gid (.xhNotify d a y) d y 1)) ∧
  ((∀ (s : State) (fn q : Nat) (x : LaunchFn) (y : VQueue), launchFn? s fn = some x → vqueue? x q = some y →
     (y.broken = true → FnBecomes s (.launchRequest fn q) fn fun z => { z with unsupported := z.unsupported + 1 }) ∧
     (y.broken = false → q % 2 = 1 → exec (.launchRequest fn q) s = .next s) ∧
     (y.broken = false → q % 2 = 0 → y.enabled = true → y.stopped = false → ∀ p i head rec_ st hold, part? s x.part = some p →
       p.stopped = false → (∀ o ∈ s.offers, ¬(o.part = p.id ∧ o.fn = fn ∧ o.queue = q)) → ∀ s1 s2 s3 s4 chain, availIdx s p y = (s1, some i) → i ≠ y.lastAvail →
       (i + 2 ^ 16 - y.lastAvail) % 2 ^ 16 ≤ y.size → availHead s1 p y = (s2, some head) → readChain s2 p y head = (s3, chain) →
       parseRequest s3 p chain = (s4, .launch rec_ st hold) →
       ∃ t, exec (.launchRequest fn q) s = .next t ∧ t = { s4 with
         launchFns := t.launchFns, nextId := s4.nextId + 1
         offers := s4.offers ++ [⟨s4.nextId, p.id, BitVec.ofNat 64 rec_, fn, q, head, st, hold, none⟩] } ∧
         t.launchFns = s4.launchFns.map fun z => if z.fn == fn then { z with queues := z.queues.map fun w =>
           if w.index == q then { w with lastAvail := (w.lastAvail + 1) % 2 ^ 16 } else w } else z)) ∧
   ∀ (s : State) (r : HostRequest), r.onHost = true →
     (r.op = .read → exec (.hostMemoryRequest r) s = .next { s with hostRead := hostBytes s r.addr r.size }) ∧
     (r.op = .write → r.data.length = r.size → Unwatched s (2 ^ 60 + r.addr) r.size →
       ∃ t, exec (.hostMemoryRequest r) s = .next t ∧ Wrote s t 0 (fun _ => false) [(.mem (2 ^ 60 + r.addr), r.data)] ∧ t.regions = s.regions))

/-- R413, R415, R268, R357, R411: boot measures firmware, record and policy in order; where all are genuine the package is
booted, with its place in the fabric group and its two physical functions; where one is not it is stopped there, with the
physical functions in an error state. A die that enters reset loses its translations and lines, and its groups end; a thermal
shutdown removes the power, after which only a restart does anything. Of these the following are the model's, not the spec's:
the error status 0x40 (PRESUMED, log entry 7); the numbers 0x10008 and 0x10009 of the two physical functions (DEDUCED, log
entry 47); that the groups of a die that enters reset end (DEDUCED, log entry 38); the signatures' signer, a free value
(DESIGN CHOICE, log entry 59). -/
def Obligations.BootAndReset : Prop :=
  (∀ (s : State) (security management policy : List Byte), s.boot.booted = false → s.boot.failed = false →
    let r := Sparse.getRange s.boot.flash 0 512
    let more (m : BitVec 256) (x : List Byte) : BitVec 256 := digestOf (sm3 (natToBytes 32 m.toNat ++ sm3 x))
    let m1 := more 0 security
    let m2 := more m1 management
    let m3 := more m2 r
    let ok1 := Config.firmwareSigned 0 [] security = true
    let ok2 := Config.firmwareSigned 1 [] management = true
    let ok4 := Config.firmwareSigned 2 ((r.drop 0x10).take 64) policy = true
    let fns (st : Nat) : List LaunchFn :=
      [{ LaunchFn.reset 0x10008 0 with status := st }, { LaunchFn.reset 0x10009 0 with status := st }]
    let stop (m : BitVec 256) : Host.Outcome State Fault Refusal :=
      .next { s with boot := { s.boot with measure := m, failed := true }, launchFns := fns 0x40 }
    (¬ok1 → exec (.boot security management policy) s = stop 0) ∧
    (ok1 → ¬ok2 → exec (.boot security management policy) s = stop m1) ∧
    (ok1 → ok2 → recordOk r = false → exec (.boot security management policy) s = stop m2) ∧
    (ok1 → ok2 → recordOk r = true → ¬ok4 → exec (.boot security management policy) s = stop m3) ∧
    (ok1 → ok2 → recordOk r = true → ok4 →
      ∃ t, exec (.boot security management policy) s = .next t ∧ t = { s with
          boot := { s.boot with measure := more m3 policy, booted := true, ethernet := t.boot.ethernet }, fabric := t.fabric
          launchFns := s.launchFns ++ fns 0 } ∧
        t.fabric.pkg = bytesAt r 4 1 ∧ t.fabric.size = bytesAt r 5 1 ∧ t.fabric.groupId.toNat = bytesAt r 8 8 ∧
        t.fabric.livePkgs = List.range (bytesAt r 5 1) ∧ (t.fabric.ladle = true ↔ bytesAt r 4 1 = 0) ∧
        t.fabric.links.map (fun l => l.peer) = (List.range (bytesAt r 5 1)).filter fun p => p != bytesAt r 4 1)) ∧
  (∀ (s : State) (die : Nat), die < 8 →
    ∃ t, exec (.dieReset die) s = .next t ∧ (∀ e ∈ t.tlb, e.die ≠ die) ∧ (∀ c ∈ t.cache, c.die ≠ die) ∧
      (∀ g ∈ s.groups, g.die = die → g.status ≠ .ended → ∀ h, group? t g.gid = some h → h.status = .ended)) ∧
  ∀ s : State, ∃ t, exec .thermalShutdown s = .next t ∧ t.power.off = true ∧ t.agenda = s.agenda ∧
    ((∀ rest, s.agenda ≠ .restart :: rest) → Machine.step t = .fault .poweredOff) ∧
    ∀ rest, s.agenda = .restart :: rest → Machine.step t = .next (restarted { t with agenda := rest })

/-! ### Tasks, slots, regions and pages -/

/-- R63, R65, R70, R176: `launch` writes the handle of the task that its record has become, or 0 where the record is refused, and
sleeps while the dependency tables are full, with what the device has latched; when it runs again it is that which is offered.
R63 to R65, R68, R71, R72, R77: a launch on offer is accepted or refused, which answers it, and its queue goes on; one
that finds no free entry waits with what has been latched; a task without predecessors fires on the eligible die that holds
most of its input; a task whose groups have ended completes: its word is stored, and then its entry is freed and its
successors no longer wait; a failed one cancels them. That a launch which waits for an entry is not checked again is the
model's DESIGN CHOICE (log entry 56), and so is that the completion, a release at .sys, waits for the stores to peers of ALL
other groups (log entry 63). -/
def Obligations.LaunchesAndTasks : Prop :=
  (∀ (s : State) (g : Group), Running s g → g.queue = [] → ∀ (d a : Reg) (s1 : State) (g1 : Group) (r : Accepted),
     (match g.latch with
      | none => acceptTask s g.part (sreg g a).toNat (some (agentOf g).die) none
      | some l => registerTask s g.part l.record (l.regions.map (regionNow s)) (some (agentOf g).die) none) = (s1, r) →
     group? s1 g.gid = some g1 →
     (∀ h, r = .handle h →
       ∃ t g', exec (.launch d a) s = .next t ∧ WroteScalar { g1 with latch := none } g' d (BitVec.ofNat 64 h) ∧ ScalarDone s1 t g1 g' (g1.pc + 4)) ∧
     (∀ o, r = .refused o →
       ∃ t g', exec (.launch d a) s = .next t ∧ WroteScalar g1 g' d 0 ∧ ScalarDone s1 t g1 g' (g1.pc + 4)) ∧
     (∀ l, r = .full l →
       ∃ t, exec (.launch d a) s = .next t ∧ group? t g.gid = some { g1 with status := .waiting, wait := .launch, latch := some l })) ∧
  (∀ (s : State) (part : Nat), halted s part = false →
     (∀ ticket o, (s.offers.find? fun o => o.ticket == ticket) = some o → o.part = part →
       ∀ s1 r, offerTask s o.latch part o.record.toNat none (if o.hold then some o else none) = (s1, r) →
       let s2 := { s1 with offers := s1.offers.filter fun x => x.ticket != ticket }
       (∀ h, r = .handle h → o.hold = false →
         exec (.taskAccept ticket) s = .next (consume 65536 (answerLaunch s2 o 0 h 0) o.fn o.queue)) ∧
       (∀ h, r = .handle h → o.hold = true → exec (.taskAccept ticket) s = .next (consume 65536 s2 o.fn o.queue)) ∧
       (∀ d, r = .refused d → exec (.taskAccept ticket) s = .next (consume 65536 (answerLaunch s2 o 1 0 d) o.fn o.queue)) ∧
       (∀ l, r = .full l → exec (.taskAccept ticket) s = .next { s1 with
         offers := s1.offers.map fun x => if x.ticket == ticket then { x with latch := some l } else x })) ∧
     (∀ record die held, record % 64 ≠ 0 → (acceptTask s part record die held).2 = .refused 0xFFFF) ∧
     ∀ handle k, task? s part handle = some k →
       (k.status = .waiting → k.preds = [] → eligibleDies s k ≠ [] →
         let held (d : Nat) : Word := Sparse.get (inputBytes s k) d
         ∃ d ∈ eligibleDies s k, (∀ e ∈ eligibleDies s k, held e ≤ held d ∧ (held e = held d → d ≤ e)) ∧
           exec (.taskFire part handle) s = .next { putTask s { k with status := .fired, firing := d, fireSeq := s.nextId } with
             nextId := s.nextId + 1 }) ∧
       (k.status = .fired → k.faulted = false → k.ended.length = k.gx * k.gy * k.gz → enginesDone s k = true →
         ∀ g, (s.groups.filter fun g => g.part == part && g.task == handle).head? = some g → ¬OthersOver s g →
         exec (.taskComplete part handle) s = .next (releaseHeld s g)) ∧
       (k.status = .fired → k.faulted = false → k.ended.length = k.gx * k.gy * k.gz → enginesDone s k = true →
         (∀ g, (s.groups.filter fun g => g.part == part && g.task == handle).head? = some g → OthersOver s g) →
         let completed (u t : State) : Prop := t.tasks = (putTask u { k with status := .completed }).tasks
         (k.doneAddr = 0 → ∃ t, exec (.taskComplete part handle) s = .next t ∧ completed s t ∧ SameMemory s t) ∧
         (k.doneAddr ≠ 0 → k.doneAddr.toNat % 8 = 0 → ∀ s1 p,
           resolve s (partUnit part) k.doneAddr.toNat .store = (s1, .ok (.mem p)) → Unwatched s1 p 8 →
           ∃ t, exec (.taskComplete part handle) s = .next t ∧ completed s1 t ∧
             MemoryPut s1 t p (natToBytes 8 k.doneValue.toNat))) ∧
       (k.status = .completed → k.held = none →
         ∃ t, exec (.taskComplete part handle) s = .next t ∧ TaskGone t part handle ∧ SameMemory s t ∧
           t.tasks = (s.tasks.filter fun x => !(x.part == part && x.handle == handle)).map fun x =>
             if x.part == part then { x with preds := x.preds.filter fun h => h != handle } else x) ∧
       (k.status = .fired → k.faulted = true → (∀ g ∈ s.groups, g.part = part → g.task = handle → g.status = .ended) →
         enginesDone s k = true →
         ∃ t, exec (.taskEndFailed part handle) s = .next t ∧ TaskGone t part handle ∧
           ∀ x ∈ t.tasks, x.part = part → handle ∉ x.preds))

/-- R60, R62, R73, R80, R83 to R87, R92: a bind record is staged and committed; a slot is filled from the return list, or with
a new group in its entry state; the routes of a group from the return list are solved anew (R304); on quantum expiry the group
is rotated if another one waits for its slot, once its matrix commands are over; a demand notice goes to its ring. Which free
frames an allocation takes is an operand (DESIGN CHOICE, log entry 12); which groups a demand notice counts, and that a
16-byte store leaves the staged dword, is the model's reading (DEDUCED, log entry 40). -/
def Obligations.SlotSteps : Prop :=
  ∀ (s : State) (die core slot : Nat),
    (∀ v, exec (.bindRecordStage die core slot v) s = .next { s with staged := Sparse.set s.staged (slotIx die core slot) v }) ∧
    (∀ (low : Word) (high : Option Word),
      let v := low.toNat + 2 ^ 64 * (high.getD (Sparse.get s.staged (slotIx die core slot))).toNat
      ∃ t, exec (.bindRecordCommit die core slot low high) s = .next t ∧
        (∀ i, i ≠ slotIx die core slot → Sparse.get t.records i = Sparse.get s.records i) ∧
        (v / 2 ^ 45 % 2 = 1 ∧ recordGood die core slot v → Sparse.get t.records (slotIx die core slot) = BitVec.ofNat 128 v) ∧
        (¬(v / 2 ^ 45 % 2 = 1 ∧ recordGood die core slot v) → Sparse.get t.records (slotIx die core slot) = 0)) ∧
    (∀ (frames : List Nat) (gid : Nat) (g : Group), pickFor s [] die core slot = some (.ready gid) → group? s gid = some g → g.saved = false →
      ∃ t g', exec (.slotFill die core slot frames) s = .next t ∧ group? t gid = some g' ∧
        latched s { g with perms := g.perms.map fun q => { q with solving := true } } g' die core slot) ∧
    (∀ (frames : List Nat) (part handle index : Nat) (k : Task), pickFor s [] die core slot = some (.new part handle index) →
      task? s part handle = some k → ((cohortOn s k die).isSome = true ∨ framesOk s die (granules k.scratch) frames = true) →
      ∃ t gid g' cohort, exec (.slotFill die core slot frames) s = .next t ∧ group? t gid = some g' ∧
        latched s (groupEntry k gid index die cohort none) g' die core slot) ∧
    (∀ g, groupIn s die core slot = some g → (g.quantum ≠ 0 ∨ g.rotating = true) →
      (cmdsDone g = true → rotationDue s g die core slot = false →
        exec (.quantumExpiry die core slot) s = .next (if g.rotating then putGroup s { g with rotating := false } else s)) ∧
      (cmdsDone g = true → rotationDue s g die core slot = true →
        ∃ t, rotate s g die core slot = some t ∧ exec (.quantumExpiry die core slot) s = .next t) ∧
      (cmdsDone g = false →
        exec (.quantumExpiry die core slot) s = .next (if g.rotating = false ∧ rotationDue s g die core slot = true then
          putGroup s { g with rotating := true } else s))) ∧
    ∀ part region r, 0 < demandOf s die part region → s.demand8 = some r → s.demand9 = none →
      let entry := r.base + 0x40 + r.produced % r.entries * 16
      (∀ a, a = r.base ∨ a = r.base + 8 ∨ a = entry →
        pageOwned s 0 a = true ∧ beingZeroed s a = false ∧ lineBad s (.mem a) = false) →
      (∀ c, c = Sparse.readLE s.mem (r.base + 8) 8 → c ≤ r.produced ∧ r.produced - c < r.entries) →
      ∃ t, exec (.demandNotice die part region) s = .next t ∧ t.demand8 = some { r with produced := r.produced + 1, gap := false } ∧
        Sparse.readLE t.mem r.base 8 = (r.produced + 1) % 2 ^ 64 ∧
        Sparse.getRange t.mem entry 16 = natToBytes 4 region ++ natToBytes 1 part ++ natToBytes 1 die ++ natToBytes 2 0 ++
          natToBytes 4 (demandOf s die part region) ++ natToBytes 4 (slotsMatching s die part region)

/-- R46, R53, R54, R267, R386, R387, R390: a region's counters are written to its counter area; a region that is done is torn
down, with its final counters and its parked tiles gone; a fresh page is zero, belongs to its partition and is fresh no more;
an energy window counts slot-cycles and whole millijoules, also of a region torn down in it. Of these the following are the
model's, not the spec's: that a region of a partition that is being reset is torn down only after the reset (DEDUCED, log
entry 58); that slot-cycles and energy are operands of the window and advance only then, and how a share is rounded (DESIGN
CHOICE, log entry 18). -/
def Obligations.RegionSteps : Prop :=
  ∀ (s : State),
    (∀ part id r, region? s part id = some r →
      let counters (t : State) : Prop := ∀ a, Sparse.get t.mem a =
        if r.counterPlace ≤ a ∧ a < r.counterPlace + 2048 then
          (Sparse.get r.counters ((a - r.counterPlace) / 8)).extractLsb' (8 * ((a - r.counterPlace) % 8)) 8
        else Sparse.get s.mem a
      let home := r.counterPlace ≠ noCounters ∧ pageOwned s part r.counterPlace = true ∧ beingZeroed s r.counterPlace = false ∧
        rangeBad s r.counterPlace 2048 = false
      let resets := ∃ p, part? s part = some p ∧ p.st = .resetting
      (home → ∃ t, exec (.counterAreaUpdate part id) s = .next t ∧ counters t) ∧
      (r.counterPlace = noCounters → exec (.counterAreaUpdate part id) s = .next s) ∧
      (beingZeroed s r.counterPlace = false → pageOwned s part r.counterPlace = false →
        exec (.counterAreaUpdate part id) s = .next s) ∧
      (regionDone s r = true → ¬resets → ∃ t, exec (.regionTeardown part id) s = .next t ∧
        (home → counters t) ∧ (r.counterPlace = noCounters → SameMemory s t) ∧ region? t part id = none ∧
        ∀ p ∈ t.parks, ¬(p.part = part ∧ p.region = id)) ∧
      (regionDone s r = false ∨ resets → exec (.regionTeardown part id) s = .next s)) ∧
    (∀ base j, (s.zeroing.find? fun j => j.base == base) = some j → (j.entry + 8 ≤ base ∨ base + j.size ≤ j.entry) →
      ∃ t, exec (.freshPageZeroed base) s = .next t ∧
        (∀ a, base ≤ a → a < base + j.size → Sparse.get t.mem a = 0) ∧
        (∀ a, ¬(base ≤ a ∧ a < base + j.size) → ¬(j.entry ≤ a ∧ a < j.entry + 8) → Sparse.get t.mem a = Sparse.get s.mem a) ∧
        (∀ k < 64, (BitVec.ofNat 64 (Sparse.readLE t.mem j.entry 8)).getLsbD k =
          ((BitVec.ofNat 64 (Sparse.readLE s.mem j.entry 8)).getLsbD k && k != 5)) ∧
        (∀ n, j.base / 0x10000 ≤ n → n < j.base / 0x10000 + j.size / 0x10000 → Sparse.get t.owners n = BitVec.ofNat 8 (0x80 + j.part)) ∧
        ∀ x ∈ t.zeroing, x.base ≠ base) ∧
    (∀ die uj (l : List (Nat × Nat × Nat)), die < 8 →
      ∃ t, exec (.energyWindow die uj l) s = .next t ∧ SameMemory s t ∧ t.groups = s.groups ∧
        let cycles (part id : Nat) : Word := BitVec.ofNat 64 (l.foldl (fun n x => if x.1 = part ∧ x.2.1 = id then n + x.2.2 else n) 0)
        (∀ part id, (region? s part id).isSome = true → counterOf t part id 0x0E = counterOf s part id 0x0E + cycles part id) ∧
        ∀ (k : Nat) (r : Region), s.regions[k]? = some r → region? s r.part r.id = none → ∃ r' : Region, t.regions[k]? = some r' ∧
          Sparse.get r'.counters 0x0E = Sparse.get r.counters 0x0E + cycles r.part r.id) ∧
    ∀ die uj part id c, die < 8 → 0 < c → (region? s part id).isSome = true →
      let all := energyRest s (die * 64 + part) id + uj
      ∃ t, exec (.energyWindow die uj [(part, id, c)]) s = .next t ∧
        counterOf t part id 0x0F = counterOf s part id 0x0F + BitVec.ofNat 64 (all / 1000) ∧
        energyRest t (die * 64 + part) id = all % 1000

/-! ### Leases, pre-emption, migration, translation and power -/

/-- R25, R26, R376 to R379: a lease write that takes nothing off takes effect at once, any other waits for the groups it takes
off; a pre-emption request starts from a good value while no request of its die is under way and nothing drains where it would
act; on a die it saves, drains or discards the groups it affects (those that may be discarded, R61; the rest are saved), and
with them count as saved those that trapped in the same cycle; draining groups are saved at the deadline; a cohort moves to
its new frames, and with the last die the status is written. -/
def Obligations.PreemptionSteps : Prop :=
  ∀ (s : State) (die : Nat), die < 8 →
    (∀ v, (∀ j ∈ s.leaseJobs, j.die ≠ die) → leaseHeld s die = false →
      (takenOff s die v = [] → ∃ t, exec (.leaseWrite die v) s = .next t ∧ Sparse.get t.lease die = v ∧
        t = { s with lease := t.lease } ∧ ∀ d, d ≠ die → Sparse.get t.lease d = Sparse.get s.lease d) ∧
      (takenOff s die v ≠ [] → ∃ t, exec (.leaseWrite die v) s = .next t ∧ t.lease = s.lease ∧
        t.leaseJobs = s.leaseJobs ++ [⟨die, v, boundOn s die (takenOff s die v), none⟩])) ∧
    (∀ j rest, s.leaseJobs = j :: rest → j.die = die → j.waitFor = [] → (j.owner = none → leaseHeld s die = false) →
      (∀ k ∈ rest, k.die ≠ die) →
      ∃ t, exec (.leaseClearComplete die) s = .next t ∧ Sparse.get t.lease die = j.value ∧ t.leaseJobs = rest) ∧
    (∀ v : Word, let n := v.toNat
      n / 2 ^ 4 % 256 ≤ 191 → n / 2 ^ 15 % 2 = 0 → n / 2 ^ 25 % 128 = 0 →
      ∀ f ∈ [(Instr.preemptByDeadline die v, 0), (Instr.preemptSave die v, 1), (Instr.preemptReplace die v, 2)],
        (n / 2 ^ 19 % 8 = f.2 → ¬requestMet s die n → exec f.1 s = .next { s with
          nextId := s.nextId + 1, pre820 := Sparse.set s.pre820 die v, pre822 := Sparse.set s.pre822 die 1
          preempts := s.preempts ++ [⟨s.nextId, die, v, (Sparse.get s.pre821 die).toNat % 2 ^ 32,
            (if n / 2 ^ 16 % 4 = 3 then List.range 8 else [n / 2 ^ 12 % 8]).map fun d =>
              ⟨d, false, [], [], [], false, false, false, false⟩⟩] }) ∧
        (n / 2 ^ 19 % 8 ≠ f.2 ∨ requestMet s die n → exec f.1 s = .next s)) ∧
    ∀ request q, (s.preempts.find? fun q => q.id == request) = some q →
      let gs := affected s q die
      let v := q.value.toNat
      let dieIs (x : PreDie → PreDie) : State := { s with preempts := s.preempts.map fun p =>
        if p.id == request then { p with dies := p.dies.map fun y => if y.die == die then x y else y } else p }
      (∀ same seats, (∃ x ∈ q.dies, x.die = die ∧ x.arrived = false) →
        let ts := trappedWith s q die same seats
        let arrive (f : PreDie → PreDie) : State := dieIs fun x => f { x with arrived := true, saved := !ts.isEmpty }
        (v / 2 ^ 19 % 8 = 2 →
          let cs := ((gs ++ ts).map fun g => g.cohort).eraseDups
          exec (.preemptRequestArrive request die same seats) s = .next (arrive fun x => { x with
            cohorts := cs, saving := (s.groups.filter fun g => cs.contains g.cohort && isBound g).map fun g => g.gid })) ∧
        (v / 2 ^ 19 % 8 ≠ 2 →
          (preChoice s v die gs = .save → exec (.preemptRequestArrive request die same seats) s =
            .next (arrive fun x => { x with saving := gs.map fun g => g.gid })) ∧
          (preChoice s v die gs = .drain → exec (.preemptRequestArrive request die same seats) s =
            .next (arrive fun x => { x with draining := gs.map fun g => g.gid })) ∧
          (preChoice s v die gs = .discard → (∀ g ∈ gs, discardable s g = false) →
            exec (.preemptRequestArrive request die same seats) s =
              .next (arrive fun x => { x with saving := gs.map fun g => g.gid, discarded := false })) ∧
          (preChoice s v die gs = .discard → (∃ g ∈ gs, discardable s g = true) → (∀ g ∈ gs, group? s g.gid = some g) →
            ∃ t, exec (.preemptRequestArrive request die same seats) s = .next t ∧ Discards s t gs ∧
              ∀ p ∈ t.preempts, p.id = request → ∀ x ∈ p.dies, x.die = die → x.arrived = true ∧ x.discarded = true ∧
                ∀ g ∈ gs, discardable s g = true → g.gid ∉ x.saving))) ∧
      (v / 2 ^ 19 % 8 ≠ 0 ∨ v / 2 ^ 32 % 2 ^ 32 = 0 → preChoice s v die gs = .save) ∧
      (v / 2 ^ 19 % 8 = 0 → v / 2 ^ 32 % 2 ^ 32 ≠ 0 → (∃ g ∈ gs, ∀ k, task? s g.part g.task = some k → k.spans = []) →
        preChoice s v die gs =
          if gs.foldl (fun n g => n + 384 * dirtyLines g + 16384 * g.tcount) 0 + 400000 ≤ 2000 * (v / 2 ^ 32 % 2 ^ 32) then .save
          else .discard) ∧
      exec (.preemptDeadlineExpiry request die) s = .next (dieIs fun x => { x with draining := [], saving := x.saving ++ x.draining }) ∧
      (∀ cohort c k frames, cohort? s cohort = some c → (∃ x ∈ q.dies, cohort ∈ x.cohorts) →
        (∀ g ∈ s.groups, g.cohort = cohort → g.status ≠ .ended →
          isBound g = false ∧ cmdsDone g = true ∧ peersDone g = true ∧ g.saved = true) →
        task? s c.part c.task = some k → replaceFails s k c (v / 2 ^ 22 % 8) = false →
        framesOk s (v / 2 ^ 22 % 8) (granules k.scratch) frames = true →
        ∃ t c', exec (.cohortReplace request cohort frames) s = .next t ∧ cohort? t cohort = some c' ∧
          c' = { c with die := v / 2 ^ 22 % 8, frames := frames } ∧ SameMemory s t ∧
          t.groups = s.groups.map fun g => if g.cohort == cohort then { g with die := v / 2 ^ 22 % 8 } else g) ∧
      ((∀ x ∈ q.dies, x.arrived = true ∧ x.draining = [] ∧ x.saving = [] ∧ x.cohorts = [] ∧ x.die < 8) →
        ∃ t, exec (.preemptRequestComplete request []) s = .next t ∧ t = { s with preempts := t.preempts, pre822 := t.pre822 } ∧
          (∀ p ∈ t.preempts, p.id ≠ request) ∧
          ∀ k < 8, let r := Sparse.get t.pre822 q.die
            r.getLsbD k = false ∧ r.getLsbD (8 + k) = dieMask q (fun x => x.drained) k ∧
            r.getLsbD (16 + k) = dieMask q (fun x => x.saved) k ∧
            r.getLsbD (24 + k) = dieMask q (fun x => x.discarded) k ∧ r.getLsbD (32 + k) = false ∧
            r.getLsbD (40 + k) = dieMask q (fun x => x.replaceFailed) k)

/-- R246, R306, R378, R383, R384: a bound group that is to be saved gives up its slot with its image written, once its
commands are over and its peers have answered; a stop completes when no group of the partition holds a slot or waits for a
peer: its copies are aborted, no switch is left, the contexts are numbered by task and index; a sealed object goes to its
destination and then its completion value, or on a failure the inverted one. -/
def Obligations.SaveSteps : Prop :=
  ∀ (s : State),
    (∀ gid g d c n, group? s gid = some g → g.status = .bound d c n → beingSaved s g = true →
      (cmdsDone g = true → peersDone g = true → ∃ t g', exec (.groupSaveComplete gid) s = .next t ∧ group? t gid = some g' ∧ g'.status = .ready ∧
        g'.pc = g.pc ∧ g'.scalars = g.scalars ∧ g'.vregs = g.vregs ∧ g'.tiles = g.tiles ∧
        (g.image.isSome = true → (part? s g.part).isSome = true → g'.saved = true) ∧
        ∀ q ∈ t.preempts, ∀ x ∈ q.dies, gid ∉ x.saving) ∧
      (cmdsDone g = false ∨ peersDone g = false → exec (.groupSaveComplete gid) s = .next s)) ∧
    (∀ part p, part? s part = some p →
      (p.stopping = true → (∀ g ∈ s.groups, g.part = part → isBound g = false ∧ cmdsDone g = true ∧ peersDone g = true) →
        ∃ t p', exec (.stopComplete part) s = .next t ∧ part? t part = some p' ∧ p'.stopping = false ∧ p'.stopped = true ∧
          p'.contexts = (contextOrder s part).map (fun g => g.gid) ∧
          (∀ h ∈ t.groups, h.part = part → ∀ c ∈ h.copies, copyOver c = true) ∧
          (∀ k, table? t part = some k → k.switch = none) ∧
          ∀ g ∈ s.groups, g.wait = .stop part → g.status = .waiting → ∃ h, group? t g.gid = some h ∧ h.status = .ready) ∧
      ((p.stopping = false ∨ ∃ g ∈ s.groups, g.part = part ∧ (isBound g = true ∨ peersDone g = false)) → exec (.stopComplete part) s = .next s)) ∧
    ∀ ticket j p, (s.seals.find? fun j => j.ticket == ticket) = some j → part? s j.part = some p →
      let w : Writer := ⟨2, 0, 0, 0, 8, 192, 0⟩
      ∀ s0 payload, sealPayload { s with seals := s.seals.filter fun x => x.ticket != ticket } p j = (s0, payload) →
      (∀ bs s1, payload = some bs → devSet s0 w j.dest (sealedObject p j.kind j.round j.object 0 bs) = (s1, true) →
        exec (.sealComplete ticket) s = .next (devSet
          { s1 with parts := s1.parts.map fun x => if x.id == p.id then noteObject x j.kind j.object j.round else x }
          w j.word (natToBytes 8 j.value.toNat)).1) ∧
      (∀ bs s1, payload = some bs → devSet s0 w j.dest (sealedObject p j.kind j.round j.object 0 bs) = (s1, false) →
        exec (.sealComplete ticket) s = .next (devSet s1 w j.word (natToBytes 8 (~~~j.value).toNat)).1) ∧
      (payload = none → exec (.sealComplete ticket) s = .next (devSet s0 w j.word (natToBytes 8 (~~~j.value).toNat)).1)

/-- R266, R268, R411 (that the low 16 bits of a stage-2 root are dropped is DEDUCED, log entry 35; that a descriptor of the
other stage is malformed is DEDUCED, log entry 34; that a message goes out whenever the group has more packages, and that this
package's acknowledgement is its own event, is DEDUCED, log entry 32): a stage-2 root is written, and the partition's cached
translations of the stage go, which lasts as long as accesses to peers are on the way; a request to invalidate of an owner or
of the operator goes out, or a malformed one completes with all ones; with the last package's acknowledgement it writes its
completion value; an operating point is written, settles at its target, and is clamped and released. -/
def Obligations.TranslationAndPower : Prop :=
  (∀ (s : State) (part : Nat) (p : Part) (v : Word), part < 64 → part? s part = some p →
    let s1 := { putPart s { p with stage2 := v.toNat / 0x10000 * 0x10000 } with tlb := s.tlb.filter fun e => e.part != part }
    exec (.stage2RootWrite part v) s = .next (if ticketsOut s part = [] then s1 else { s1 with
      nextId := s.nextId + 1
      invals := s.invals ++ [⟨s.nextId, none, 0, 0, part, 2, 0, 0, true, true, ticketsOut s part, [], s.fabric.pkg⟩] })) ∧
  (∀ (s s0 : State) (owner : Option Nat) (who : Option Part) (desc kind : Nat) (bs : List Byte),
    ((owner = none ∧ who = none) ∨ ∃ fn p, owner = some fn ∧ mailboxPart s fn = some p ∧ who = some p) →
    issuerGet s who desc 64 = (s0, some bs) →
    ∀ i, ((i = .invalidateAll owner desc ∧ kind = 0) ∨ (i = .invalidateRange owner desc ∧ kind = 1)) →
    let part := match who with
      | some p => p.id
      | none => bytesAt bs 1 1 % 64
    (invalOk who.isSome bs = true → bytesAt bs 2 2 = kind → 1 < s0.fabric.size →
      exec i s = .next { s0 with
        nextId := s0.nextId + 1
        invals := s0.invals ++ [⟨s0.nextId, who.map fun p => p.id, bytesAt bs 0x18 8, BitVec.ofNat 64 (bytesAt bs 0x20 8), part,
          bytesAt bs 0 1, bytesAt bs 8 8, if kind = 0 then 0 else bytesAt bs 0x10 8, false, false, [], [], s0.fabric.pkg⟩]
        fabric := { s0.fabric with queue := s0.fabric.queue ++ [(s0.nextId,
          ⟨3, part, s0.fabric.pkg, 0, 0, desc, List.replicate 16 0, []⟩)] } }) ∧
    (invalOk who.isSome bs = true → bytesAt bs 2 2 ≠ kind → exec i s = .next s0) ∧
    (invalOk who.isSome bs = false → exec i s = .next (issuerWrite s0 who (bytesAt bs 0x18 8) (List.replicate 8 0xFF)))) ∧
  (∀ (s : State) (ticket pkg : Nat) (j : InvalJob),
    (s.invals.find? fun j => j.ticket == ticket && mayAcknowledge s j pkg) = some j →
    let j1 := { j with acks := pkg :: j.acks }
    let rest := s.invals.filter fun x => x.ticket != ticket
    (allAcknowledged s j1 = false → exec (.invalidationAcknowledge ⟨ticket, pkg⟩) s = .next { s with invals := rest ++ [j1] }) ∧
    (allAcknowledged s j1 = true → j.root = true → exec (.invalidationAcknowledge ⟨ticket, pkg⟩) s = .next { s with invals := rest }) ∧
    (allAcknowledged s j1 = true → j.root = false → j.owner = none → rangeBad s j.addr 8 = false →
      (∀ a, j.addr ≤ a → a < j.addr + 8 → pageOwned s 0 a = true ∧ beingZeroed s a = false) →
      ∃ t, exec (.invalidationAcknowledge ⟨ticket, pkg⟩) s = .next t ∧ t.invals = rest ∧
        MemoryPut s t j.addr (natToBytes 8 j.value.toNat))) ∧
  ∀ (s : State) (die : Nat), die < 8 →
    let r := (Sparse.get s.power.reg die).toNat
    let point (s : State) : Nat := (Sparse.get s.power.reg die).toNat
    let others (t : State) : Prop := ∀ d, d ≠ die → Sparse.get t.power.reg d = Sparse.get s.power.reg d
    (∀ v : Word, ∃ t, exec (.operatingPointWrite die v) s = .next t ∧ point t = r / 2 ^ 8 * 2 ^ 8 + v.toNat % 2 ^ 8 ∧ others t) ∧
    (∃ t, exec (.operatingPointSettle die) s = .next t ∧ point t / 2 ^ 8 % 16 = targetPoint s die ∧ point t % 2 ^ 8 = r % 2 ^ 8 ∧
      others t) ∧
    (∃ t, exec (.thermalClamp die) s = .next t ∧ point t = (if r / 2 ^ 13 % 2 = 1 then r else r + 2 ^ 13) ∧ others t ∧
      targetPoint t die = 1) ∧
    ∃ t, exec (.thermalClampRelease die) s = .next t ∧ point t = (if r / 2 ^ 13 % 2 = 1 then r - 2 ^ 13 else r) ∧ others t

/-! ### The fabric and the Creamline -/

/-- R331 to R333, R335, R412: allowances arrive; the parking register is written, parks by itself and wakes; a wavelength and
a fibre leave service, the outbound stream without a live fibre going through the lowest live peer that is reached, and of an
inbound one nothing is performed before its drain marker, and its held releases and the messages received of its sender wait
for nothing once no path leads here; and the stream returns to its fibres. Of these the following are the model's reading:
that a wake clears the register's parked bits (DEDUCED, log entry 40); which package relays and when a path leads to a peer
(`relayFor`, `inboundLive`; DEDUCED, log entry 33); that a release and a message name the stores that they count by their
positions too (DEDUCED, log entry 31).
R263, R316, R318, R330, R331, R333 to R336, R341: a peer's request whose stamp has been applied and that nothing holds
back is performed at home with its reply, its position arrives and its allowance is used up; a duplicate is dropped; a release
with stores still missing, or one behind a marker or behind held bytes, is held, and performed when it may be; an answer
reaches its access, takes the older line that its core holds out of the load cache, and may put a whole new one there; one
that comes too late is dropped and counted; an access that no path leads to fails with 0x15, and no message still in the queue
counts its store. The form of requests and replies, and that a peer may send a whole line, are the model's (DESIGN CHOICE, log
entries 4 and 9); the positions of the stores that a release covers are its reading (DEDUCED, log entry 31), and so is the
cause 0x12 of a read of a partition that is being reset (DEDUCED, log entry 43). -/
def Obligations.LinkAndPeerSteps : Prop :=
  (∀ (s : State) (peer : Nat),
     (∀ part units, ∃ t, exec (.allowanceGrant ⟨peer, part⟩ units) s = .next t ∧
       t = { s with fabric := { s.fabric with links := t.fabric.links } } ∧
       ∀ k q, allowanceOf t k q = if k = peer ∧ q = part ∧ (link? s peer).isSome then (allowanceOf s k q + units) % 2 ^ 32
         else allowanceOf s k q) ∧
     (∀ v, LinkBecomes s (.parkingWrite peer v) peer fun l => { l with parking := v &&& 0xFFFFFFFF0001FFFF }) ∧
     LinkBecomes s (.autoPark peer) peer (fun l =>
       if l.parking.getLsbD 16 then { l with parking := l.parking ||| 0xFFFE } else l) ∧
     LinkBecomes s (.wavelengthWake peer) peer (fun l => { l with parking := l.parking &&& 0xFFFFFFFFFFFF0000 }) ∧
     ∀ l, link? s peer = some l → ∀ fibre, fibre < fibresPerPeer s →
       (∀ outbound wave, wave < 16 →
         let lost := if outbound then l.outLost else l.inLost
         (fibre, wave) ∉ lost → (lost.filter fun x => x.1 == fibre).length < 15 →
         LinkBecomes s (.ringLockLoss peer outbound fibre wave) peer fun x =>
           let add (y : List (Nat × Nat)) : List (Nat × Nat) := if (fibre, wave) ∈ y then y else y ++ [(fibre, wave)]
           if outbound then { x with outLost := add x.outLost } else { x with inLost := add x.inLost }) ∧
       (∀ outbound wave, wave < 16 →
         let lost := if outbound then l.outLost else l.inLost
         (fibre, wave) ∉ lost → (lost.filter fun x => x.1 == fibre).length = 15 →
         ∃ t m, exec (.ringLockLoss peer outbound fibre wave) s = .next t ∧ OnlyFabric s t ∧ link? t peer = some m ∧
           fibre ∈ if outbound then m.outDown else m.inDown) ∧
       (∃ t m, exec (.fibreFail peer true fibre) s = .next t ∧ OnlyFabric s t ∧ link? t peer = some m ∧ fibre ∈ m.outDown ∧
         m.inDown = l.inDown ∧ m.marker = l.marker ∧ (outLive t m = true ∨ m.relay = relayFor t peer)) ∧
       (∃ t m, exec (.fibreFail peer false fibre) s = .next t ∧ OnlyFabric s t ∧ link? t peer = some m ∧ fibre ∈ m.inDown ∧
         m.outDown = l.outDown ∧ (m.inDown.length = fibresPerPeer s → l.inDown.length ≠ fibresPerPeer s → m.marker = true) ∧
         (inboundLive t m = false → (∀ h ∈ m.held, releaseWaits m h = false) ∧
           ∀ x ∈ t.fabric.received, x.2.sender = peer → coverHere t x.2 = [] ∧ x.2.counts.getD t.fabric.pkg 0 = 0)) ∧
       (0 < fibresPerPeer s →
         ∃ t m, exec (.streamReturnToDirectPath peer) s = .next t ∧ OnlyFabric s t ∧ link? t peer = some m ∧
           outLive t m = true ∧ inLive t m = true ∧ m.relay = none ∧ (inLive s l = false → m.marker = true))) ∧
  ((∀ (s : State) (r : PeerRequest) (l : Link), link? s r.source = some l →
     (s.fabric.applied < r.stamp ∨ beingZeroed s r.addr = true ∨ duplicate l r = true) → exec (.peerRequestArrive r) s = .next s) ∧
   (∀ (s : State) (r : PeerRequest) (l : Link), link? s r.source = some l → r.stamp ≤ s.fabric.applied → beingZeroed s r.addr = false →
     duplicate l r = false →
     ((l.marker = true ∨ releaseWaits l r = true ∨ ∃ h ∈ l.held, requestsMeet r h = true) →
       LinkBecomes s (.peerRequestArrive r) r.source fun x => { x with held := x.held ++ [r] }) ∧
     (l.marker = false → releaseWaits l r = false → (∀ h ∈ l.held, requestsMeet r h = false) → PeerMay s r →
       (r.op ≠ .write → Resetting s r.part → ∃ t, exec (.peerRequestArrive r) s = .next t ∧ SameMemory s t ∧
         t.fabric.reply = (false, [0x12])) ∧
       (r.op = .read → ¬Resetting s r.part → ∃ t, exec (.peerRequestArrive r) s = .next t ∧ SameMemory s t ∧
         t.fabric.reply = (true, Sparse.getRange s.mem r.addr r.size)) ∧
       (r.op = .write → r.data.length = r.size → Unwatched s r.addr r.size →
         ∃ t, exec (.peerRequestArrive r) s = .next t ∧ MemoryPut s t r.addr r.data ∧ t.fabric.reply = (true, []) ∧
           ∀ x, link? t r.source = some x → arrivedPos x r.pos = true ∧ (∀ p, arrivedPos l p = true → arrivedPos x p = true) ∧
             Sparse.get x.granted r.part = BitVec.ofNat 32 ((Sparse.get l.granted r.part).toNat - max 1 ((r.size + 255) / 256))) ∧
       (∀ op, r.op = .atomic op → ¬Resetting s r.part → Unwatched s r.addr r.size →
         let old := Sparse.readLE s.mem r.addr r.size
         ∃ t, exec (.peerRequestArrive r) s = .next t ∧ t.fabric.reply = (true, natToBytes r.size old) ∧
           MemoryPut s t r.addr (natToBytes r.size (amoNew op r.size old (bytesAt r.data 0 r.size) (bytesAt r.comparand 0 r.size))))) ∧
     (l.marker = false → releaseWaits l r = false → (∀ h ∈ l.held, requestsMeet r h = false) → functionGone s r.part = true →
       ∃ t, exec (.peerRequestArrive r) s = .next t ∧ SameMemory s t ∧ t.fabric.reply = (false, [0x15])) ∧
     (l.marker = false → releaseWaits l r = false → (∀ h ∈ l.held, requestsMeet r h = false) → functionGone s r.part = false →
       pageOwned s r.part r.addr = false → ∃ t, exec (.peerRequestArrive r) s = .next t ∧ t.fabric.reply = (false, [0x13]))) ∧
   (∀ (s : State) (source : Nat) (l : Link), link? s source = some l →
     (l.held = [] → l.marker = true → LinkBecomes s (.drainMarkerArrive source) source fun x => { x with marker := false }) ∧
     (l.marker = false → exec (.drainMarkerArrive source) s = .next s) ∧
     (l.marker = true → exec (.streamReleasePerform source) s = .next s) ∧
     (∀ r, l.marker = false → l.held = [r] → releaseWaits l r = false → beingZeroed s r.addr = false → r.op = .write →
       r.data.length = r.size → PeerMay s r → Unwatched s r.addr r.size →
       ∃ t, exec (.streamReleasePerform source) s = .next t ∧ MemoryPut s t r.addr r.data ∧
         ∃ x, link? t source = some x ∧ x.held = [])) ∧
   (∀ (s : State) (ticket : Nat) (x : Nat × Nat), asker s ticket = none → (s.fabric.late.find? fun x => x.1 == ticket) = some x →
     ∀ ok data, ∃ t, exec (.peerReplyArrive ticket ok data) s = .next t ∧ OnlyFabric s t ∧ (∀ y ∈ t.fabric.late, y.1 ≠ ticket) ∧
       ∀ l, link? s x.2 = some l → link? t x.2 = some { l with dropped := min (l.dropped + 1) (2 ^ 32 - 1) }) ∧
   ∀ (s : State) (ticket : Nat) (g : Group) (p : PeerAccess), asker s ticket = some (g, p) → group? s g.gid = some g →
     let answered (ok : Bool) (data : List Byte) : Group :=
       if p.op = .write then { g with peers := g.peers.filter fun x => x.ticket != ticket }
       else { g with peers := g.peers.map fun x => if x.ticket == ticket then { x with reply := some (ok, data) } else x }
     let isLine (data : List Byte) : Prop := p.op = .read ∧ data.length = 128 ∧ p.size < 128
     let failed (g : Group) (c : Nat) : Group :=
       { g with peers := g.peers.filter fun x => x.ticket != ticket, pend := withFault g.pend ticket { p.entry with cause := c } }
     let gone : Group := { g with peers := g.peers.filter fun x => x.ticket != ticket }
     let unsent (t : State) (g : Group) : Prop :=
       t = { s with groups := t.groups, cache := t.cache, fabric := { s.fabric with queue := t.fabric.queue } } ∧
         group? t g.gid = some { g with stores := g.stores.filter fun x => x != (p.pkg, p.pos) } ∧
         ∀ x ∈ t.fabric.queue, (p.pkg, p.pos) ∉ x.2.marks
     (∀ data kept, (s.fabric.pkg, g.part) ∉ s.fabric.tornDown → p.copy = 0 → p.redone = false →
       ((isLine data ∧ kept = (data.drop (p.addr % 128)).take p.size) ∨ (¬isLine data ∧ kept = data)) →
       ∃ t, exec (.peerReplyArrive ticket true data) s = .next t ∧
         t = { s with groups := t.groups, regions := t.regions, cache := t.cache } ∧
         (p.op = .write → t.cache = s.cache) ∧ (p.op ≠ .write → AnswerCached s t g p (isLine data) data) ∧
         group? t g.gid = some (answered true kept) ∧ CountedIn s t g.part g.region 0x0C data.length) ∧
     (∀ data, (s.fabric.pkg, g.part) ∉ s.fabric.tornDown → p.copy = 0 → p.redone = true →
       ∃ t, exec (.peerReplyArrive ticket true data) s = .next t ∧ t = { s with groups := t.groups, regions := t.regions } ∧
         group? t g.gid = some gone ∧ CountedIn s t g.part g.region 0x0C data.length) ∧
     (∀ data, (s.fabric.pkg, g.part) ∉ s.fabric.tornDown → p.copy = 0 → p.redone = false → p.op = .write →
       ∃ t, exec (.peerReplyArrive ticket false data) s = .next t ∧ t = { s with groups := t.groups, regions := t.regions } ∧
         group? t g.gid = some (failed g (replyCause data))) ∧
     (∀ ok data, (s.fabric.pkg, g.part) ∈ s.fabric.tornDown → LinkBecomes s (.peerReplyArrive ticket ok data) p.pkg fun l =>
       { l with dropped := min (l.dropped + 1) (2 ^ 32 - 1) }) ∧
     (reachable s p.pkg g.part = true → exec (.peerUnreachableTimeout ticket) s = .next s) ∧
     (reachable s p.pkg g.part = false → p.redone = false → p.op ≠ .write →
       ∃ t, exec (.peerUnreachableTimeout ticket) s = .next t ∧ unsent t (answered false [0x15]) ∧
         (p.copy ≠ 0 → t.cache = s.cache) ∧ (p.copy = 0 → AnswerCached s t g p False [])) ∧
     (reachable s p.pkg g.part = false → p.redone = false → p.op = .write → p.copy = 0 →
       ∃ t, exec (.peerUnreachableTimeout ticket) s = .next t ∧ unsent t (failed g 0x15) ∧ t.cache = s.cache))

/-- R268, R317, R336, R339, R342, R356, R359: the next message in sequence is applied by its kind: a release as nothing more;
an arrival at a barrier, which the last one completes; an invalidation, of this package or of a peer, to which this package
owes an acknowledgement then; a version notice; a teardown notice, with which the load caches' lines of that package go. A
message whose stores have not all arrived is not applied. That a peer's invalidation removes every entry of the partition is
the model's reading (DEDUCED, log entry 32), and so is that a message names the stores it counts by their positions too
(`coverHere`, DEDUCED, log entry 31).
R337, R338, R340: the ladle arrives at its next holder, this package or a peer, which puts a frame on the medium or passes
it on; a good frame of the holder in sequence is received, its messages taking their sequences in order; a bad one changes
nothing; when all have acknowledged it its messages may be applied, and the ladle passes or the next frame follows; after
silence the former holder, be it this package or another, is in the group no more, and the lowest live package holds a new
ladle, with which it sends or passes it on at once if it is this one. -/
def Obligations.CreamlineSteps : Prop :=
  (∀ (s : State) (seq : Nat) (m : CreamMsg), NextMessage s seq m →
     (m.kind = 1 → ∃ t, exec .releaseMessageApply s = .next t ∧ Applied t seq ∧ SameMemory s t ∧ t.parts = s.parts ∧ t.tlb = s.tlb) ∧
     (m.kind = 2 →
       let b := barrierOf s m.part m.barrier
       let count := if b.arrived = 0 then m.count else b.count
       ∃ t, exec .barrierMessageApply s = .next t ∧ Applied t seq ∧ SameMemory s t ∧
         (count ≤ b.arrived + 1 → (barrierOf t m.part m.barrier).arrived = 0 ∧
           ∀ gid ∈ b.joined ++ arrivers s seq, ∀ g, group? s gid = some g →
             ∃ h, group? t gid = some h ∧ h.wait = .done (BitVec.ofNat 64 seq)) ∧
         (b.arrived + 1 < count → barrierOf t m.part m.barrier =
           ⟨m.part, m.barrier, count, b.arrived + 1, b.joined ++ arrivers s seq⟩)) ∧
     (m.kind = 3 → (∀ x ∈ s.fabric.sent, x.2 ≠ seq) →
       ∃ t, exec .invalidationMessageApply s = .next t ∧ Applied t seq ∧ (t.tlb = s.tlb.filter fun e => e.part != m.part) ∧
         t.invals = s.invals ++ [⟨s.nextId, none, 0, 0, m.part, 1, 0, 0, true, true, ticketsOut s m.part, [], m.sender⟩]) ∧
     (∀ x j, m.kind = 3 → (s.fabric.sent.find? fun x => x.2 == seq) = some x → (s.invals.find? fun j => j.ticket == x.1) = some j →
       ∃ t, exec .invalidationMessageApply s = .next t ∧ Applied t seq ∧
         (t.tlb = s.tlb.filter fun e => !invalMatches j.part j.stage j.base j.len e) ∧
         t.invals = s.invals.map fun x => if x.ticket == j.ticket then { x with applied := true, tickets := ticketsOut s j.part } else x) ∧
     (m.kind = 4 → ∃ t, exec .versionNoticeMessageApply s = .next t ∧ Applied t seq ∧ t.tables = s.tables ∧
       Sparse.get t.fabric.kind4 m.part = BitVec.ofNat 64 seq) ∧
     (m.kind = 5 → ∃ t, exec .teardownNoticeApply s = .next t ∧ Applied t seq ∧ (m.arg, m.part) ∈ t.fabric.tornDown ∧
       (m.arg, m.part) ∉ t.fabric.functions ∧ (∀ b ∈ t.fabric.barriers, b.part ≠ m.part) ∧
       ∀ c ∈ t.cache, c.code = false → 2 ^ 61 ≤ c.line → (c.line - 2 ^ 61) / 2 ^ 56 % 16 ≠ m.arg) ∧
     ∀ i ∈ [(Instr.releaseMessageApply, [1]), (.barrierMessageApply, [2]), (.invalidationMessageApply, [3]),
         (.versionNoticeMessageApply, [4]), (.teardownNoticeApply, [5])],
       m.kind ∈ [1, 2, 3, 4, 5] → m.kind ∉ i.2 → exec i.1 s = .next s) ∧
  (∀ s : State, let f := s.fabric
     1 < f.size →
     (f.holder = f.pkg → f.flight = none → f.visit = 0 →
       (f.queue ≠ [] → exec .ladleArrive s = .next { s with fabric := { f with
         ladle := true, flight := some (ownFrame f 0) } }) ∧
       (f.queue = [] → exec .ladleArrive s = .next { s with fabric := { f with
         ladle := false, holder := nextLive f f.pkg } })) ∧
     (f.holder ≠ f.pkg → f.flight = none → f.visit = 0 →
       exec .ladleArrive s = .next { s with fabric := { f with holder := nextLive f f.holder } }) ∧
     (∀ fr : Frame, fr.sender = f.holder → fr.sender ≠ f.pkg → fr.seq = f.nextSeq → fr.msgs.length ≤ 7 → f.flight = none →
       (∀ m ∈ fr.msgs, m.sender ≠ f.pkg) →
       ∃ t, exec (.creamlineFrameReceive fr true) s = .next t ∧ OnlyFabric s t ∧ t.fabric.flight = some fr ∧
         t.fabric.nextSeq = f.nextSeq + fr.msgs.length ∧
         t.fabric.received = f.received ++ fr.msgs.zipIdx.map fun x => (f.nextSeq + x.2, x.1)) ∧
     (∀ fr, exec (.creamlineFrameReceive fr false) s = .next s) ∧
     (∀ fr, f.flight = some fr → f.nextSeq = fr.seq + fr.msgs.length → fr.passes = true →
       exec .creamlineFrameAcknowledged s = .next { s with fabric := { f with
         flight := none, confirmed := f.nextSeq, ladle := false, visit := 0, holder := nextLive f fr.sender } }) ∧
     (∀ fr, f.flight = some fr → f.nextSeq = fr.seq + fr.msgs.length → fr.passes = false → f.ladle = true → f.queue ≠ [] →
       exec .creamlineFrameAcknowledged s = .next { s with fabric := { f with
         visit := f.visit + 1, confirmed := f.nextSeq, flight := some (ownFrame f (f.visit + 1)) } }) ∧
     exec .creamlineFrameReject s = .next s ∧
     ∃ t, exec .ladleSilenceTimeout s = .next t ∧ OnlyFabric s t ∧
       (∀ p, p ∈ t.fabric.livePkgs ↔ p ∈ f.livePkgs ∧ p ≠ f.holder) ∧ t.fabric.nextSeq = f.confirmed ∧
       (∀ x ∈ t.fabric.received, x.1 < f.confirmed) ∧
       ∀ p, (p ∈ t.fabric.livePkgs ∧ ∀ q ∈ t.fabric.livePkgs, p ≤ q) → p < 16 →
         (p ≠ f.pkg → t.fabric.holder = p ∧ t.fabric.ladle = false ∧ t.fabric.flight = none) ∧
         (p = f.pkg →
           (f.queue ≠ [] → t.fabric.holder = p ∧ t.fabric.ladle = true ∧
             t.fabric.flight = some { ownFrame f 0 with seq := f.confirmed }) ∧
           (f.queue = [] → t.fabric.ladle = false ∧ t.fabric.flight = none ∧ t.fabric.holder = nextLive t.fabric p)))

/-! ### The Churn and the queue pairs -/

/-- R258, R353: `vroute` writes to each active lane the die, the index and the weight base of the replica that its expert and
its key choose in the pinned version, or the die 0xFFFFFFFF where there is none, and counts each lookup on its own die;
without a pin it traps 0x01. -/
def Obligations.RoutingResults : Prop :=
  ∀ (s : State) (g : Group) (w : LaneOps),
    let c := laneCtx g
    let u : RegUses := ⟨⟨1, false⟩, ⟨1, false⟩, useNone, ⟨4, true⟩⟩
    LaneReady s g 0xC4 w u noTiles →
      (g.pinned = 0 → exec (.vroute w) s = .next (trapLane s g 0x01)) ∧
      (∀ k, g.pinned ≠ 0 → table? s g.part = some k →
        let rs (i : Nat) : List Replica := replicasOf k g.pinned.toNat (srcA c w .n32 i)
        let pick (i : Nat) : Nat := srcB c w .n32 i % (rs i).length
        let chosen (i : Nat) : Replica := (rs i).getD (pick i) ⟨0, 0, 0⟩
        let found := c.lanes.filter fun i => rs i != []
        ∃ s1, s1 = { s with tables := s1.tables } ∧
          s1.tables = s.tables.map (fun t => if t.part == g.part then
            { t with heat := found.foldl (fun m i => countHeat (seatOf g).1 m (srcA c w .n32 i)) t.heat } else t) ∧
          LaneEffect s s1 g (.vroute w) w (lastRead w u) (fun r =>
            if r = w.vd.toNat then some fun i => if rs i = [] then 0xFFFFFFFF else (chosen i).die
            else if r = w.vd.toNat + 1 then some fun i => if rs i = [] then 0 else pick i
            else if r = w.vd.toNat + 2 then some fun i => if rs i = [] then 0 else (chosen i).base % 2 ^ 32
            else if r = w.vd.toNat + 3 then some fun i => if rs i = [] then 0 else (chosen i).base / 2 ^ 32
            else none) id id 0 false)

/-- R353 to R360: the counters of a window are read and cleared, and a switch begins with its decisions; a switch goes from
its copies to its publication, or is rolled back; the version reaches each die; a retired inbox forwards its next slot, and
its record ends; the gradients of a version are summed in replica order, or complete with all ones. The grain of these steps
is the model's (DESIGN CHOICE, log entry 39): a window is closed at once; a switch copies, then verifies, writes the frame and
publishes, and sends one notice a die; a slot is forwarded, and a merge made, in one step; a publication waits for the merges
of the version whose frame it takes. -/
def Obligations.ChurnSteps : Prop :=
  ∀ (s : State) (part : Nat) (k : Table), table? s part = some k →
    let closed : Table := { k with lastHeat := k.heat, heat := [] }
    let x := decideAll s closed ⟨[], k.uses, [], []⟩ 0 ((versionRecords k k.version).getD [])
    (mayDecide s closed = false → TableBecomes s (.churnWindowClose part) part closed) ∧
    (mayDecide s closed = true → x.gained = [] → x.retired = [] → TableBecomes s (.churnWindowClose part) part closed) ∧
    (mayDecide s closed = true → (x.gained ≠ [] ∨ x.retired ≠ []) → TableBecomes s (.churnWindowClose part) part { closed with
      uses := x.uses
      switch := some ⟨1, x.records, x.gained.map fun r => replicaUse closed r.2, x.gained, x.retired, [], []⟩ }) ∧
    (∀ w, k.switch = some w → w.failed = [] → w.step = 1 → ∀ s1, copyReplicas k s w.gained = (s1, []) →
      exec (.churnSwitchPublish part) s = .next (putTable s1 { k with switch := some { w with step := 2 } })) ∧
    (∀ w, k.switch = some w → w.failed = [] → w.step = 1 → ∀ s1 e es, copyReplicas k s w.gained = (s1, e :: es) →
      exec (.churnSwitchPublish part) s = .next (putTable s1 { k with switch := some { w with failed := e :: es } })) ∧
    (∀ w, k.switch = some w → w.failed = [] → w.step = 2 → mergeDue k → exec (.churnSwitchPublish part) s = .next s) ∧
    (∀ w, k.switch = some w → w.failed = [] → w.step = 2 → ¬mergeDue k → ∀ s1, differing k s w.gained = (s1, []) →
      ∀ s2 old, devGet s1 part (frameBase k k.version) 0x80000 = (s2, old) →
      (∀ s3 pss, devMany part s2 (framePages k (k.version + 1)) = (s3, .ok true pss) →
        exec (.churnSwitchPublish part) s = .next
          (publishVersion (placesWrite ⟨5, part, 0, 0, 8, 192, 0⟩ s3 pss.flatten (frameBytes (old.getD []) w.records)) k w)) ∧
      ∀ s3 pss, devMany part s2 (framePages k (k.version + 1)) = (s3, .ok false pss) →
        ∃ e, exec (.churnSwitchPublish part) s = .next (putTable s3 { k with switch := some { w with failed := [e] } }) ∧
          512 * pss.length ≤ e ∧ e < 512 * pss.length + 512 ∧ ∀ d, 512 * pss.length ≤ d → d < e →
            ∃ ps, (devRange s3 part .store (frameBase k (k.version + 1) + 128 * d) 128).2 = .ok ps) ∧
    (∀ w, k.switch = some w → w.failed = [] → w.step = 2 → ¬mergeDue k → ∀ s1 e es, differing k s w.gained = (s1, e :: es) →
      exec (.churnSwitchPublish part) s = .next (putTable s1 { k with switch := some { w with failed := e :: es } })) ∧
    (∀ w e es, k.switch = some w → w.failed = e :: es →
      exec (.churnSwitchFail part) s = .next (churnFailure
        (putTable (zeroUses part s w.taken) { k with switch := none, uses := k.uses.filter fun u => !w.taken.contains u })
        part (k.version + 1) (es.foldl min e))) ∧
    (∀ w die, k.switch = some w → die ∈ w.notices → TableBecomes s (.versionNotice part die) part { k with
      dieVersion := Sparse.set k.dieVersion die (BitVec.ofNat 32 k.version)
      switch := if ∀ d ∈ w.notices, d = die then none else some { w with notices := w.notices.filter fun d => d != die } }) ∧
    (∀ n f, k.forwards[n]? = some f →
      let inbox := inboxOf k f.replica
      let target := inboxOf k (primaryOf k f.expert)
      let slot := f.next % k.slots
      let w : Writer := ⟨5, part, 0, 0, 8, 192, 0⟩
      (∀ s0 v, devGet s part (inbox + 0x80 + 8 * slot) 8 = (s0, v) →
        (v.map bytesToNat ≠ some (f.next + 1) → exec (.slotForward part n) s = .next s0) ∧
        (v.map bytesToNat = some (f.next + 1) → ∀ s1 s2 tail src dst tag, devMany part s0 [(.atomic, target, 8)] = (s1, .ok true [tail]) →
        let at_ := bytesToNat (placesRead s1 tail)
        devMany part s1 [(.load, inbox + inboxHead k + slot * k.rowBytes, k.rowBytes),
          (.store, target + inboxHead k + at_ % k.slots * k.rowBytes, k.rowBytes), (.store, target + 0x80 + 8 * (at_ % k.slots), 8)] =
            (s2, .ok true [src, dst, tag]) →
        ∃ t, exec (.slotForward part n) s = .next t ∧
          t = slotDone (placesWrite w (placesWrite w (placesWrite w s2 tail (natToBytes 8 (at_ + 1))) dst (placesRead s2 src)) tag
            (natToBytes 8 (at_ + 1))) part n)) ∧
      (∀ s0 v, devGet s part inbox 8 = (s0, v) →
        (replicaFree s k f = true → bytesToNat (v.getD []) ≤ f.next →
          exec (.forwardingRecordEnd part n) s = .next (putTable (zeroUse part s0 (replicaUse k f.replica)) { k with
            forwards := k.forwards.eraseIdx n, uses := k.uses.filter fun u => u != replicaUse k f.replica })) ∧
        ((replicaFree s k f = false ∨ f.next < bytesToNat (v.getD [])) → exec (.forwardingRecordEnd part n) s = .next s0))) ∧
    ∀ version expert y ys, halted s part = false →
      (List.range (replicasOf k version expert).length).filterMap (fun r =>
        k.grads.find? fun z => z.version == version && z.expert == expert && z.replica == r) = y :: ys →
      ys.length + 1 = (replicasOf k version expert).length →
      let over_ (t : State) : Prop := ∀ q ∈ t.tables, q.part = part → ∀ z ∈ q.grads, ¬(z.version = version ∧ z.expert = expert)
      let ones (s2 : State) : Prop := ∃ t, exec (.gradientMerge part version expert) s = .next t ∧ over_ t ∧
        t = { gradWords part (fun _ => 2 ^ 64 - 1) s2 (y :: ys) with tables := t.tables }
      ((∃ z ∈ ys, z.count ≠ y.count) → ones s) ∧
      ((∀ z ∈ ys, z.count = y.count) → ∀ s2 m,
        devMany part s ((.store, y.dest, 4 * y.count) :: (y :: ys).map fun z => (.load, z.addr, 4 * y.count)) = (s2, m) →
        (∀ pss, m = .ok false pss → ones s2) ∧
        ∀ dst srcs, m = .ok true (dst :: srcs) → ∃ t, exec (.gradientMerge part version expert) s = .next t ∧ over_ t ∧
          t = { gradWords part (fun z => z.value.toNat) (placesWrite ⟨5, part, 0, 0, 8, 192, 0⟩ s2 dst
              ((List.range y.count).map fun i => natToBytes 4 (mergedElem (srcs.map (placesRead s2)) i)).flatten) (y :: ys) with
            tables := t.tables })

/-- R402 to R407: doorbells move the indices; a send entry whose local data can be read becomes an outstanding request; an
acknowledgement, a response or exhausted retries complete the oldest one; a rate notice lowers the rate; a peer's request
within a registered region is performed. Whole messages as one event, the number of their packets, and acknowledgements,
responses, retries and rate notices as operands are the model's (DESIGN CHOICE, log entry 8). -/
def Obligations.QueuePairSteps : Prop :=
  ∀ (s : State) (q : Nat) (x : QueuePair), qp? s q = some x →
    let advance (n : Nat) : Nat := (n + 1) % 2 ^ 32
    let sentPackets (n : Nat) : Nat := max 1 ((n + (1024 * 2 ^ x.mtu - 1)) / (1024 * 2 ^ x.mtu))
    (∀ fn p (v : Word), mailboxPart s fn = some p → x.part = p.id →
      QueuePairBecomes s (.rdmaDoorbell fn q v) q { x with sendProd := v.toNat % 2 ^ 32, recvProd := v.toNat / 2 ^ 32 } ∧
      (x.flushing = false → QueuePairBecomes s (.cqConsumerWrite fn q v) q { x with cqCons := v.toNat % 2 ^ 32 })) ∧
    (∀ f ∈ [(Instr.rdmaWrite q, 1), (.rdmaRead q, 2), (.rdmaSend q, 3), (.rdmaWriteWithImmediate q, 4)], ∀ bs s0,
      nextSend s x = (s0, some bs) → bytesAt bs 0 1 = f.2 → sendOk bs = true → cqFree x = true → halted s x.part = false → x.error = false →
      let b (o n : Nat) : Nat := bytesAt bs o n
      let waits := (b 1 1).testBit 1 = true ∧ ∃ w ∈ x.work, w.opcode = 2
      let sent (data : List Byte) : QueuePair := { x with
        sendIdx := advance x.sendIdx, sendPsn := (x.sendPsn + sentPackets (b 0x18 4)) % 2 ^ 24
        work := x.work ++ [⟨f.2, (b 1 1).testBit 0, b 8 8, b 0x10 8, b 0x18 4, if f.2 = 4 then b 4 4 else 0, b 0x1C 4, b 0x20 8, data⟩] }
      (waits → exec f.1 s = .next s0) ∧
      (¬waits → f.2 = 2 → exec f.1 s = .next { s0 with qps := s0.qps.map fun y => if y.q == q then sent [] else y }) ∧
      (¬waits → f.2 ≠ 2 → ∀ s1 ps, devRange s0 x.part .load (b 0x10 8) (b 0x18 4) = (s1, .ok ps) →
        exec f.1 s = .next { s1 with qps := s1.qps.map fun y => if y.q == q then sent (placesRead s1 ps) else y })) ∧
    (∀ w ws, x.work = w :: ws → cqFree x = true → x.flushing = false →
      let ended : QueuePair := { x with work := ws, resends := 0, flushing := false }
      let failed : QueuePair := { x with work := ws, resends := 0, flushing := true }
      QueuePairBecomes s (.rdmaRetry q) q { x with resends := x.resends + 1 } ∧
      (w.opcode ≠ 2 → w.signal = false → QueuePairBecomes s (.rdmaAckArrive q true) q ended) ∧
      (w.opcode ≠ 2 → w.signal = true →
        ∃ t, exec (.rdmaAckArrive q true) s = .next t ∧ t = cqPut (putQp s ended) q w.wrid w.len 0 w.opcode 0) ∧
      (exec (.rdmaAckArrive q false) s = .next (flushWork (ws.length + 1) (cqPut (putQp s failed) q w.wrid 0 0 w.opcode 3) q)) ∧
      (exec (.rdmaRetryExhausted q) s = .next (flushWork (ws.length + 1) (cqPut (putQp s failed) q w.wrid 0 0 w.opcode 4) q)) ∧
      (∀ data s1 ps, w.opcode = 2 → w.signal = false → data.length = w.len → devRange s x.part .store w.local_ w.len = (s1, .ok ps) →
        ∃ t, exec (.rdmaReadResponse q data) s = .next t ∧
          t = putQp (placesWrite ⟨6, x.part, 0, 0, 8, 192, 0⟩ s1 ps data) ended)) ∧
    (x.work = [] → exec (.rdmaRetry q) s = .next s) ∧
    (∀ rate, QueuePairBecomes s (.cnpReceive q rate) q { x with rate := some (match x.rate with
      | none => rate
      | some r => min r rate) }) ∧
    ∀ r : RdmaRequest, r.q = q → x.error = false → halted s x.part = false →
      (∀ ps, (r.opcode = 1 ∨ r.opcode = 2) → inboundPieces s x.part r = some ps → ∀ s1, piecesKept x.part s ps = (s1, true) →
        let taken : QueuePair := { x with recvPsn := (x.recvPsn + sentPackets r.size) % 2 ^ 24 }
        (r.opcode = 2 → exec (.rdmaInboundRequest r) s = .next { putQp s1 taken with hostRead := placesRead s1 ps }) ∧
        (r.opcode = 1 → exec (.rdmaInboundRequest r) s = .next
          (putQp (placesWrite ⟨6, x.part, 0, 0, 8, 192, 0⟩ s1 ps (r.data.take r.size)) taken))) ∧
      (∀ ps, (r.opcode = 1 ∨ r.opcode = 2) → inboundPieces s x.part r = some ps → ∀ s1, piecesKept x.part s ps = (s1, false) →
        exec (.rdmaInboundRequest r) s = .next { envelope s1 (.owner x.part) 4 0 1 (noPlace x.part 0 0) with hostRead := [] }) ∧
      ((r.opcode = 1 ∨ r.opcode = 2) → inboundPieces s x.part r = none →
        exec (.rdmaInboundRequest r) s = .next { envelope s (.owner x.part) 4 0 1 (noPlace x.part 0 0) with hostRead := [] }) ∧
      (∀ s1, r.opcode = 3 → nextRecv s x = (s1, none) → exec (.rdmaInboundRequest r) s = .next s1)

/-! ### The matrix engine's arithmetic -/

/-- R235, R236, R238 to R240, R200, R201: where a command's rows lie, and a row that lies neither in the scratch window nor in
the on-chip map is read as zero with an access entry of cause 0x12; the elements of an integer product: for each group of
weights and each output element the exact sum of (b − z) · a over the group's positions, added to the accumulator or standing
alone, modulo 2^32; of a floating product: the products of each chunk of 1, 4 or 16 positions, in ascending order, added to
the accumulator with one rounding a chunk, the accumulator of binary64 in a pair of tiles; a scale-and-accumulate adds the
scaled partial sums to each element one after the other, rounding after each. The order of the rows in a command is the
model's (log entry 3). -/
def Obligations.MatrixProducts : Prop :=
  ∀ (s : State) (g : Group) (c : Command),
    let m := c.set
    let p := pairOfSet m
    let ta := dtypeOf m.typeA
    let tb := dtypeOf m.typeB
    let row (i : Nat) : Nat := bytesToNat (c.rows.getD i [])
    let bitsA (i k : Nat) : Nat := row i / 2 ^ (k * dtypeWidth ta) % 2 ^ dtypeWidth ta
    let bitsB (k j : Nat) : Nat := row (64 + j) / 2 ^ (k * dtypeWidth tb) % 2 ^ dtypeWidth tb
    let a (i k : Nat) : Int := intOf ta (bitsA i k)
    let b (k j : Nat) : Int := intOf tb (bitsB k j)
    let z (q j : Nat) : Int := if m.grp = 0 then 0 else (((c.rows.getD (128 + q) []).getD j 0).toNat % 2 ^ dtypeWidth tb : Nat)
    let scale (q j : Nat) : Nat := row q / 2 ^ (16 * j) % 2 ^ 16
    let old (q e : Nat) : Nat := if m.acc then (Sparse.get (g.tiles.getD (m.tileD + q) []) e).toNat else 0
    let chunk := chunkOf p.num
    let f := fmtOf (if p.num = 0 then .f64 else .f32)
    let product (i j k : Nat) : FVal := (exactProduct (fdecode (fmtOf ta) (bitsA i k)) (fdecode (fmtOf tb) (bitsB k j))).1
    (∀ (x : Word) n, x.toNat / 2 ^ 32 ≠ 0xFFFFF000 → x.toNat / 2 ^ 40 ≠ 0xFFFFE0 →
      operandBytes s g x n = (List.replicate n 0, some (⟨x, 0xFD, 0, n, 0x12, 0⟩, none))) ∧
    (c.scale = true → cmdRowCount c = groupCount m ∧ ∀ q, cmdRow c q = (m.param + 0x100 + BitVec.ofNat 64 (128 * q), 128)) ∧
    (c.scale = false → cmdRowCount c = 128 + (if m.grp = 0 then 0 else groupCount m) ∧
      (∀ i < 64, cmdRow c i = (m.baseA + BitVec.ofNat 64 i * m.strideA, p.k * dtypeWidth ta / 8)) ∧
      (∀ i < 64, cmdRow c (64 + i) = (m.baseB + BitVec.ofNat 64 i * m.strideB, p.k * dtypeWidth tb / 8)) ∧
      ∀ q, cmdRow c (128 + q) = (m.param + BitVec.ofNat 64 (64 * q), 64)) ∧
    (c.rows.length = cmdRowCount c → ∀ i < 64, ∀ j < 64,
      (c.scale = false → 5 ≤ p.num → ∀ q < groupCount m, ∃ tile, (cmdTiles g c)[q]? = some (m.tileD + q, tile) ∧
        Sparse.get tile (i * 64 + j) = BitVec.ofInt 32 ((old q (i * 64 + j) : Int) +
          ((List.range (groupDepth m)).map fun k => (b (q * groupDepth m + k) j - z q j) * a i (q * groupDepth m + k)).sum)) ∧
      (c.scale = false → p.num < 5 →
        let start := if p.num = 0 then old 0 (i * 64 + j) + 2 ^ 32 * old 1 (i * 64 + j) else old 0 (i * 64 + j)
        let sum := (List.range (p.k / chunk)).foldl (fun acc n =>
          accumulate f acc ((List.range chunk).map fun k => product i j (n * chunk + k))) start
        ∃ lo, (cmdTiles g c)[0]? = some (m.tileD, lo) ∧ Sparse.get lo (i * 64 + j) = BitVec.ofNat 32 sum ∧
          (p.num = 0 → ∃ hi, (cmdTiles g c)[1]? = some (m.tileD + 1, hi) ∧
            Sparse.get hi (i * 64 + j) = BitVec.ofNat 32 (sum / 2 ^ 32))) ∧
      (c.scale = true → ∃ tile, (cmdTiles g c)[0]? = some (m.tileD, tile) ∧
        Sparse.get tile (i * 64 + j) = BitVec.ofNat 32 ((List.range (groupCount m)).foldl (fun acc q =>
          let part := (Sparse.get (g.tiles.getD (m.tileP + q) []) (i * 64 + j)).toInt
          accumulate (fmtOf .f32) acc
            [(exactProduct (fdecode (fmtOf .f16) (scale q j)) (.num (decide (part < 0)) part.natAbs 0)).1]) (old 0 (i * 64 + j)))))

/-! ### Encodings -/

/-- R103 to R120: every well-formed instruction's word decodes to that instruction: a scalar word of 32 bits, a lane word of 96. -/
def Obligations.EncodedWordsDecode : Prop :=
  ∀ i : Instr, i.wf = true →
    (∀ w, encodeScalar i = some w → w < 2 ^ 32 ∧ decodeScalar w = .ok i) ∧
    (∀ w, encodeLane i = some w → w < 2 ^ 96 ∧ decodeLane w = .ok i) ∧
    ∀ bs, encode i = some bs → (bs.length = 4 ∨ bs.length = 12) ∧ decodeBytes bs = .ok i

/-- R103 to R120: a word that decodes is the word of the instruction it decodes to, and that instruction is well formed; so no
two words mean the same. -/
def Obligations.DecodedWordsEncode : Prop :=
  (∀ w i, w < 2 ^ 32 → decodeScalar w = .ok i → i.wf = true ∧ encodeScalar i = some w) ∧
  ∀ w i, w < 2 ^ 96 → decodeLane w = .ok i → i.wf = true ∧ encodeLane i = some w

/-- The words of the spec's own examples of encodings (*Instruction Encodings*, *Scalar Stream Instructions*; R177, R180)
decode to the instructions they stand for, and words that no row assigns do not decode. -/
def Obligations.SpecWordsDecode : Prop :=
  decodeScalar 0x8892800B = .ok (.launch 9#6 10#6) ∧ decodeScalar 0x88000000 = .ok .nop ∧
  decodeScalar 0x00518700 = .ok (.add 5#6 6#6 7#6) ∧ decodeScalar 0x0451BFFD = .ok (.addi 5#6 6#6 0x3FFD#14) ∧
  decodeScalar 0x1451B007 = .ok (.shiRol 5#6 6#6 7#6) ∧ decodeScalar 0x20912345 = .ok (.hi20 9#6 0x12345#20) ∧
  decodeScalar 0x44A08010 = .ok (.ld64 10#6 2#6 16#14) ∧ decodeScalar 0x54328000 = .ok (.st64 3#6 10#6 0#14) ∧
  decodeScalar 0x5C503FFD = .ok (.bNe 5#6 0#6 0x3FFD#14) ∧ decodeScalar 0x73FFFFFE = .ok (.j 0x3FFFFFE#26) ∧
  decodeScalar 0x7C040000 = .ok (.lrun 1#8 0#18) ∧ decodeScalar 0x905F4001 = .ok (.mcnt 5#6 61#6) ∧
  decodeScalar 0x8C518769 = .ok (.amoCas 5#6 6#6 7#6 3#3) ∧ decodeScalar 0x88004301 = .ok (.fenceXlat 3#6) ∧
  decodeScalar 0x89018704 = .ok (.wwait 2#3 0#1 0#2 6#6 7#6) ∧ decodeScalar 0x84018704 = .ok (.xcGo 0#6 6#6 7#6 0#1) ∧
  decodeScalar 0x849280A6 = .ok (.xmMma 9#6 10#6 0#6 1#1) ∧ decodeScalar 0x98000000 = .error .unassigned ∧
  decodeScalar 0x00310114 = .error .reserved ∧
  decodeLane 0x004001C01000000700000064 = .ok (.vadd ⟨.i32, .mode, false, 7#7, ⟨.vector, 7#7, false⟩, ⟨.imm, 0#7, false⟩,
    ⟨.vector, 0#7, false⟩, ⟨.identity, 0#7⟩, ⟨.identity, 0#7⟩, 100#21⟩) ∧
  decodeLane 0x164002000000018000000000 = .ok (.vmov ⟨.i32, .mode, false, 8#7, ⟨.special, 0#7, false⟩, ⟨.vector, 0#7, false⟩,
    ⟨.vector, 0#7, false⟩, ⟨.identity, 0#7⟩, ⟨.identity, 0#7⟩, 0#21⟩)

/-! ### Steps -/

/-- R90, R91, R97, R99, R120: where the schedule names a slot whose group's next word decodes to an instruction, the step
executes that instruction, in the state that its fetch left, and the chooser notes its choice; a word that does not decode
traps; a scalar word with lane words queued is executed if it may run ahead of them, does not leave its slot, and notes no
fault before the own one of a queued access (R280), and else waits; on top come the demand notices of regions whose count of
ready groups has risen from 0. That the schedule names the slot is the model's (log entry 2), as are which scalar words run
ahead (DESIGN CHOICE, log entry 13) and that a demand notice is sent in the step of the rise (DEDUCED, log entry 40). -/
def Obligations.StepExecutesDecoded : Prop :=
  ∀ (s : State) (die core slot : Nat) (lane : Bool) (rest : List Act), s.power.off = false →
    s.agenda = .issue die core slot lane :: rest →
    let s1 : State := { s with clock := s.clock + 1, agenda := rest }
    ∀ g p, groupIn s die core slot = some g → NextWordAt s1 g lane p →
      let w := Sparse.readLE s.mem p (if lane then 12 else 4)
      let decoded := if lane then decodeLane w else decodeScalar w
      let c : Chooser := if lane = false then .scalar else if specialPipe (rawOfWord w).op then .special else .main
      ∃ t0, ReadyToExecute s1 t0 g ∧
        let t := choosing g c t0
        ((lane = true ∨ g.queue = []) →
          (∀ i, decoded = .ok i →
            (∀ u, exec i t = .next u → Machine.step s = .next (demandRise s (afterChoice g u))) ∧
            (∀ e, exec i t = .fault e → Machine.step s = .fault e) ∧ ∀ e, exec i t = .refused e → Machine.step s = .refused e) ∧
          (∀ e h, decoded = .error e → group? t g.gid = some h → Machine.step s =
            .next (demandRise s (afterChoice g (if lane then trapLane t h e.cause else trapScalar t h e.cause))))) ∧
        (lane = false → g.queue ≠ [] →
          (runsAhead s1 g w = false → Machine.step s = .next (demandRise s s1)) ∧
          (runsAhead s1 g w = true → ∀ i u h, decodeScalar w = .ok i → exec i t = .next u → group? u g.gid = some h →
            (h.status = g.status → h.pend = g.pend ∨ laneMemoryQueued s1 g = false →
              Machine.step s = .next (demandRise s (afterChoice g u))) ∧
            (h.status = g.status → h.pend ≠ g.pend → laneMemoryQueued s1 g = true → Machine.step s = .next (demandRise s s1)) ∧
            (h.status ≠ g.status → (∀ d n, i ≠ .swr d n) → Machine.step s = .next (demandRise s s1))))

/-- A step from a state whose memory is in canonical form leaves memory in canonical form. -/
def Obligations.StepKeepsMemoryCanonical : Prop :=
  ∀ s t : State, s.canonical → Machine.step s = .next t → t.canonical

/-- R18, R22, R25, R79, R81, R88, R267, R354, R376: no word that a group without the operator's authority executes changes a
bind record, a lease, a pre-emption register, the operator's settings of the Churn, an operating point, the boot state or the
stage-2 root of a partition; and it changes the ownership of a page only to that of a partition that there is or for which a
page is being zeroed. That a page may be handed over within an access is the model's DESIGN CHOICE (log entry 54). -/
def Obligations.OwnersCannotReachOperatorState : Prop :=
  ∀ (s t : State) (g : Group) (i : Instr), Running s g → g.auth ≠ 1 → encode i ≠ none → exec i s = .next t →
    t.records = s.records ∧ t.staged = s.staged ∧ t.lease = s.lease ∧ t.pre820 = s.pre820 ∧
    t.pre821 = s.pre821 ∧ t.pre822 = s.pre822 ∧ t.churn0 = s.churn0 ∧ t.churn1 = s.churn1 ∧
    t.power.reg = s.power.reg ∧ t.power.off = s.power.off ∧ t.boot = s.boot ∧ t.freeRoots = s.freeRoots ∧
    (∀ n, Sparse.get t.owners n = Sparse.get s.owners n ∨
      ∃ k, ((part? s k).isSome = true ∨ ∃ j ∈ s.zeroing, j.part = k) ∧ Sparse.get t.owners n = BitVec.ofNat 8 (0x80 + k)) ∧
    ∀ n, (part? t n).map (fun p => p.stage2) = (part? s n).map fun p => p.stage2

/-- R24, R25, R81 to R83, R338, R354, R376, R411, R415: what reset leaves: partition 0 alone and its lease of every die, bind
records and staged dwords zero, the pre-emption registers and the Churn's settings zero, every operating point 15, stable and
unclamped, the first sequence 1, and a measurement of zeros; memory is in canonical form. -/
def Obligations.ResetValues : Prop :=
  (∀ n, (part? State.reset n).isSome = decide (n = 0)) ∧
  (∀ d < 8, Sparse.get State.reset.lease d = 1) ∧
  (∀ i, Sparse.get State.reset.records i = 0 ∧ Sparse.get State.reset.staged i = 0) ∧
  (∀ d, Sparse.get State.reset.pre820 d = 0 ∧ Sparse.get State.reset.pre821 d = 0 ∧ Sparse.get State.reset.pre822 d = 0) ∧
  (∀ p, Sparse.get State.reset.churn0 p = 0 ∧ Sparse.get State.reset.churn1 p = 0) ∧
  (∀ d < 8, Sparse.get State.reset.power.reg d = 15 + 15 * 2 ^ 4 + 15 * 2 ^ 8 + 2 ^ 12) ∧
  State.reset.fabric.nextSeq = 1 ∧ State.reset.boot.measure = 0 ∧ State.reset.groups = [] ∧ State.reset.canonical
end

