-- ==== Sys2Proof/Laws/Sparse.lean ====
section
/-! SUPPORT. What the reads and writes of sparse arrays do: a read after a write, and the canonical form, which every write
keeps. -/

namespace Sys2Proof.Machine

/-! ### A read after a write -/

theorem Sparse.get_erase {w : Nat} (m : Sparse w) (a b : Nat) :
    Sparse.get (Sparse.erase m a) b = if b = a then 0#w else Sparse.get m b := by
  induction m with
  | nil => simp [Sparse.erase, Sparse.get]
  | cons p t ih =>
    obtain ⟨k, v⟩ := p
    by_cases hka : k = a <;> by_cases hkb : k = b <;> by_cases hba : b = a <;>
      simp_all [Sparse.erase, Sparse.get]

theorem Sparse.get_insert {w : Nat} (m : Sparse w) (a b : Nat) (v : BitVec w) :
    Sparse.get (Sparse.insert m a v) b = if b = a then v else Sparse.get m b := by
  induction m with
  | nil => simp [Sparse.insert, Sparse.get, eq_comm (a := a)]
  | cons p t ih =>
    obtain ⟨k, x⟩ := p
    simp only [Sparse.insert]
    split
    · simp [Sparse.get, eq_comm (a := a)]
    · split
      · rename_i h; subst h
        by_cases h : b = k <;> simp [Sparse.get, h, eq_comm (a := k)]
      · rename_i h
        by_cases hk : k = b
        · subst hk; simp [Sparse.get, h]
        · simp [Sparse.get, hk, ih]

@[simp] theorem Sparse.get_set {w : Nat} (m : Sparse w) (a b : Nat) (v : BitVec w) :
    Sparse.get (Sparse.set m a v) b = if b = a then v else Sparse.get m b := by
  simp only [Sparse.set]
  split
  · rename_i h; rw [Sparse.get_erase, h]
  · exact Sparse.get_insert m a b v

@[simp] theorem Sparse.get_nil {w : Nat} (a : Nat) : Sparse.get ([] : Sparse w) a = 0#w := rfl

/-! ### Reads of windows -/

theorem Sparse.get_append {w : Nat} (m n : Sparse w) (a : Nat) (h : ∀ p ∈ m, p.1 ≠ a) :
    Sparse.get (m ++ n) a = Sparse.get n a := by
  induction m with
  | nil => rfl
  | cons p t ih =>
    have hp := h p (by simp)
    simpa [Sparse.get, hp] using ih fun q hq => h q (by simp [hq])

theorem Sparse.get_append_right {w : Nat} (m n : Sparse w) (a : Nat) (h : ∀ p ∈ n, p.1 ≠ a) :
    Sparse.get (m ++ n) a = Sparse.get m a := by
  induction m with
  | nil =>
    induction n with
    | nil => rfl
    | cons p t ih =>
      have hp := h p (by simp)
      simpa [Sparse.get, hp] using ih fun q hq => h q (by simp [hq])
  | cons p t ih => simp only [List.cons_append, Sparse.get, ih]

theorem Sparse.get_filter {w : Nat} (m : Sparse w) (f : Nat → Bool) (a : Nat) :
    Sparse.get (m.filter fun p => f p.1) a = if f a then Sparse.get m a else 0#w := by
  induction m with
  | nil => simp
  | cons p t ih =>
    obtain ⟨k, v⟩ := p
    by_cases hk : k = a
    · subst hk; by_cases h : f k <;> simp_all [Sparse.get]
    · by_cases h : f k <;> simp_all [Sparse.get]

theorem Sparse.get_below {w : Nat} (m : Sparse w) (a b : Nat) :
    Sparse.get (Sparse.below m a) b = if b < a then Sparse.get m b else 0#w := by
  simpa [Sparse.below] using Sparse.get_filter m (fun k => decide (k < a)) b

theorem Sparse.get_above {w : Nat} (m : Sparse w) (a b : Nat) :
    Sparse.get (Sparse.above m a) b = if a ≤ b then Sparse.get m b else 0#w := by
  simpa [Sparse.above] using Sparse.get_filter m (fun k => decide (a ≤ k)) b

theorem Sparse.ofList_keys {w : Nat} (base : Nat) (vs : List (BitVec w)) :
    ∀ p ∈ Sparse.ofList base vs, base ≤ p.1 ∧ p.1 < base + vs.length := by
  induction vs generalizing base with
  | nil => simp [Sparse.ofList]
  | cons v t ih =>
    intro p hp
    simp only [Sparse.ofList] at hp
    split at hp
    · have := ih (base + 1) p hp; simp; omega
    · rcases List.mem_cons.1 hp with rfl | hp
      · simp
      · have := ih (base + 1) p hp; simp; omega

theorem Sparse.get_ofList {w : Nat} (base : Nat) (vs : List (BitVec w)) (a : Nat) :
    Sparse.get (Sparse.ofList base vs) a = if base ≤ a then vs.getD (a - base) 0#w else 0#w := by
  induction vs generalizing base with
  | nil => simp [Sparse.ofList]
  | cons v t ih =>
    have ih := ih (base + 1)
    by_cases hb : base = a
    · subst hb
      simp only [Sparse.ofList]
      split
      · rename_i h
        have h1 : ¬ base + 1 ≤ base := by omega
        rw [ih]; simp [h, h1]
      · simp [Sparse.get]
    · have hrest : Sparse.get (Sparse.ofList base (v :: t)) a = Sparse.get (Sparse.ofList (base + 1) t) a := by
        simp only [Sparse.ofList]
        split
        · rfl
        · simp [Sparse.get, hb]
      rw [hrest, ih]
      by_cases hle : base ≤ a
      · have h1 : base + 1 ≤ a := by omega
        have h2 : a - base = (a - (base + 1)) + 1 := by omega
        simp [hle, h1, h2]
      · have h1 : ¬ base + 1 ≤ a := by omega
        simp [hle, h1]

/-- A write of consecutive values: the values in their range, everything else as before. -/
theorem Sparse.get_setRange {w : Nat} (m : Sparse w) (base : Nat) (vs : List (BitVec w)) (a : Nat) :
    Sparse.get (Sparse.setRange m base vs) a =
      if base ≤ a ∧ a < base + vs.length then vs.getD (a - base) 0#w else Sparse.get m a := by
  unfold Sparse.setRange
  by_cases h1 : a < base
  · rw [Sparse.get_append_right, Sparse.get_below]
    · simp [h1, Nat.not_le.2 h1]
    · intro p hp
      rcases List.mem_append.1 hp with hp | hp
      · have := Sparse.ofList_keys base vs p hp; omega
      · simp [Sparse.above] at hp; omega
  · rw [Sparse.get_append]
    · by_cases h2 : a < base + vs.length
      · rw [Sparse.get_append_right, Sparse.get_ofList]
        · have h3 : base ≤ a := by omega
          simp [h2, h3]
        · intro p hp; simp [Sparse.above] at hp; omega
      · rw [Sparse.get_append, Sparse.get_above]
        · have h3 : base + vs.length ≤ a := by omega
          simp [h2, h3]
        · intro p hp; have := Sparse.ofList_keys base vs p hp; omega
    · intro p hp; simp [Sparse.below] at hp; omega

/-- A cleared range reads zero, everything else as before. -/
theorem Sparse.get_clearRange {w : Nat} (m : Sparse w) (base len a : Nat) :
    Sparse.get (Sparse.clearRange m base len) a =
      if base ≤ a ∧ a < base + len then 0#w else Sparse.get m a := by
  unfold Sparse.clearRange
  by_cases h1 : a < base
  · rw [Sparse.get_append_right, Sparse.get_below]
    · simp [h1, Nat.not_le.2 h1]
    · intro p hp; simp [Sparse.above] at hp; omega
  · rw [Sparse.get_append, Sparse.get_above]
    · by_cases h2 : a < base + len
      · have h4 : ¬ base + len ≤ a := by omega
        have h3 : base ≤ a := by omega
        simp [h2, h3, h4]
      · have : base + len ≤ a := by omega
        simp [h2, this]
    · intro p hp; simp [Sparse.below] at hp; omega

@[simp] theorem Sparse.length_getRange {w : Nat} (m : Sparse w) (a n : Nat) : (Sparse.getRange m a n).length = n := by
  induction n generalizing a with
  | zero => rfl
  | succ n ih => simp [Sparse.getRange, ih]

/-- What was written to a range is read back. -/
theorem Sparse.getRange_setRange {w : Nat} (m : Sparse w) (base : Nat) (vs : List (BitVec w)) :
    Sparse.getRange (Sparse.setRange m base vs) base vs.length = vs := by
  suffices h : ∀ k n, k + n = vs.length →
      Sparse.getRange (Sparse.setRange m base vs) (base + k) n = vs.drop k by
    simpa using h 0 vs.length (by simp)
  intro k n
  induction n generalizing k with
  | zero => intro h; simp [Sparse.getRange, ← h]
  | succ n ih =>
    intro h
    have hk : k < vs.length := by omega
    rw [Sparse.getRange, Sparse.get_setRange, Nat.add_assoc, ih (k + 1) (by omega), List.drop_eq_getElem_cons hk]
    simp [hk]

/-! ### The canonical form -/

theorem Sparse.wfFrom_mono {w : Nat} (lo hi : Nat) (m : Sparse w) (h : lo ≤ hi) (hm : Sparse.wfFrom hi m = true) :
    Sparse.wfFrom lo m = true := by
  cases m with
  | nil => rfl
  | cons p t =>
    obtain ⟨k, v⟩ := p
    simp only [Sparse.wfFrom, Bool.and_eq_true, decide_eq_true_eq] at hm ⊢
    exact ⟨⟨by omega, hm.1.2⟩, hm.2⟩

theorem Sparse.wfFrom_erase {w : Nat} (lo : Nat) (m : Sparse w) (a : Nat) (hm : Sparse.wfFrom lo m = true) :
    Sparse.wfFrom lo (Sparse.erase m a) = true := by
  induction m generalizing lo with
  | nil => rfl
  | cons p t ih =>
    obtain ⟨k, v⟩ := p
    simp only [Sparse.wfFrom, Bool.and_eq_true, decide_eq_true_eq] at hm
    simp only [Sparse.erase]
    split
    · exact Sparse.wfFrom_mono lo (k + 1) _ (by omega) (ih (k + 1) hm.2)
    · simp only [Sparse.wfFrom, Bool.and_eq_true, decide_eq_true_eq]
      exact ⟨hm.1, ih (k + 1) hm.2⟩

theorem Sparse.wfFrom_insert {w : Nat} (lo : Nat) (m : Sparse w) (a : Nat) (v : BitVec w) (hv : v ≠ 0#w) (ha : lo ≤ a)
    (hm : Sparse.wfFrom lo m = true) : Sparse.wfFrom lo (Sparse.insert m a v) = true := by
  induction m generalizing lo with
  | nil => simp [Sparse.insert, Sparse.wfFrom, hv, ha]
  | cons p t ih =>
    obtain ⟨k, x⟩ := p
    simp only [Sparse.wfFrom, Bool.and_eq_true, decide_eq_true_eq] at hm
    simp only [Sparse.insert]
    split
    · simp only [Sparse.wfFrom, Bool.and_eq_true, decide_eq_true_eq]
      exact ⟨⟨ha, by simp [hv]⟩, ⟨by omega, hm.1.2⟩, hm.2⟩
    · split
      · rename_i h1 h2; subst h2
        simp only [Sparse.wfFrom, Bool.and_eq_true, decide_eq_true_eq]
        exact ⟨⟨hm.1.1, by simp [hv]⟩, hm.2⟩
      · simp only [Sparse.wfFrom, Bool.and_eq_true, decide_eq_true_eq]
        exact ⟨hm.1, ih (k + 1) (by omega) hm.2⟩

/-- A write of one value keeps the canonical form. -/
theorem Sparse.wf_set {w : Nat} (m : Sparse w) (a : Nat) (v : BitVec w) (hm : Sparse.wf m = true) :
    Sparse.wf (Sparse.set m a v) = true := by
  simp only [Sparse.set]
  split
  · exact Sparse.wfFrom_erase 0 m a hm
  · rename_i hv; exact Sparse.wfFrom_insert 0 m a v hv (Nat.zero_le a) hm

theorem Sparse.wfFrom_filter {w : Nat} (lo : Nat) (m : Sparse w) (f : Nat × BitVec w → Bool)
    (hm : Sparse.wfFrom lo m = true) : Sparse.wfFrom lo (m.filter f) = true := by
  induction m generalizing lo with
  | nil => rfl
  | cons p t ih =>
    obtain ⟨k, v⟩ := p
    simp only [Sparse.wfFrom, Bool.and_eq_true, decide_eq_true_eq] at hm
    simp only [List.filter]
    split
    · simp only [Sparse.wfFrom, Bool.and_eq_true, decide_eq_true_eq]
      exact ⟨hm.1, ih (k + 1) hm.2⟩
    · exact Sparse.wfFrom_mono lo (k + 1) _ (by omega) (ih (k + 1) hm.2)

theorem Sparse.wfFrom_ofList {w : Nat} (base : Nat) (vs : List (BitVec w)) :
    Sparse.wfFrom base (Sparse.ofList base vs) = true := by
  induction vs generalizing base with
  | nil => rfl
  | cons v t ih =>
    simp only [Sparse.ofList]
    split
    · exact Sparse.wfFrom_mono base (base + 1) _ (by omega) (ih (base + 1))
    · rename_i hv; simp [Sparse.wfFrom, hv, ih (base + 1)]

/-- Two canonical arrays of which the first ends below a bound and the second begins at it, one after the other. -/
theorem Sparse.wfFrom_append {w : Nat} (lo mid : Nat) (m n : Sparse w) (hlo : lo ≤ mid) (hm : Sparse.wfFrom lo m = true)
    (hk : ∀ p ∈ m, p.1 < mid) (hn : Sparse.wfFrom mid n = true) : Sparse.wfFrom lo (m ++ n) = true := by
  induction m generalizing lo with
  | nil => exact Sparse.wfFrom_mono lo mid n hlo hn
  | cons p t ih =>
    obtain ⟨k, v⟩ := p
    simp only [Sparse.wfFrom, Bool.and_eq_true, decide_eq_true_eq] at hm
    have h1 : k < mid := hk (k, v) (by simp)
    simp only [List.cons_append, Sparse.wfFrom, Bool.and_eq_true, decide_eq_true_eq]
    exact ⟨hm.1, ih (k + 1) h1 hm.2 fun q hq => hk q (by simp [hq])⟩

theorem Sparse.wfFrom_raise {w : Nat} (lo hi : Nat) (m : Sparse w) (hm : Sparse.wfFrom lo m = true)
    (hk : ∀ p ∈ m, hi ≤ p.1) : Sparse.wfFrom hi m = true := by
  cases m with
  | nil => rfl
  | cons p t =>
    obtain ⟨k, v⟩ := p
    have h1 : hi ≤ k := hk (k, v) (by simp)
    simp only [Sparse.wfFrom, Bool.and_eq_true, decide_eq_true_eq] at hm ⊢
    exact ⟨⟨h1, hm.1.2⟩, hm.2⟩

/-- A write of consecutive values keeps the canonical form. -/
theorem Sparse.wf_setRange {w : Nat} (m : Sparse w) (base : Nat) (vs : List (BitVec w)) (hm : Sparse.wf m = true) :
    Sparse.wf (Sparse.setRange m base vs) = true := by
  refine Sparse.wfFrom_append 0 base _ _ (Nat.zero_le base) (Sparse.wfFrom_filter 0 m _ hm) ?_ ?_
  · intro p hp; simp [Sparse.below] at hp; exact hp.2
  · refine Sparse.wfFrom_append base (base + vs.length) _ _ (by omega) (Sparse.wfFrom_ofList base vs)
      (fun p hp => (Sparse.ofList_keys base vs p hp).2) ?_
    refine Sparse.wfFrom_raise 0 _ _ (Sparse.wfFrom_filter 0 m _ hm) ?_
    intro p hp; simp [Sparse.above] at hp; exact hp.2

/-- Clearing a range keeps the canonical form. -/
theorem Sparse.wf_clearRange {w : Nat} (m : Sparse w) (base len : Nat) (hm : Sparse.wf m = true) :
    Sparse.wf (Sparse.clearRange m base len) = true := by
  refine Sparse.wfFrom_append 0 base _ _ (Nat.zero_le base) (Sparse.wfFrom_filter 0 m _ hm) ?_ ?_
  · intro p hp; simp [Sparse.below] at hp; exact hp.2
  · refine Sparse.wfFrom_raise 0 _ _ (Sparse.wfFrom_mono 0 0 _ (Nat.le_refl 0) (Sparse.wfFrom_filter 0 m _ hm)) ?_
    intro p hp; simp [Sparse.above] at hp; omega

theorem Sparse.ext_from {w : Nat} (lo : Nat) (m n : Sparse w) (hm : Sparse.wfFrom lo m = true)
    (hn : Sparse.wfFrom lo n = true) (h : ∀ a, Sparse.get m a = Sparse.get n a) : m = n := by
  have absent : ∀ (lo a : Nat) (m : Sparse w), Sparse.wfFrom lo m = true → a < lo → Sparse.get m a = 0#w := by
    intro lo a m
    induction m generalizing lo with
    | nil => intros; rfl
    | cons p t ih =>
      obtain ⟨k, v⟩ := p
      intro hw ha
      simp only [Sparse.wfFrom, Bool.and_eq_true, decide_eq_true_eq] at hw
      have hk : ¬ k = a := by omega
      simp only [Sparse.get, hk, if_false]
      exact ih (k + 1) hw.2 (by omega)
  induction m generalizing lo n with
  | nil =>
    cases n with
    | nil => rfl
    | cons q t =>
      obtain ⟨k, v⟩ := q
      have := h k
      simp only [Sparse.wfFrom, Bool.and_eq_true, bne_iff_ne] at hn
      simp [Sparse.get] at this
      exact absurd this.symm hn.1.2
  | cons p t ih =>
    obtain ⟨k, v⟩ := p
    have hm' := hm
    simp only [Sparse.wfFrom, Bool.and_eq_true, decide_eq_true_eq, bne_iff_ne] at hm'
    cases n with
    | nil =>
      have := h k
      simp [Sparse.get] at this
      exact absurd this hm'.1.2
    | cons q u =>
      obtain ⟨j, x⟩ := q
      have hn' := hn
      simp only [Sparse.wfFrom, Bool.and_eq_true, decide_eq_true_eq, bne_iff_ne] at hn'
      have hkj : k = j := by
        rcases Nat.lt_trichotomy k j with hlt | heq | hgt
        · exfalso
          have h1 := h k
          have h2 : Sparse.get ((j, x) :: u) k = 0#w := by
            have hne : ¬ j = k := by omega
            simp only [Sparse.get, hne, if_false]
            exact absent (j + 1) k u hn'.2 (by omega)
          rw [h2] at h1
          simp only [Sparse.get, if_true] at h1
          exact hm'.1.2 h1
        · exact heq
        · exfalso
          have h1 := h j
          have h2 : Sparse.get ((k, v) :: t) j = 0#w := by
            have hne : ¬ k = j := by omega
            simp only [Sparse.get, hne, if_false]
            exact absent (k + 1) j t hm'.2 (by omega)
          rw [h2] at h1
          simp only [Sparse.get, if_true] at h1
          exact hn'.1.2 h1.symm
      subst hkj
      have hv : v = x := by
        have h1 := h k
        simpa [Sparse.get] using h1
      subst hv
      have : t = u := by
        refine ih (k + 1) u hm'.2 hn'.2 fun a => ?_
        have h1 := h a
        by_cases hka : k = a
        · subst hka
          rw [absent (k + 1) k t hm'.2 (by omega), absent (k + 1) k u hn'.2 (by omega)]
        · simpa [Sparse.get, hka] using h1
      rw [this]

/-- Equal contents in canonical form are equal data. -/
theorem Sparse.ext_of_wf {w : Nat} (m n : Sparse w) (hm : Sparse.wf m = true) (hn : Sparse.wf n = true)
    (h : ∀ a, Sparse.get m a = Sparse.get n a) : m = n := Sparse.ext_from 0 m n hm hn h

end Sys2Proof.Machine
end

