-- ==== Sys2Proof/Laws/Codec.lean ====
section
/-! SUPPORT. What is written by a codec is read back by it (R384). -/

namespace Sys2Proof.Machine

/-- A codec reads back every value that it writes, and leaves what follows. -/
def Codec.Good {α : Type} (c : Codec α) : Prop := ∀ x r, c.get (c.put x ++ r) = some (x, r)

theorem takeWhile_ones (k : Nat) (r : List Byte) :
    ((List.replicate k 1#8 ++ 0#8 :: r).takeWhile fun b => b == 1#8) = List.replicate k 1#8 := by
  induction k with
  | zero => rfl
  | succ n ih => simp [List.replicate_succ, ih]

theorem drop_ones (k : Nat) (r : List Byte) : (List.replicate k 1#8 ++ 0#8 :: r).drop (k + 1) = r := by
  induction k with
  | zero => rfl
  | succ n ih => simpa [List.replicate_succ] using ih

theorem natToBytes_length' (n v : Nat) : (natToBytes n v).length = n := by
  induction n generalizing v with
  | zero => rfl
  | succ n ih => simp [natToBytes, ih]

theorem bytesToNat_natToBytes_mod (n v : Nat) : bytesToNat (natToBytes n v) = v % 256 ^ n := by
  induction n generalizing v with
  | zero => simp [natToBytes, bytesToNat, Nat.mod_one]
  | succ n ih =>
    have h : (256 : Nat) ^ (n + 1) = 256 * 256 ^ n := by rw [Nat.pow_succ, Nat.mul_comm]
    simp only [natToBytes, bytesToNat, ih, BitVec.toNat_ofNat]
    rw [h, Nat.mod_mul]

theorem natC_good : natC.Good := by
  intro n r
  have hn : n < 256 ^ (n.log2 / 8 + 1) := by
    rcases Nat.eq_zero_or_pos n with rfl | h
    · simp
    · have h1 : n < 2 ^ (n.log2 + 1) := Nat.lt_log2_self
      have h2 : (256 : Nat) ^ (n.log2 / 8 + 1) = 2 ^ (8 * (n.log2 / 8 + 1)) := by rw [Nat.pow_mul]
      rw [h2]
      exact Nat.lt_of_lt_of_le h1 (Nat.pow_le_pow_right (by decide) (by omega))
  have hl := natToBytes_length' (n.log2 / 8 + 1) n
  simp only [natC, List.append_assoc, List.cons_append, takeWhile_ones, List.length_replicate, drop_ones]
  rw [if_pos (by simp), List.take_left' hl, List.drop_left' hl, bytesToNat_natToBytes_mod, Nat.mod_eq_of_lt hn]

theorem pairC_good {α β : Type} {a : Codec α} {b : Codec β} (ha : a.Good) (hb : b.Good) : (pairC a b).Good := by
  intro x r
  simp only [pairC, List.append_assoc]
  rw [ha]
  simp [hb x.2 r]

theorem isoC_good {α β : Type} {f : α → β} {g : β → α} {c : Codec α} (hc : c.Good) (h : ∀ y, f (g y) = y) :
    (isoC f g c).Good := by
  intro y r
  simp [isoC, hc (g y) r, h]

theorem getMany_good {α : Type} {c : Codec α} (hc : c.Good) (l : List α) (r : List Byte) :
    getMany c l.length ((l.map c.put).flatten ++ r) = some (l, r) := by
  induction l with
  | nil => rfl
  | cons x xs ih =>
    simp only [List.map_cons, List.flatten_cons, List.append_assoc, List.length_cons, getMany]
    rw [hc]
    simp [ih]

theorem listC_good {α : Type} {c : Codec α} (hc : c.Good) : (listC c).Good := by
  intro l r
  simp only [listC, List.append_assoc]
  rw [natC_good]
  exact getMany_good hc l r

theorem optC_good {α : Type} {c : Codec α} (hc : c.Good) : (optC c).Good :=
  isoC_good (listC_good hc) fun y => by cases y <;> rfl

theorem boolC_good : boolC.Good := isoC_good natC_good fun y => by cases y <;> rfl

theorem bvC_good (w : Nat) : (bvC w).Good := isoC_good natC_good fun y => by simp

theorem vStateC_good : vStateC.Good := isoC_good natC_good fun y => by cases y <;> rfl

theorem cmdStateC_good : cmdStateC.Good := isoC_good natC_good fun y => by cases y <;> rfl

theorem copyStateC_good : copyStateC.Good := isoC_good natC_good fun y => by cases y <;> rfl

theorem tStatusC_good : tStatusC.Good := isoC_good natC_good fun y => by cases y <;> rfl

theorem bodyStateC_good : bodyStateC.Good := isoC_good natC_good fun y => by cases y <;> rfl

theorem gStatusC_good : gStatusC.Good :=
  isoC_good (pairC_good natC_good (pairC_good natC_good (pairC_good natC_good natC_good))) fun y => by cases y <;> rfl

theorem waitC_good : waitC.Good := isoC_good (listC_good natC_good) fun y => by
  cases y with
  | word l => cases l <;> rfl
  | done v => simp [waitValues, waitOfValues]
  | _ => rfl

theorem accessOpC_good : accessOpC.Good := isoC_good (pairC_good natC_good natC_good) fun y => by cases y <;> rfl

theorem vRegC_good : vRegC.Good :=
  isoC_good
    (
      pairC_good vStateC_good <| listC_good (bvC_good 32))
    fun _ => rfl

theorem permC_good : permC.Good :=
  isoC_good
    (
      pairC_good natC_good <| pairC_good (listC_good natC_good) <| boolC_good)
    fun _ => rfl

theorem laneBlockC_good : laneBlockC.Good :=
  isoC_good
    (
      pairC_good natC_good <| pairC_good natC_good <| pairC_good natC_good <|
      pairC_good (listC_good (pairC_good natC_good (bvC_good 64))) <| pairC_good (bvC_good 64) <| natC_good)
    fun _ => rfl

theorem accessEntryC_good : accessEntryC.Good :=
  isoC_good
    (
      pairC_good (bvC_good 64) <| pairC_good natC_good <| pairC_good natC_good <| pairC_good natC_good <|
      pairC_good natC_good <| natC_good)
    fun _ => rfl

theorem pendingC_good : pendingC.Good :=
  isoC_good
    (
      pairC_good (listC_good accessEntryC_good) <| pairC_good natC_good <| pairC_good (listC_good natC_good) <|
      pairC_good natC_good <| natC_good)
    fun _ => rfl

theorem matrixSetC_good : matrixSetC.Good :=
  isoC_good
    (
      pairC_good natC_good <| pairC_good natC_good <| pairC_good (bvC_good 64) <| pairC_good (bvC_good 64) <|
      pairC_good (bvC_good 64) <| pairC_good (bvC_good 64) <| pairC_good natC_good <| pairC_good (bvC_good 64) <|
      pairC_good natC_good <| pairC_good boolC_good <| pairC_good natC_good <| pairC_good natC_good <| pairC_good natC_good <|
      natC_good)
    fun _ => rfl

theorem copySetC_good : copySetC.Good :=
  isoC_good
    (
      pairC_good natC_good <| pairC_good natC_good <| pairC_good (bvC_good 64) <| pairC_good (bvC_good 64) <|
      pairC_good (bvC_good 64) <| pairC_good (bvC_good 64) <| pairC_good natC_good <| natC_good)
    fun _ => rfl

theorem commandC_good : commandC.Good :=
  isoC_good
    (
      pairC_good natC_good <| pairC_good boolC_good <| pairC_good matrixSetC_good <| pairC_good (listC_good natC_good) <|
      pairC_good natC_good <| pairC_good cmdStateC_good <| pairC_good (listC_good (listC_good (bvC_good 8))) <|
      listC_good accessEntryC_good)
    fun _ => rfl

theorem copyC_good : copyC.Good :=
  isoC_good
    (
      pairC_good natC_good <| pairC_good natC_good <| pairC_good copySetC_good <| pairC_good permC_good <|
      pairC_good (bvC_good 64) <| pairC_good (bvC_good 64) <| pairC_good (optC_good (bvC_good 64)) <| pairC_good natC_good <|
      pairC_good natC_good <| pairC_good boolC_good <| pairC_good copyStateC_good <| pairC_good natC_good <|
      pairC_good boolC_good <| optC_good accessEntryC_good)
    fun _ => rfl

theorem copyTraceC_good : copyTraceC.Good :=
  isoC_good
    (
      pairC_good natC_good <| pairC_good natC_good <| pairC_good natC_good <| pairC_good natC_good <| bvC_good 8)
    fun _ => rfl

theorem peerAccessC_good : peerAccessC.Good :=
  isoC_good
    (
      pairC_good natC_good <| pairC_good natC_good <| pairC_good natC_good <| pairC_good natC_good <| pairC_good natC_good <|
      pairC_good accessOpC_good <| pairC_good (listC_good (bvC_good 8)) <| pairC_good (listC_good (bvC_good 8)) <|
      pairC_good natC_good <| pairC_good (optC_good natC_good) <| pairC_good (listC_good natC_good) <| pairC_good natC_good <|
      pairC_good accessEntryC_good <| pairC_good (optC_good (pairC_good boolC_good (listC_good (bvC_good 8)))) <|
      pairC_good (bvC_good 64) <| boolC_good)
    fun _ => rfl

theorem watchC_good : watchC.Good :=
  isoC_good
    (
      pairC_good natC_good <| pairC_good natC_good <| pairC_good (bvC_good 64) <| pairC_good natC_good <| natC_good)
    fun _ => rfl

theorem regionC_good : regionC.Good :=
  isoC_good
    (
      pairC_good natC_good <| pairC_good natC_good <| pairC_good (bvC_good 64) <| pairC_good (optC_good natC_good) <|
      pairC_good natC_good <| pairC_good natC_good <| pairC_good natC_good <| pairC_good natC_good <| pairC_good natC_good <|
      pairC_good natC_good <| pairC_good natC_good <| pairC_good natC_good <| pairC_good (bvC_good 64) <|
      pairC_good (bvC_good 64) <| pairC_good (bvC_good 64) <| pairC_good (bvC_good 64) <| pairC_good natC_good <|
      pairC_good boolC_good <| pairC_good natC_good <| pairC_good (listC_good (pairC_good natC_good (bvC_good 64))) <|
      pairC_good natC_good <| pairC_good natC_good <| pairC_good natC_good <| pairC_good natC_good <| pairC_good boolC_good <|
      pairC_good boolC_good <| pairC_good (listC_good watchC_good) <| listC_good (pairC_good natC_good (bvC_good 32)))
    fun _ => rfl

theorem latchC_good : latchC.Good :=
  isoC_good
    (
      pairC_good (listC_good (bvC_good 8)) <| listC_good regionC_good)
    fun _ => rfl

theorem groupC_good : groupC.Good :=
  isoC_good
    (
      pairC_good natC_good <| pairC_good natC_good <| pairC_good natC_good <| pairC_good natC_good <| pairC_good natC_good <|
      pairC_good natC_good <| pairC_good natC_good <| pairC_good natC_good <| pairC_good natC_good <| pairC_good natC_good <|
      pairC_good natC_good <| pairC_good natC_good <| pairC_good natC_good <| pairC_good natC_good <|
      pairC_good gStatusC_good <| pairC_good natC_good <| pairC_good natC_good <| pairC_good natC_good <|
      pairC_good natC_good <| pairC_good natC_good <| pairC_good waitC_good <| pairC_good (optC_good natC_good) <|
      pairC_good boolC_good <| pairC_good (bvC_good 64) <| pairC_good (listC_good (pairC_good natC_good (bvC_good 64))) <|
      pairC_good (bvC_good 64) <| pairC_good (bvC_good 64) <| pairC_good (bvC_good 64) <| pairC_good (bvC_good 64) <|
      pairC_good (bvC_good 64) <| pairC_good natC_good <| pairC_good (bvC_good 96) <|
      pairC_good (listC_good laneBlockC_good) <| pairC_good (listC_good vRegC_good) <| pairC_good (listC_good permC_good) <|
      pairC_good (listC_good (listC_good (pairC_good natC_good (bvC_good 32)))) <| pairC_good pendingC_good <|
      pairC_good matrixSetC_good <| pairC_good copySetC_good <| pairC_good (listC_good commandC_good) <|
      pairC_good natC_good <| pairC_good natC_good <| pairC_good (listC_good copyC_good) <| pairC_good natC_good <|
      pairC_good natC_good <| pairC_good (listC_good (pairC_good natC_good (bvC_good 64))) <| pairC_good natC_good <|
      pairC_good natC_good <| pairC_good natC_good <| pairC_good (listC_good (bvC_good 8)) <| pairC_good bodyStateC_good <|
      pairC_good natC_good <| pairC_good (optC_good natC_good) <| pairC_good (listC_good peerAccessC_good) <|
      pairC_good (listC_good (pairC_good natC_good natC_good)) <| pairC_good natC_good <| pairC_good boolC_good <|
      pairC_good (bvC_good 128) <| pairC_good boolC_good <| pairC_good natC_good <| pairC_good (optC_good latchC_good) <|
      listC_good copyTraceC_good)
    fun _ => rfl

theorem cohortC_good : cohortC.Good :=
  isoC_good
    (
      pairC_good natC_good <| pairC_good natC_good <| pairC_good natC_good <| pairC_good natC_good <| pairC_good natC_good <|
      pairC_good (listC_good natC_good) <| pairC_good (listC_good (pairC_good natC_good (bvC_good 8))) <|
      pairC_good (listC_good (pairC_good natC_good (bvC_good 64))) <| listC_good (pairC_good natC_good natC_good))
    fun _ => rfl

theorem offerC_good : offerC.Good :=
  isoC_good
    (
      pairC_good natC_good <| pairC_good natC_good <| pairC_good (bvC_good 64) <| pairC_good natC_good <|
      pairC_good natC_good <| pairC_good natC_good <| pairC_good natC_good <| pairC_good boolC_good <| optC_good latchC_good)
    fun _ => rfl

theorem taskC_good : taskC.Good :=
  isoC_good
    (
      pairC_good natC_good <| pairC_good natC_good <| pairC_good natC_good <| pairC_good (bvC_good 64) <|
      pairC_good (bvC_good 64) <| pairC_good natC_good <| pairC_good natC_good <| pairC_good natC_good <|
      pairC_good natC_good <| pairC_good natC_good <| pairC_good natC_good <| pairC_good boolC_good <| pairC_good natC_good <|
      pairC_good natC_good <| pairC_good natC_good <| pairC_good natC_good <|
      pairC_good (listC_good (pairC_good natC_good natC_good)) <| pairC_good (bvC_good 64) <| pairC_good (bvC_good 64) <|
      pairC_good (bvC_good 64) <| pairC_good (listC_good natC_good) <| pairC_good tStatusC_good <| pairC_good natC_good <|
      pairC_good natC_good <| pairC_good natC_good <| pairC_good (listC_good (pairC_good natC_good natC_good)) <|
      pairC_good (listC_good natC_good) <| pairC_good boolC_good <| pairC_good (optC_good offerC_good) <|
      pairC_good boolC_good <| pairC_good natC_good <| pairC_good (listC_good natC_good) <|
      pairC_good (listC_good natC_good) <| listC_good (pairC_good natC_good (pairC_good natC_good natC_good)))
    fun _ => rfl

theorem parkEntryC_good : parkEntryC.Good :=
  isoC_good
    (
      pairC_good natC_good <| pairC_good natC_good <| pairC_good natC_good <|
      listC_good (listC_good (pairC_good natC_good (bvC_good 32))))
    fun _ => rfl

theorem vQueueC_good : vQueueC.Good :=
  isoC_good
    (
      pairC_good natC_good <| pairC_good natC_good <| pairC_good natC_good <| pairC_good boolC_good <| pairC_good boolC_good <|
      pairC_good natC_good <| pairC_good natC_good <| pairC_good natC_good <| pairC_good (listC_good (optC_good natC_good)) <|
      pairC_good (listC_good (optC_good natC_good)) <| pairC_good (listC_good (optC_good natC_good)) <| pairC_good natC_good <|
      pairC_good natC_good <| pairC_good natC_good <| boolC_good)
    fun _ => rfl

theorem launchFnC_good : launchFnC.Good :=
  isoC_good
    (
      pairC_good natC_good <| pairC_good natC_good <| pairC_good natC_good <| pairC_good natC_good <| pairC_good natC_good <|
      pairC_good natC_good <| pairC_good natC_good <| pairC_good natC_good <| pairC_good natC_good <| pairC_good natC_good <|
      pairC_good natC_good <| pairC_good natC_good <| pairC_good boolC_good <| pairC_good natC_good <| listC_good vQueueC_good)
    fun _ => rfl

theorem ringC_good : ringC.Good :=
  isoC_good
    (
      pairC_good natC_good <| pairC_good natC_good <| pairC_good natC_good <| pairC_good natC_good <| boolC_good)
    fun _ => rfl

theorem replicaC_good : replicaC.Good :=
  isoC_good
    (
      pairC_good natC_good <| pairC_good natC_good <| natC_good)
    fun _ => rfl

theorem arenaUseC_good : arenaUseC.Good :=
  isoC_good
    (
      pairC_good natC_good <| pairC_good natC_good <| natC_good)
    fun _ => rfl

theorem switchC_good : switchC.Good :=
  isoC_good
    (
      pairC_good natC_good <| pairC_good (listC_good (listC_good replicaC_good)) <| pairC_good (listC_good arenaUseC_good) <|
      pairC_good (listC_good (pairC_good natC_good replicaC_good)) <|
      pairC_good (listC_good (pairC_good natC_good replicaC_good)) <| pairC_good (listC_good natC_good) <| listC_good natC_good)
    fun _ => rfl

theorem forwardC_good : forwardC.Good :=
  isoC_good
    (
      pairC_good natC_good <| pairC_good replicaC_good <| pairC_good natC_good <| natC_good)
    fun _ => rfl

theorem gradC_good : gradC.Good :=
  isoC_good
    (
      pairC_good natC_good <| pairC_good natC_good <| pairC_good natC_good <| pairC_good natC_good <| pairC_good natC_good <|
      pairC_good natC_good <| pairC_good natC_good <| pairC_good natC_good <| bvC_good 64)
    fun _ => rfl

theorem tableC_good : tableC.Good :=
  isoC_good
    (
      pairC_good natC_good <| pairC_good natC_good <| pairC_good (listC_good natC_good) <| pairC_good natC_good <|
      pairC_good natC_good <| pairC_good natC_good <| pairC_good (listC_good (pairC_good natC_good natC_good)) <|
      pairC_good natC_good <| pairC_good (listC_good (pairC_good natC_good (listC_good (listC_good replicaC_good)))) <|
      pairC_good (listC_good (pairC_good natC_good (bvC_good 32))) <|
      pairC_good (listC_good (pairC_good natC_good (bvC_good 32))) <|
      pairC_good (listC_good (pairC_good natC_good (bvC_good 32))) <| pairC_good (listC_good arenaUseC_good) <|
      pairC_good (optC_good switchC_good) <| pairC_good (listC_good forwardC_good) <| pairC_good (listC_good gradC_good) <|
      listC_good (pairC_good natC_good (pairC_good natC_good natC_good)))
    fun _ => rfl

theorem looseBodyC_good : looseBodyC.Good :=
  isoC_good
    (
      pairC_good natC_good <| pairC_good natC_good <| pairC_good natC_good <| pairC_good (listC_good (bvC_good 8)) <|
      boolC_good)
    fun _ => rfl

end Sys2Proof.Machine
end

