-- ==== Sys2Proof/Laws/Carry.lean ====
section
/-! SUPPORT. What a queue-state object carries comes back whole at the destination of a migration. -/

namespace Sys2Proof.Machine

theorem carriedSlotC_good : carriedSlotC.Good :=
  isoC_good
    (
      pairC_good (listC_good (bvC_good 8)) <| pairC_good (optC_good ringC_good) <| pairC_good (bvC_good 64) <|
      pairC_good (optC_good natC_good) <| pairC_good natC_good <| pairC_good natC_good <| pairC_good natC_good <|
      pairC_good natC_good <| pairC_good natC_good <| natC_good)
    fun _ => rfl

theorem carriedC_good : carriedC.Good :=
  isoC_good
    (
      pairC_good carriedSlotC_good <| pairC_good natC_good <| pairC_good (listC_good regionC_good) <|
      pairC_good (listC_good taskC_good) <| pairC_good (listC_good cohortC_good) <| pairC_good (listC_good groupC_good) <|
      pairC_good (listC_good parkEntryC_good) <| pairC_good (listC_good looseBodyC_good) <| pairC_good (optC_good tableC_good) <|
      pairC_good (listC_good launchFnC_good) <| pairC_good (listC_good offerC_good) <| listC_good natC_good)
    fun _ => rfl

/-- The mask twice over the first part of some bytes gives that part back. -/
theorem carriedMasked_append (bs zs : List Byte) : ∃ ys, carriedMasked (carriedMasked bs ++ zs) = bs ++ ys := by
  refine ⟨zs.mapIdx fun i b => b ^^^ Config.carriedMask (i + bs.length), ?_⟩
  unfold carriedMasked
  rw [List.mapIdx_append]
  congr 1
  · rw [List.mapIdx_mapIdx]
    refine (List.mapIdx_eq_iff).2 fun i => ?_
    cases bs[i]? with
    | none => rfl
    | some b => exact congrArg some (by rw [Function.comp, BitVec.xor_assoc, BitVec.xor_self, BitVec.xor_zero])
  · simp

/-- The payload of a queue-state object gives back what it carries (R384). -/
theorem carriedOf_carriedBytes (c : Carried) : carriedOf (carriedBytes c) = some c := by
  unfold carriedOf carriedBytes
  obtain ⟨ys, h⟩ := carriedMasked_append (carriedC.put c)
    (List.replicate (divUp (carriedMasked (carriedC.put c)).length 4096 * 4096 - (carriedMasked (carriedC.put c)).length) 0)
  simp only [h, carriedC_good c ys, Option.map_some]

end Sys2Proof.Machine
end

