-- ==== Sys2Proof/Laws/State.lean ====
section
/-! SUPPORT. The fields that the updates of a state and of a group leave as they are, one lemma for each. -/

namespace Sys2Proof.Machine

/-! ### `putGroup` -/

@[simp] theorem putGroup_mem (s : State) (g : Group) : (putGroup s g).mem = s.mem := rfl
@[simp] theorem putGroup_owners (s : State) (g : Group) : (putGroup s g).owners = s.owners := rfl
@[simp] theorem putGroup_cur (s : State) (g : Group) : (putGroup s g).cur = s.cur := rfl
@[simp] theorem putGroup_nextId (s : State) (g : Group) : (putGroup s g).nextId = s.nextId := rfl
@[simp] theorem putGroup_cohorts (s : State) (g : Group) : (putGroup s g).cohorts = s.cohorts := rfl
@[simp] theorem putGroup_vacated (s : State) (g : Group) : (putGroup s g).vacated = s.vacated := rfl
@[simp] theorem putGroup_tasks (s : State) (g : Group) : (putGroup s g).tasks = s.tasks := rfl
@[simp] theorem putGroup_entryNext (s : State) (g : Group) : (putGroup s g).entryNext = s.entryNext := rfl
@[simp] theorem putGroup_regions (s : State) (g : Group) : (putGroup s g).regions = s.regions := rfl
@[simp] theorem putGroup_parts (s : State) (g : Group) : (putGroup s g).parts = s.parts := rfl
@[simp] theorem putGroup_freeRoots (s : State) (g : Group) : (putGroup s g).freeRoots = s.freeRoots := rfl
@[simp] theorem putGroup_records (s : State) (g : Group) : (putGroup s g).records = s.records := rfl
@[simp] theorem putGroup_staged (s : State) (g : Group) : (putGroup s g).staged = s.staged := rfl
@[simp] theorem putGroup_lastHeld (s : State) (g : Group) : (putGroup s g).lastHeld = s.lastHeld := rfl
@[simp] theorem putGroup_lease (s : State) (g : Group) : (putGroup s g).lease = s.lease := rfl
@[simp] theorem putGroup_leaseJobs (s : State) (g : Group) : (putGroup s g).leaseJobs = s.leaseJobs := rfl
@[simp] theorem putGroup_pre820 (s : State) (g : Group) : (putGroup s g).pre820 = s.pre820 := rfl
@[simp] theorem putGroup_pre821 (s : State) (g : Group) : (putGroup s g).pre821 = s.pre821 := rfl
@[simp] theorem putGroup_pre822 (s : State) (g : Group) : (putGroup s g).pre822 = s.pre822 := rfl
@[simp] theorem putGroup_preempts (s : State) (g : Group) : (putGroup s g).preempts = s.preempts := rfl
@[simp] theorem putGroup_tlb (s : State) (g : Group) : (putGroup s g).tlb = s.tlb := rfl
@[simp] theorem putGroup_cache (s : State) (g : Group) : (putGroup s g).cache = s.cache := rfl
@[simp] theorem putGroup_zeroing (s : State) (g : Group) : (putGroup s g).zeroing = s.zeroing := rfl
@[simp] theorem putGroup_badLines (s : State) (g : Group) : (putGroup s g).badLines = s.badLines := rfl
@[simp] theorem putGroup_refusedPeers (s : State) (g : Group) : (putGroup s g).refusedPeers = s.refusedPeers := rfl
@[simp] theorem putGroup_invals (s : State) (g : Group) : (putGroup s g).invals = s.invals := rfl
@[simp] theorem putGroup_parks (s : State) (g : Group) : (putGroup s g).parks = s.parks := rfl
@[simp] theorem putGroup_offers (s : State) (g : Group) : (putGroup s g).offers = s.offers := rfl
@[simp] theorem putGroup_launchFns (s : State) (g : Group) : (putGroup s g).launchFns = s.launchFns := rfl
@[simp] theorem putGroup_auditFns (s : State) (g : Group) : (putGroup s g).auditFns = s.auditFns := rfl
@[simp] theorem putGroup_bodies (s : State) (g : Group) : (putGroup s g).bodies = s.bodies := rfl
@[simp] theorem putGroup_ring8 (s : State) (g : Group) : (putGroup s g).ring8 = s.ring8 := rfl
@[simp] theorem putGroup_ring9 (s : State) (g : Group) : (putGroup s g).ring9 = s.ring9 := rfl
@[simp] theorem putGroup_demand8 (s : State) (g : Group) : (putGroup s g).demand8 = s.demand8 := rfl
@[simp] theorem putGroup_demand9 (s : State) (g : Group) : (putGroup s g).demand9 = s.demand9 := rfl
@[simp] theorem putGroup_notices (s : State) (g : Group) : (putGroup s g).notices = s.notices := rfl
@[simp] theorem putGroup_cmdHeld (s : State) (g : Group) : (putGroup s g).cmdHeld = s.cmdHeld := rfl
@[simp] theorem putGroup_seals (s : State) (g : Group) : (putGroup s g).seals = s.seals := rfl
@[simp] theorem putGroup_tables (s : State) (g : Group) : (putGroup s g).tables = s.tables := rfl
@[simp] theorem putGroup_churn0 (s : State) (g : Group) : (putGroup s g).churn0 = s.churn0 := rfl
@[simp] theorem putGroup_churn1 (s : State) (g : Group) : (putGroup s g).churn1 = s.churn1 := rfl
@[simp] theorem putGroup_qps (s : State) (g : Group) : (putGroup s g).qps = s.qps := rfl
@[simp] theorem putGroup_fabric (s : State) (g : Group) : (putGroup s g).fabric = s.fabric := rfl
@[simp] theorem putGroup_power (s : State) (g : Group) : (putGroup s g).power = s.power := rfl
@[simp] theorem putGroup_boot (s : State) (g : Group) : (putGroup s g).boot = s.boot := rfl
@[simp] theorem putGroup_hostRead (s : State) (g : Group) : (putGroup s g).hostRead = s.hostRead := rfl
@[simp] theorem putGroup_agenda (s : State) (g : Group) : (putGroup s g).agenda = s.agenda := rfl
@[simp] theorem putGroup_clock (s : State) (g : Group) : (putGroup s g).clock = s.clock := rfl
@[simp] theorem putGroup_enginesTurn (s : State) (g : Group) : (putGroup s g).enginesTurn = s.enginesTurn := rfl
@[simp] theorem putGroup_lastIssue (s : State) (g : Group) : (putGroup s g).lastIssue = s.lastIssue := rfl

/-! ### `modGroup` -/

@[simp] theorem modGroup_mem (s : State) (gid : Nat) (f : Group → Group) : (modGroup s gid f).mem = s.mem := rfl
@[simp] theorem modGroup_owners (s : State) (gid : Nat) (f : Group → Group) : (modGroup s gid f).owners = s.owners := rfl
@[simp] theorem modGroup_cur (s : State) (gid : Nat) (f : Group → Group) : (modGroup s gid f).cur = s.cur := rfl
@[simp] theorem modGroup_nextId (s : State) (gid : Nat) (f : Group → Group) : (modGroup s gid f).nextId = s.nextId := rfl
@[simp] theorem modGroup_cohorts (s : State) (gid : Nat) (f : Group → Group) : (modGroup s gid f).cohorts = s.cohorts := rfl
@[simp] theorem modGroup_vacated (s : State) (gid : Nat) (f : Group → Group) : (modGroup s gid f).vacated = s.vacated := rfl
@[simp] theorem modGroup_tasks (s : State) (gid : Nat) (f : Group → Group) : (modGroup s gid f).tasks = s.tasks := rfl
@[simp] theorem modGroup_entryNext (s : State) (gid : Nat) (f : Group → Group) : (modGroup s gid f).entryNext = s.entryNext := rfl
@[simp] theorem modGroup_regions (s : State) (gid : Nat) (f : Group → Group) : (modGroup s gid f).regions = s.regions := rfl
@[simp] theorem modGroup_parts (s : State) (gid : Nat) (f : Group → Group) : (modGroup s gid f).parts = s.parts := rfl
@[simp] theorem modGroup_freeRoots (s : State) (gid : Nat) (f : Group → Group) : (modGroup s gid f).freeRoots = s.freeRoots := rfl
@[simp] theorem modGroup_records (s : State) (gid : Nat) (f : Group → Group) : (modGroup s gid f).records = s.records := rfl
@[simp] theorem modGroup_staged (s : State) (gid : Nat) (f : Group → Group) : (modGroup s gid f).staged = s.staged := rfl
@[simp] theorem modGroup_lastHeld (s : State) (gid : Nat) (f : Group → Group) : (modGroup s gid f).lastHeld = s.lastHeld := rfl
@[simp] theorem modGroup_lease (s : State) (gid : Nat) (f : Group → Group) : (modGroup s gid f).lease = s.lease := rfl
@[simp] theorem modGroup_leaseJobs (s : State) (gid : Nat) (f : Group → Group) : (modGroup s gid f).leaseJobs = s.leaseJobs := rfl
@[simp] theorem modGroup_pre820 (s : State) (gid : Nat) (f : Group → Group) : (modGroup s gid f).pre820 = s.pre820 := rfl
@[simp] theorem modGroup_pre821 (s : State) (gid : Nat) (f : Group → Group) : (modGroup s gid f).pre821 = s.pre821 := rfl
@[simp] theorem modGroup_pre822 (s : State) (gid : Nat) (f : Group → Group) : (modGroup s gid f).pre822 = s.pre822 := rfl
@[simp] theorem modGroup_preempts (s : State) (gid : Nat) (f : Group → Group) : (modGroup s gid f).preempts = s.preempts := rfl
@[simp] theorem modGroup_tlb (s : State) (gid : Nat) (f : Group → Group) : (modGroup s gid f).tlb = s.tlb := rfl
@[simp] theorem modGroup_cache (s : State) (gid : Nat) (f : Group → Group) : (modGroup s gid f).cache = s.cache := rfl
@[simp] theorem modGroup_zeroing (s : State) (gid : Nat) (f : Group → Group) : (modGroup s gid f).zeroing = s.zeroing := rfl
@[simp] theorem modGroup_badLines (s : State) (gid : Nat) (f : Group → Group) : (modGroup s gid f).badLines = s.badLines := rfl
@[simp] theorem modGroup_refusedPeers (s : State) (gid : Nat) (f : Group → Group) : (modGroup s gid f).refusedPeers = s.refusedPeers := rfl
@[simp] theorem modGroup_invals (s : State) (gid : Nat) (f : Group → Group) : (modGroup s gid f).invals = s.invals := rfl
@[simp] theorem modGroup_parks (s : State) (gid : Nat) (f : Group → Group) : (modGroup s gid f).parks = s.parks := rfl
@[simp] theorem modGroup_offers (s : State) (gid : Nat) (f : Group → Group) : (modGroup s gid f).offers = s.offers := rfl
@[simp] theorem modGroup_launchFns (s : State) (gid : Nat) (f : Group → Group) : (modGroup s gid f).launchFns = s.launchFns := rfl
@[simp] theorem modGroup_auditFns (s : State) (gid : Nat) (f : Group → Group) : (modGroup s gid f).auditFns = s.auditFns := rfl
@[simp] theorem modGroup_bodies (s : State) (gid : Nat) (f : Group → Group) : (modGroup s gid f).bodies = s.bodies := rfl
@[simp] theorem modGroup_ring8 (s : State) (gid : Nat) (f : Group → Group) : (modGroup s gid f).ring8 = s.ring8 := rfl
@[simp] theorem modGroup_ring9 (s : State) (gid : Nat) (f : Group → Group) : (modGroup s gid f).ring9 = s.ring9 := rfl
@[simp] theorem modGroup_demand8 (s : State) (gid : Nat) (f : Group → Group) : (modGroup s gid f).demand8 = s.demand8 := rfl
@[simp] theorem modGroup_demand9 (s : State) (gid : Nat) (f : Group → Group) : (modGroup s gid f).demand9 = s.demand9 := rfl
@[simp] theorem modGroup_notices (s : State) (gid : Nat) (f : Group → Group) : (modGroup s gid f).notices = s.notices := rfl
@[simp] theorem modGroup_cmdHeld (s : State) (gid : Nat) (f : Group → Group) : (modGroup s gid f).cmdHeld = s.cmdHeld := rfl
@[simp] theorem modGroup_seals (s : State) (gid : Nat) (f : Group → Group) : (modGroup s gid f).seals = s.seals := rfl
@[simp] theorem modGroup_tables (s : State) (gid : Nat) (f : Group → Group) : (modGroup s gid f).tables = s.tables := rfl
@[simp] theorem modGroup_churn0 (s : State) (gid : Nat) (f : Group → Group) : (modGroup s gid f).churn0 = s.churn0 := rfl
@[simp] theorem modGroup_churn1 (s : State) (gid : Nat) (f : Group → Group) : (modGroup s gid f).churn1 = s.churn1 := rfl
@[simp] theorem modGroup_qps (s : State) (gid : Nat) (f : Group → Group) : (modGroup s gid f).qps = s.qps := rfl
@[simp] theorem modGroup_fabric (s : State) (gid : Nat) (f : Group → Group) : (modGroup s gid f).fabric = s.fabric := rfl
@[simp] theorem modGroup_power (s : State) (gid : Nat) (f : Group → Group) : (modGroup s gid f).power = s.power := rfl
@[simp] theorem modGroup_boot (s : State) (gid : Nat) (f : Group → Group) : (modGroup s gid f).boot = s.boot := rfl
@[simp] theorem modGroup_hostRead (s : State) (gid : Nat) (f : Group → Group) : (modGroup s gid f).hostRead = s.hostRead := rfl
@[simp] theorem modGroup_agenda (s : State) (gid : Nat) (f : Group → Group) : (modGroup s gid f).agenda = s.agenda := rfl
@[simp] theorem modGroup_clock (s : State) (gid : Nat) (f : Group → Group) : (modGroup s gid f).clock = s.clock := rfl
@[simp] theorem modGroup_enginesTurn (s : State) (gid : Nat) (f : Group → Group) : (modGroup s gid f).enginesTurn = s.enginesTurn := rfl
@[simp] theorem modGroup_lastIssue (s : State) (gid : Nat) (f : Group → Group) : (modGroup s gid f).lastIssue = s.lastIssue := rfl

/-! ### `putPart` -/

@[simp] theorem putPart_mem (s : State) (p : Part) : (putPart s p).mem = s.mem := rfl
@[simp] theorem putPart_owners (s : State) (p : Part) : (putPart s p).owners = s.owners := rfl
@[simp] theorem putPart_groups (s : State) (p : Part) : (putPart s p).groups = s.groups := rfl
@[simp] theorem putPart_cur (s : State) (p : Part) : (putPart s p).cur = s.cur := rfl
@[simp] theorem putPart_nextId (s : State) (p : Part) : (putPart s p).nextId = s.nextId := rfl
@[simp] theorem putPart_cohorts (s : State) (p : Part) : (putPart s p).cohorts = s.cohorts := rfl
@[simp] theorem putPart_vacated (s : State) (p : Part) : (putPart s p).vacated = s.vacated := rfl
@[simp] theorem putPart_tasks (s : State) (p : Part) : (putPart s p).tasks = s.tasks := rfl
@[simp] theorem putPart_entryNext (s : State) (p : Part) : (putPart s p).entryNext = s.entryNext := rfl
@[simp] theorem putPart_regions (s : State) (p : Part) : (putPart s p).regions = s.regions := rfl
@[simp] theorem putPart_freeRoots (s : State) (p : Part) : (putPart s p).freeRoots = s.freeRoots := rfl
@[simp] theorem putPart_records (s : State) (p : Part) : (putPart s p).records = s.records := rfl
@[simp] theorem putPart_staged (s : State) (p : Part) : (putPart s p).staged = s.staged := rfl
@[simp] theorem putPart_lastHeld (s : State) (p : Part) : (putPart s p).lastHeld = s.lastHeld := rfl
@[simp] theorem putPart_lease (s : State) (p : Part) : (putPart s p).lease = s.lease := rfl
@[simp] theorem putPart_leaseJobs (s : State) (p : Part) : (putPart s p).leaseJobs = s.leaseJobs := rfl
@[simp] theorem putPart_pre820 (s : State) (p : Part) : (putPart s p).pre820 = s.pre820 := rfl
@[simp] theorem putPart_pre821 (s : State) (p : Part) : (putPart s p).pre821 = s.pre821 := rfl
@[simp] theorem putPart_pre822 (s : State) (p : Part) : (putPart s p).pre822 = s.pre822 := rfl
@[simp] theorem putPart_preempts (s : State) (p : Part) : (putPart s p).preempts = s.preempts := rfl
@[simp] theorem putPart_tlb (s : State) (p : Part) : (putPart s p).tlb = s.tlb := rfl
@[simp] theorem putPart_cache (s : State) (p : Part) : (putPart s p).cache = s.cache := rfl
@[simp] theorem putPart_zeroing (s : State) (p : Part) : (putPart s p).zeroing = s.zeroing := rfl
@[simp] theorem putPart_badLines (s : State) (p : Part) : (putPart s p).badLines = s.badLines := rfl
@[simp] theorem putPart_refusedPeers (s : State) (p : Part) : (putPart s p).refusedPeers = s.refusedPeers := rfl
@[simp] theorem putPart_invals (s : State) (p : Part) : (putPart s p).invals = s.invals := rfl
@[simp] theorem putPart_parks (s : State) (p : Part) : (putPart s p).parks = s.parks := rfl
@[simp] theorem putPart_offers (s : State) (p : Part) : (putPart s p).offers = s.offers := rfl
@[simp] theorem putPart_launchFns (s : State) (p : Part) : (putPart s p).launchFns = s.launchFns := rfl
@[simp] theorem putPart_auditFns (s : State) (p : Part) : (putPart s p).auditFns = s.auditFns := rfl
@[simp] theorem putPart_bodies (s : State) (p : Part) : (putPart s p).bodies = s.bodies := rfl
@[simp] theorem putPart_ring8 (s : State) (p : Part) : (putPart s p).ring8 = s.ring8 := rfl
@[simp] theorem putPart_ring9 (s : State) (p : Part) : (putPart s p).ring9 = s.ring9 := rfl
@[simp] theorem putPart_demand8 (s : State) (p : Part) : (putPart s p).demand8 = s.demand8 := rfl
@[simp] theorem putPart_demand9 (s : State) (p : Part) : (putPart s p).demand9 = s.demand9 := rfl
@[simp] theorem putPart_notices (s : State) (p : Part) : (putPart s p).notices = s.notices := rfl
@[simp] theorem putPart_cmdHeld (s : State) (p : Part) : (putPart s p).cmdHeld = s.cmdHeld := rfl
@[simp] theorem putPart_seals (s : State) (p : Part) : (putPart s p).seals = s.seals := rfl
@[simp] theorem putPart_tables (s : State) (p : Part) : (putPart s p).tables = s.tables := rfl
@[simp] theorem putPart_churn0 (s : State) (p : Part) : (putPart s p).churn0 = s.churn0 := rfl
@[simp] theorem putPart_churn1 (s : State) (p : Part) : (putPart s p).churn1 = s.churn1 := rfl
@[simp] theorem putPart_qps (s : State) (p : Part) : (putPart s p).qps = s.qps := rfl
@[simp] theorem putPart_fabric (s : State) (p : Part) : (putPart s p).fabric = s.fabric := rfl
@[simp] theorem putPart_power (s : State) (p : Part) : (putPart s p).power = s.power := rfl
@[simp] theorem putPart_boot (s : State) (p : Part) : (putPart s p).boot = s.boot := rfl
@[simp] theorem putPart_hostRead (s : State) (p : Part) : (putPart s p).hostRead = s.hostRead := rfl
@[simp] theorem putPart_agenda (s : State) (p : Part) : (putPart s p).agenda = s.agenda := rfl
@[simp] theorem putPart_clock (s : State) (p : Part) : (putPart s p).clock = s.clock := rfl
@[simp] theorem putPart_enginesTurn (s : State) (p : Part) : (putPart s p).enginesTurn = s.enginesTurn := rfl
@[simp] theorem putPart_lastIssue (s : State) (p : Part) : (putPart s p).lastIssue = s.lastIssue := rfl

/-! ### `modRegion` -/

@[simp] theorem modRegion_mem (s : State) (part id : Nat) (f : Region → Region) : (modRegion s part id f).mem = s.mem := rfl
@[simp] theorem modRegion_owners (s : State) (part id : Nat) (f : Region → Region) : (modRegion s part id f).owners = s.owners := rfl
@[simp] theorem modRegion_groups (s : State) (part id : Nat) (f : Region → Region) : (modRegion s part id f).groups = s.groups := rfl
@[simp] theorem modRegion_cur (s : State) (part id : Nat) (f : Region → Region) : (modRegion s part id f).cur = s.cur := rfl
@[simp] theorem modRegion_nextId (s : State) (part id : Nat) (f : Region → Region) : (modRegion s part id f).nextId = s.nextId := rfl
@[simp] theorem modRegion_cohorts (s : State) (part id : Nat) (f : Region → Region) : (modRegion s part id f).cohorts = s.cohorts := rfl
@[simp] theorem modRegion_vacated (s : State) (part id : Nat) (f : Region → Region) : (modRegion s part id f).vacated = s.vacated := rfl
@[simp] theorem modRegion_tasks (s : State) (part id : Nat) (f : Region → Region) : (modRegion s part id f).tasks = s.tasks := rfl
@[simp] theorem modRegion_entryNext (s : State) (part id : Nat) (f : Region → Region) : (modRegion s part id f).entryNext = s.entryNext := rfl
@[simp] theorem modRegion_parts (s : State) (part id : Nat) (f : Region → Region) : (modRegion s part id f).parts = s.parts := rfl
@[simp] theorem modRegion_freeRoots (s : State) (part id : Nat) (f : Region → Region) : (modRegion s part id f).freeRoots = s.freeRoots := rfl
@[simp] theorem modRegion_records (s : State) (part id : Nat) (f : Region → Region) : (modRegion s part id f).records = s.records := rfl
@[simp] theorem modRegion_staged (s : State) (part id : Nat) (f : Region → Region) : (modRegion s part id f).staged = s.staged := rfl
@[simp] theorem modRegion_lastHeld (s : State) (part id : Nat) (f : Region → Region) : (modRegion s part id f).lastHeld = s.lastHeld := rfl
@[simp] theorem modRegion_lease (s : State) (part id : Nat) (f : Region → Region) : (modRegion s part id f).lease = s.lease := rfl
@[simp] theorem modRegion_leaseJobs (s : State) (part id : Nat) (f : Region → Region) : (modRegion s part id f).leaseJobs = s.leaseJobs := rfl
@[simp] theorem modRegion_pre820 (s : State) (part id : Nat) (f : Region → Region) : (modRegion s part id f).pre820 = s.pre820 := rfl
@[simp] theorem modRegion_pre821 (s : State) (part id : Nat) (f : Region → Region) : (modRegion s part id f).pre821 = s.pre821 := rfl
@[simp] theorem modRegion_pre822 (s : State) (part id : Nat) (f : Region → Region) : (modRegion s part id f).pre822 = s.pre822 := rfl
@[simp] theorem modRegion_preempts (s : State) (part id : Nat) (f : Region → Region) : (modRegion s part id f).preempts = s.preempts := rfl
@[simp] theorem modRegion_tlb (s : State) (part id : Nat) (f : Region → Region) : (modRegion s part id f).tlb = s.tlb := rfl
@[simp] theorem modRegion_cache (s : State) (part id : Nat) (f : Region → Region) : (modRegion s part id f).cache = s.cache := rfl
@[simp] theorem modRegion_zeroing (s : State) (part id : Nat) (f : Region → Region) : (modRegion s part id f).zeroing = s.zeroing := rfl
@[simp] theorem modRegion_badLines (s : State) (part id : Nat) (f : Region → Region) : (modRegion s part id f).badLines = s.badLines := rfl
@[simp] theorem modRegion_refusedPeers (s : State) (part id : Nat) (f : Region → Region) : (modRegion s part id f).refusedPeers = s.refusedPeers := rfl
@[simp] theorem modRegion_invals (s : State) (part id : Nat) (f : Region → Region) : (modRegion s part id f).invals = s.invals := rfl
@[simp] theorem modRegion_parks (s : State) (part id : Nat) (f : Region → Region) : (modRegion s part id f).parks = s.parks := rfl
@[simp] theorem modRegion_offers (s : State) (part id : Nat) (f : Region → Region) : (modRegion s part id f).offers = s.offers := rfl
@[simp] theorem modRegion_launchFns (s : State) (part id : Nat) (f : Region → Region) : (modRegion s part id f).launchFns = s.launchFns := rfl
@[simp] theorem modRegion_auditFns (s : State) (part id : Nat) (f : Region → Region) : (modRegion s part id f).auditFns = s.auditFns := rfl
@[simp] theorem modRegion_bodies (s : State) (part id : Nat) (f : Region → Region) : (modRegion s part id f).bodies = s.bodies := rfl
@[simp] theorem modRegion_ring8 (s : State) (part id : Nat) (f : Region → Region) : (modRegion s part id f).ring8 = s.ring8 := rfl
@[simp] theorem modRegion_ring9 (s : State) (part id : Nat) (f : Region → Region) : (modRegion s part id f).ring9 = s.ring9 := rfl
@[simp] theorem modRegion_demand8 (s : State) (part id : Nat) (f : Region → Region) : (modRegion s part id f).demand8 = s.demand8 := rfl
@[simp] theorem modRegion_demand9 (s : State) (part id : Nat) (f : Region → Region) : (modRegion s part id f).demand9 = s.demand9 := rfl
@[simp] theorem modRegion_notices (s : State) (part id : Nat) (f : Region → Region) : (modRegion s part id f).notices = s.notices := rfl
@[simp] theorem modRegion_cmdHeld (s : State) (part id : Nat) (f : Region → Region) : (modRegion s part id f).cmdHeld = s.cmdHeld := rfl
@[simp] theorem modRegion_seals (s : State) (part id : Nat) (f : Region → Region) : (modRegion s part id f).seals = s.seals := rfl
@[simp] theorem modRegion_tables (s : State) (part id : Nat) (f : Region → Region) : (modRegion s part id f).tables = s.tables := rfl
@[simp] theorem modRegion_churn0 (s : State) (part id : Nat) (f : Region → Region) : (modRegion s part id f).churn0 = s.churn0 := rfl
@[simp] theorem modRegion_churn1 (s : State) (part id : Nat) (f : Region → Region) : (modRegion s part id f).churn1 = s.churn1 := rfl
@[simp] theorem modRegion_qps (s : State) (part id : Nat) (f : Region → Region) : (modRegion s part id f).qps = s.qps := rfl
@[simp] theorem modRegion_fabric (s : State) (part id : Nat) (f : Region → Region) : (modRegion s part id f).fabric = s.fabric := rfl
@[simp] theorem modRegion_power (s : State) (part id : Nat) (f : Region → Region) : (modRegion s part id f).power = s.power := rfl
@[simp] theorem modRegion_boot (s : State) (part id : Nat) (f : Region → Region) : (modRegion s part id f).boot = s.boot := rfl
@[simp] theorem modRegion_hostRead (s : State) (part id : Nat) (f : Region → Region) : (modRegion s part id f).hostRead = s.hostRead := rfl
@[simp] theorem modRegion_agenda (s : State) (part id : Nat) (f : Region → Region) : (modRegion s part id f).agenda = s.agenda := rfl
@[simp] theorem modRegion_clock (s : State) (part id : Nat) (f : Region → Region) : (modRegion s part id f).clock = s.clock := rfl
@[simp] theorem modRegion_enginesTurn (s : State) (part id : Nat) (f : Region → Region) : (modRegion s part id f).enginesTurn = s.enginesTurn := rfl
@[simp] theorem modRegion_lastIssue (s : State) (part id : Nat) (f : Region → Region) : (modRegion s part id f).lastIssue = s.lastIssue := rfl

/-! ### `countRegion` -/

@[simp] theorem countRegion_mem (s : State) (part region n amount : Nat) : (countRegion s part region n amount).mem = s.mem := rfl
@[simp] theorem countRegion_owners (s : State) (part region n amount : Nat) : (countRegion s part region n amount).owners = s.owners := rfl
@[simp] theorem countRegion_groups (s : State) (part region n amount : Nat) : (countRegion s part region n amount).groups = s.groups := rfl
@[simp] theorem countRegion_cur (s : State) (part region n amount : Nat) : (countRegion s part region n amount).cur = s.cur := rfl
@[simp] theorem countRegion_nextId (s : State) (part region n amount : Nat) : (countRegion s part region n amount).nextId = s.nextId := rfl
@[simp] theorem countRegion_cohorts (s : State) (part region n amount : Nat) : (countRegion s part region n amount).cohorts = s.cohorts := rfl
@[simp] theorem countRegion_vacated (s : State) (part region n amount : Nat) : (countRegion s part region n amount).vacated = s.vacated := rfl
@[simp] theorem countRegion_tasks (s : State) (part region n amount : Nat) : (countRegion s part region n amount).tasks = s.tasks := rfl
@[simp] theorem countRegion_entryNext (s : State) (part region n amount : Nat) : (countRegion s part region n amount).entryNext = s.entryNext := rfl
@[simp] theorem countRegion_parts (s : State) (part region n amount : Nat) : (countRegion s part region n amount).parts = s.parts := rfl
@[simp] theorem countRegion_freeRoots (s : State) (part region n amount : Nat) : (countRegion s part region n amount).freeRoots = s.freeRoots := rfl
@[simp] theorem countRegion_records (s : State) (part region n amount : Nat) : (countRegion s part region n amount).records = s.records := rfl
@[simp] theorem countRegion_staged (s : State) (part region n amount : Nat) : (countRegion s part region n amount).staged = s.staged := rfl
@[simp] theorem countRegion_lastHeld (s : State) (part region n amount : Nat) : (countRegion s part region n amount).lastHeld = s.lastHeld := rfl
@[simp] theorem countRegion_lease (s : State) (part region n amount : Nat) : (countRegion s part region n amount).lease = s.lease := rfl
@[simp] theorem countRegion_leaseJobs (s : State) (part region n amount : Nat) : (countRegion s part region n amount).leaseJobs = s.leaseJobs := rfl
@[simp] theorem countRegion_pre820 (s : State) (part region n amount : Nat) : (countRegion s part region n amount).pre820 = s.pre820 := rfl
@[simp] theorem countRegion_pre821 (s : State) (part region n amount : Nat) : (countRegion s part region n amount).pre821 = s.pre821 := rfl
@[simp] theorem countRegion_pre822 (s : State) (part region n amount : Nat) : (countRegion s part region n amount).pre822 = s.pre822 := rfl
@[simp] theorem countRegion_preempts (s : State) (part region n amount : Nat) : (countRegion s part region n amount).preempts = s.preempts := rfl
@[simp] theorem countRegion_tlb (s : State) (part region n amount : Nat) : (countRegion s part region n amount).tlb = s.tlb := rfl
@[simp] theorem countRegion_cache (s : State) (part region n amount : Nat) : (countRegion s part region n amount).cache = s.cache := rfl
@[simp] theorem countRegion_zeroing (s : State) (part region n amount : Nat) : (countRegion s part region n amount).zeroing = s.zeroing := rfl
@[simp] theorem countRegion_badLines (s : State) (part region n amount : Nat) : (countRegion s part region n amount).badLines = s.badLines := rfl
@[simp] theorem countRegion_refusedPeers (s : State) (part region n amount : Nat) : (countRegion s part region n amount).refusedPeers = s.refusedPeers := rfl
@[simp] theorem countRegion_invals (s : State) (part region n amount : Nat) : (countRegion s part region n amount).invals = s.invals := rfl
@[simp] theorem countRegion_parks (s : State) (part region n amount : Nat) : (countRegion s part region n amount).parks = s.parks := rfl
@[simp] theorem countRegion_offers (s : State) (part region n amount : Nat) : (countRegion s part region n amount).offers = s.offers := rfl
@[simp] theorem countRegion_launchFns (s : State) (part region n amount : Nat) : (countRegion s part region n amount).launchFns = s.launchFns := rfl
@[simp] theorem countRegion_auditFns (s : State) (part region n amount : Nat) : (countRegion s part region n amount).auditFns = s.auditFns := rfl
@[simp] theorem countRegion_bodies (s : State) (part region n amount : Nat) : (countRegion s part region n amount).bodies = s.bodies := rfl
@[simp] theorem countRegion_ring8 (s : State) (part region n amount : Nat) : (countRegion s part region n amount).ring8 = s.ring8 := rfl
@[simp] theorem countRegion_ring9 (s : State) (part region n amount : Nat) : (countRegion s part region n amount).ring9 = s.ring9 := rfl
@[simp] theorem countRegion_demand8 (s : State) (part region n amount : Nat) : (countRegion s part region n amount).demand8 = s.demand8 := rfl
@[simp] theorem countRegion_demand9 (s : State) (part region n amount : Nat) : (countRegion s part region n amount).demand9 = s.demand9 := rfl
@[simp] theorem countRegion_notices (s : State) (part region n amount : Nat) : (countRegion s part region n amount).notices = s.notices := rfl
@[simp] theorem countRegion_cmdHeld (s : State) (part region n amount : Nat) : (countRegion s part region n amount).cmdHeld = s.cmdHeld := rfl
@[simp] theorem countRegion_seals (s : State) (part region n amount : Nat) : (countRegion s part region n amount).seals = s.seals := rfl
@[simp] theorem countRegion_tables (s : State) (part region n amount : Nat) : (countRegion s part region n amount).tables = s.tables := rfl
@[simp] theorem countRegion_churn0 (s : State) (part region n amount : Nat) : (countRegion s part region n amount).churn0 = s.churn0 := rfl
@[simp] theorem countRegion_churn1 (s : State) (part region n amount : Nat) : (countRegion s part region n amount).churn1 = s.churn1 := rfl
@[simp] theorem countRegion_qps (s : State) (part region n amount : Nat) : (countRegion s part region n amount).qps = s.qps := rfl
@[simp] theorem countRegion_fabric (s : State) (part region n amount : Nat) : (countRegion s part region n amount).fabric = s.fabric := rfl
@[simp] theorem countRegion_power (s : State) (part region n amount : Nat) : (countRegion s part region n amount).power = s.power := rfl
@[simp] theorem countRegion_boot (s : State) (part region n amount : Nat) : (countRegion s part region n amount).boot = s.boot := rfl
@[simp] theorem countRegion_hostRead (s : State) (part region n amount : Nat) : (countRegion s part region n amount).hostRead = s.hostRead := rfl
@[simp] theorem countRegion_agenda (s : State) (part region n amount : Nat) : (countRegion s part region n amount).agenda = s.agenda := rfl
@[simp] theorem countRegion_clock (s : State) (part region n amount : Nat) : (countRegion s part region n amount).clock = s.clock := rfl
@[simp] theorem countRegion_enginesTurn (s : State) (part region n amount : Nat) : (countRegion s part region n amount).enginesTurn = s.enginesTurn := rfl
@[simp] theorem countRegion_lastIssue (s : State) (part region n amount : Nat) : (countRegion s part region n amount).lastIssue = s.lastIssue := rfl

/-! ### `putTask` -/

@[simp] theorem putTask_mem (s : State) (t : Task) : (putTask s t).mem = s.mem := rfl
@[simp] theorem putTask_owners (s : State) (t : Task) : (putTask s t).owners = s.owners := rfl
@[simp] theorem putTask_groups (s : State) (t : Task) : (putTask s t).groups = s.groups := rfl
@[simp] theorem putTask_cur (s : State) (t : Task) : (putTask s t).cur = s.cur := rfl
@[simp] theorem putTask_nextId (s : State) (t : Task) : (putTask s t).nextId = s.nextId := rfl
@[simp] theorem putTask_cohorts (s : State) (t : Task) : (putTask s t).cohorts = s.cohorts := rfl
@[simp] theorem putTask_vacated (s : State) (t : Task) : (putTask s t).vacated = s.vacated := rfl
@[simp] theorem putTask_entryNext (s : State) (t : Task) : (putTask s t).entryNext = s.entryNext := rfl
@[simp] theorem putTask_regions (s : State) (t : Task) : (putTask s t).regions = s.regions := rfl
@[simp] theorem putTask_parts (s : State) (t : Task) : (putTask s t).parts = s.parts := rfl
@[simp] theorem putTask_freeRoots (s : State) (t : Task) : (putTask s t).freeRoots = s.freeRoots := rfl
@[simp] theorem putTask_records (s : State) (t : Task) : (putTask s t).records = s.records := rfl
@[simp] theorem putTask_staged (s : State) (t : Task) : (putTask s t).staged = s.staged := rfl
@[simp] theorem putTask_lastHeld (s : State) (t : Task) : (putTask s t).lastHeld = s.lastHeld := rfl
@[simp] theorem putTask_lease (s : State) (t : Task) : (putTask s t).lease = s.lease := rfl
@[simp] theorem putTask_leaseJobs (s : State) (t : Task) : (putTask s t).leaseJobs = s.leaseJobs := rfl
@[simp] theorem putTask_pre820 (s : State) (t : Task) : (putTask s t).pre820 = s.pre820 := rfl
@[simp] theorem putTask_pre821 (s : State) (t : Task) : (putTask s t).pre821 = s.pre821 := rfl
@[simp] theorem putTask_pre822 (s : State) (t : Task) : (putTask s t).pre822 = s.pre822 := rfl
@[simp] theorem putTask_preempts (s : State) (t : Task) : (putTask s t).preempts = s.preempts := rfl
@[simp] theorem putTask_tlb (s : State) (t : Task) : (putTask s t).tlb = s.tlb := rfl
@[simp] theorem putTask_cache (s : State) (t : Task) : (putTask s t).cache = s.cache := rfl
@[simp] theorem putTask_zeroing (s : State) (t : Task) : (putTask s t).zeroing = s.zeroing := rfl
@[simp] theorem putTask_badLines (s : State) (t : Task) : (putTask s t).badLines = s.badLines := rfl
@[simp] theorem putTask_refusedPeers (s : State) (t : Task) : (putTask s t).refusedPeers = s.refusedPeers := rfl
@[simp] theorem putTask_invals (s : State) (t : Task) : (putTask s t).invals = s.invals := rfl
@[simp] theorem putTask_parks (s : State) (t : Task) : (putTask s t).parks = s.parks := rfl
@[simp] theorem putTask_offers (s : State) (t : Task) : (putTask s t).offers = s.offers := rfl
@[simp] theorem putTask_launchFns (s : State) (t : Task) : (putTask s t).launchFns = s.launchFns := rfl
@[simp] theorem putTask_auditFns (s : State) (t : Task) : (putTask s t).auditFns = s.auditFns := rfl
@[simp] theorem putTask_bodies (s : State) (t : Task) : (putTask s t).bodies = s.bodies := rfl
@[simp] theorem putTask_ring8 (s : State) (t : Task) : (putTask s t).ring8 = s.ring8 := rfl
@[simp] theorem putTask_ring9 (s : State) (t : Task) : (putTask s t).ring9 = s.ring9 := rfl
@[simp] theorem putTask_demand8 (s : State) (t : Task) : (putTask s t).demand8 = s.demand8 := rfl
@[simp] theorem putTask_demand9 (s : State) (t : Task) : (putTask s t).demand9 = s.demand9 := rfl
@[simp] theorem putTask_notices (s : State) (t : Task) : (putTask s t).notices = s.notices := rfl
@[simp] theorem putTask_cmdHeld (s : State) (t : Task) : (putTask s t).cmdHeld = s.cmdHeld := rfl
@[simp] theorem putTask_seals (s : State) (t : Task) : (putTask s t).seals = s.seals := rfl
@[simp] theorem putTask_tables (s : State) (t : Task) : (putTask s t).tables = s.tables := rfl
@[simp] theorem putTask_churn0 (s : State) (t : Task) : (putTask s t).churn0 = s.churn0 := rfl
@[simp] theorem putTask_churn1 (s : State) (t : Task) : (putTask s t).churn1 = s.churn1 := rfl
@[simp] theorem putTask_qps (s : State) (t : Task) : (putTask s t).qps = s.qps := rfl
@[simp] theorem putTask_fabric (s : State) (t : Task) : (putTask s t).fabric = s.fabric := rfl
@[simp] theorem putTask_power (s : State) (t : Task) : (putTask s t).power = s.power := rfl
@[simp] theorem putTask_boot (s : State) (t : Task) : (putTask s t).boot = s.boot := rfl
@[simp] theorem putTask_hostRead (s : State) (t : Task) : (putTask s t).hostRead = s.hostRead := rfl
@[simp] theorem putTask_agenda (s : State) (t : Task) : (putTask s t).agenda = s.agenda := rfl
@[simp] theorem putTask_clock (s : State) (t : Task) : (putTask s t).clock = s.clock := rfl
@[simp] theorem putTask_enginesTurn (s : State) (t : Task) : (putTask s t).enginesTurn = s.enginesTurn := rfl
@[simp] theorem putTask_lastIssue (s : State) (t : Task) : (putTask s t).lastIssue = s.lastIssue := rfl

/-! ### `modCohort` -/

@[simp] theorem modCohort_mem (s : State) (id : Nat) (f : Cohort → Cohort) : (modCohort s id f).mem = s.mem := rfl
@[simp] theorem modCohort_owners (s : State) (id : Nat) (f : Cohort → Cohort) : (modCohort s id f).owners = s.owners := rfl
@[simp] theorem modCohort_groups (s : State) (id : Nat) (f : Cohort → Cohort) : (modCohort s id f).groups = s.groups := rfl
@[simp] theorem modCohort_cur (s : State) (id : Nat) (f : Cohort → Cohort) : (modCohort s id f).cur = s.cur := rfl
@[simp] theorem modCohort_nextId (s : State) (id : Nat) (f : Cohort → Cohort) : (modCohort s id f).nextId = s.nextId := rfl
@[simp] theorem modCohort_vacated (s : State) (id : Nat) (f : Cohort → Cohort) : (modCohort s id f).vacated = s.vacated := rfl
@[simp] theorem modCohort_tasks (s : State) (id : Nat) (f : Cohort → Cohort) : (modCohort s id f).tasks = s.tasks := rfl
@[simp] theorem modCohort_entryNext (s : State) (id : Nat) (f : Cohort → Cohort) : (modCohort s id f).entryNext = s.entryNext := rfl
@[simp] theorem modCohort_regions (s : State) (id : Nat) (f : Cohort → Cohort) : (modCohort s id f).regions = s.regions := rfl
@[simp] theorem modCohort_parts (s : State) (id : Nat) (f : Cohort → Cohort) : (modCohort s id f).parts = s.parts := rfl
@[simp] theorem modCohort_freeRoots (s : State) (id : Nat) (f : Cohort → Cohort) : (modCohort s id f).freeRoots = s.freeRoots := rfl
@[simp] theorem modCohort_records (s : State) (id : Nat) (f : Cohort → Cohort) : (modCohort s id f).records = s.records := rfl
@[simp] theorem modCohort_staged (s : State) (id : Nat) (f : Cohort → Cohort) : (modCohort s id f).staged = s.staged := rfl
@[simp] theorem modCohort_lastHeld (s : State) (id : Nat) (f : Cohort → Cohort) : (modCohort s id f).lastHeld = s.lastHeld := rfl
@[simp] theorem modCohort_lease (s : State) (id : Nat) (f : Cohort → Cohort) : (modCohort s id f).lease = s.lease := rfl
@[simp] theorem modCohort_leaseJobs (s : State) (id : Nat) (f : Cohort → Cohort) : (modCohort s id f).leaseJobs = s.leaseJobs := rfl
@[simp] theorem modCohort_pre820 (s : State) (id : Nat) (f : Cohort → Cohort) : (modCohort s id f).pre820 = s.pre820 := rfl
@[simp] theorem modCohort_pre821 (s : State) (id : Nat) (f : Cohort → Cohort) : (modCohort s id f).pre821 = s.pre821 := rfl
@[simp] theorem modCohort_pre822 (s : State) (id : Nat) (f : Cohort → Cohort) : (modCohort s id f).pre822 = s.pre822 := rfl
@[simp] theorem modCohort_preempts (s : State) (id : Nat) (f : Cohort → Cohort) : (modCohort s id f).preempts = s.preempts := rfl
@[simp] theorem modCohort_tlb (s : State) (id : Nat) (f : Cohort → Cohort) : (modCohort s id f).tlb = s.tlb := rfl
@[simp] theorem modCohort_cache (s : State) (id : Nat) (f : Cohort → Cohort) : (modCohort s id f).cache = s.cache := rfl
@[simp] theorem modCohort_zeroing (s : State) (id : Nat) (f : Cohort → Cohort) : (modCohort s id f).zeroing = s.zeroing := rfl
@[simp] theorem modCohort_badLines (s : State) (id : Nat) (f : Cohort → Cohort) : (modCohort s id f).badLines = s.badLines := rfl
@[simp] theorem modCohort_refusedPeers (s : State) (id : Nat) (f : Cohort → Cohort) : (modCohort s id f).refusedPeers = s.refusedPeers := rfl
@[simp] theorem modCohort_invals (s : State) (id : Nat) (f : Cohort → Cohort) : (modCohort s id f).invals = s.invals := rfl
@[simp] theorem modCohort_parks (s : State) (id : Nat) (f : Cohort → Cohort) : (modCohort s id f).parks = s.parks := rfl
@[simp] theorem modCohort_offers (s : State) (id : Nat) (f : Cohort → Cohort) : (modCohort s id f).offers = s.offers := rfl
@[simp] theorem modCohort_launchFns (s : State) (id : Nat) (f : Cohort → Cohort) : (modCohort s id f).launchFns = s.launchFns := rfl
@[simp] theorem modCohort_auditFns (s : State) (id : Nat) (f : Cohort → Cohort) : (modCohort s id f).auditFns = s.auditFns := rfl
@[simp] theorem modCohort_bodies (s : State) (id : Nat) (f : Cohort → Cohort) : (modCohort s id f).bodies = s.bodies := rfl
@[simp] theorem modCohort_ring8 (s : State) (id : Nat) (f : Cohort → Cohort) : (modCohort s id f).ring8 = s.ring8 := rfl
@[simp] theorem modCohort_ring9 (s : State) (id : Nat) (f : Cohort → Cohort) : (modCohort s id f).ring9 = s.ring9 := rfl
@[simp] theorem modCohort_demand8 (s : State) (id : Nat) (f : Cohort → Cohort) : (modCohort s id f).demand8 = s.demand8 := rfl
@[simp] theorem modCohort_demand9 (s : State) (id : Nat) (f : Cohort → Cohort) : (modCohort s id f).demand9 = s.demand9 := rfl
@[simp] theorem modCohort_notices (s : State) (id : Nat) (f : Cohort → Cohort) : (modCohort s id f).notices = s.notices := rfl
@[simp] theorem modCohort_cmdHeld (s : State) (id : Nat) (f : Cohort → Cohort) : (modCohort s id f).cmdHeld = s.cmdHeld := rfl
@[simp] theorem modCohort_seals (s : State) (id : Nat) (f : Cohort → Cohort) : (modCohort s id f).seals = s.seals := rfl
@[simp] theorem modCohort_tables (s : State) (id : Nat) (f : Cohort → Cohort) : (modCohort s id f).tables = s.tables := rfl
@[simp] theorem modCohort_churn0 (s : State) (id : Nat) (f : Cohort → Cohort) : (modCohort s id f).churn0 = s.churn0 := rfl
@[simp] theorem modCohort_churn1 (s : State) (id : Nat) (f : Cohort → Cohort) : (modCohort s id f).churn1 = s.churn1 := rfl
@[simp] theorem modCohort_qps (s : State) (id : Nat) (f : Cohort → Cohort) : (modCohort s id f).qps = s.qps := rfl
@[simp] theorem modCohort_fabric (s : State) (id : Nat) (f : Cohort → Cohort) : (modCohort s id f).fabric = s.fabric := rfl
@[simp] theorem modCohort_power (s : State) (id : Nat) (f : Cohort → Cohort) : (modCohort s id f).power = s.power := rfl
@[simp] theorem modCohort_boot (s : State) (id : Nat) (f : Cohort → Cohort) : (modCohort s id f).boot = s.boot := rfl
@[simp] theorem modCohort_hostRead (s : State) (id : Nat) (f : Cohort → Cohort) : (modCohort s id f).hostRead = s.hostRead := rfl
@[simp] theorem modCohort_agenda (s : State) (id : Nat) (f : Cohort → Cohort) : (modCohort s id f).agenda = s.agenda := rfl
@[simp] theorem modCohort_clock (s : State) (id : Nat) (f : Cohort → Cohort) : (modCohort s id f).clock = s.clock := rfl
@[simp] theorem modCohort_enginesTurn (s : State) (id : Nat) (f : Cohort → Cohort) : (modCohort s id f).enginesTurn = s.enginesTurn := rfl
@[simp] theorem modCohort_lastIssue (s : State) (id : Nat) (f : Cohort → Cohort) : (modCohort s id f).lastIssue = s.lastIssue := rfl

/-! ### `setSreg` -/

@[simp] theorem setSreg_gid (g : Group) (r : Reg) (v : Word) : (setSreg g r v).gid = g.gid := rfl
@[simp] theorem setSreg_part (g : Group) (r : Reg) (v : Word) : (setSreg g r v).part = g.part := rfl
@[simp] theorem setSreg_auth (g : Group) (r : Reg) (v : Word) : (setSreg g r v).auth = g.auth := rfl
@[simp] theorem setSreg_task (g : Group) (r : Reg) (v : Word) : (setSreg g r v).task = g.task := rfl
@[simp] theorem setSreg_region (g : Group) (r : Reg) (v : Word) : (setSreg g r v).region = g.region := rfl
@[simp] theorem setSreg_index (g : Group) (r : Reg) (v : Word) : (setSreg g r v).index = g.index := rfl
@[simp] theorem setSreg_ix (g : Group) (r : Reg) (v : Word) : (setSreg g r v).ix = g.ix := rfl
@[simp] theorem setSreg_iy (g : Group) (r : Reg) (v : Word) : (setSreg g r v).iy = g.iy := rfl
@[simp] theorem setSreg_iz (g : Group) (r : Reg) (v : Word) : (setSreg g r v).iz = g.iz := rfl
@[simp] theorem setSreg_lanes (g : Group) (r : Reg) (v : Word) : (setSreg g r v).lanes = g.lanes := rfl
@[simp] theorem setSreg_vcount (g : Group) (r : Reg) (v : Word) : (setSreg g r v).vcount = g.vcount := rfl
@[simp] theorem setSreg_tcount (g : Group) (r : Reg) (v : Word) : (setSreg g r v).tcount = g.tcount := rfl
@[simp] theorem setSreg_die (g : Group) (r : Reg) (v : Word) : (setSreg g r v).die = g.die := rfl
@[simp] theorem setSreg_cohort (g : Group) (r : Reg) (v : Word) : (setSreg g r v).cohort = g.cohort := rfl
@[simp] theorem setSreg_status (g : Group) (r : Reg) (v : Word) : (setSreg g r v).status = g.status := rfl
@[simp] theorem setSreg_level (g : Group) (r : Reg) (v : Word) : (setSreg g r v).level = g.level := rfl
@[simp] theorem setSreg_quantum (g : Group) (r : Reg) (v : Word) : (setSreg g r v).quantum = g.quantum := rfl
@[simp] theorem setSreg_bindSeq (g : Group) (r : Reg) (v : Word) : (setSreg g r v).bindSeq = g.bindSeq := rfl
@[simp] theorem setSreg_boundAt (g : Group) (r : Reg) (v : Word) : (setSreg g r v).boundAt = g.boundAt := rfl
@[simp] theorem setSreg_readySeq (g : Group) (r : Reg) (v : Word) : (setSreg g r v).readySeq = g.readySeq := rfl
@[simp] theorem setSreg_wait (g : Group) (r : Reg) (v : Word) : (setSreg g r v).wait = g.wait := rfl
@[simp] theorem setSreg_image (g : Group) (r : Reg) (v : Word) : (setSreg g r v).image = g.image := rfl
@[simp] theorem setSreg_saved (g : Group) (r : Reg) (v : Word) : (setSreg g r v).saved = g.saved := rfl
@[simp] theorem setSreg_pc (g : Group) (r : Reg) (v : Word) : (setSreg g r v).pc = g.pc := rfl
@[simp] theorem setSreg_mode (g : Group) (r : Reg) (v : Word) : (setSreg g r v).mode = g.mode := rfl
@[simp] theorem setSreg_seed (g : Group) (r : Reg) (v : Word) : (setSreg g r v).seed = g.seed := rfl
@[simp] theorem setSreg_pinned (g : Group) (r : Reg) (v : Word) : (setSreg g r v).pinned = g.pinned := rfl
@[simp] theorem setSreg_retiredS (g : Group) (r : Reg) (v : Word) : (setSreg g r v).retiredS = g.retiredS := rfl
@[simp] theorem setSreg_retiredL (g : Group) (r : Reg) (v : Word) : (setSreg g r v).retiredL = g.retiredL := rfl
@[simp] theorem setSreg_stamp (g : Group) (r : Reg) (v : Word) : (setSreg g r v).stamp = g.stamp := rfl
@[simp] theorem setSreg_live (g : Group) (r : Reg) (v : Word) : (setSreg g r v).live = g.live := rfl
@[simp] theorem setSreg_queue (g : Group) (r : Reg) (v : Word) : (setSreg g r v).queue = g.queue := rfl
@[simp] theorem setSreg_vregs (g : Group) (r : Reg) (v : Word) : (setSreg g r v).vregs = g.vregs := rfl
@[simp] theorem setSreg_perms (g : Group) (r : Reg) (v : Word) : (setSreg g r v).perms = g.perms := rfl
@[simp] theorem setSreg_tiles (g : Group) (r : Reg) (v : Word) : (setSreg g r v).tiles = g.tiles := rfl
@[simp] theorem setSreg_pend (g : Group) (r : Reg) (v : Word) : (setSreg g r v).pend = g.pend := rfl
@[simp] theorem setSreg_mset (g : Group) (r : Reg) (v : Word) : (setSreg g r v).mset = g.mset := rfl
@[simp] theorem setSreg_cset (g : Group) (r : Reg) (v : Word) : (setSreg g r v).cset = g.cset := rfl
@[simp] theorem setSreg_cmds (g : Group) (r : Reg) (v : Word) : (setSreg g r v).cmds = g.cmds := rfl
@[simp] theorem setSreg_nextCmd (g : Group) (r : Reg) (v : Word) : (setSreg g r v).nextCmd = g.nextCmd := rfl
@[simp] theorem setSreg_cmdBatch (g : Group) (r : Reg) (v : Word) : (setSreg g r v).cmdBatch = g.cmdBatch := rfl
@[simp] theorem setSreg_copies (g : Group) (r : Reg) (v : Word) : (setSreg g r v).copies = g.copies := rfl
@[simp] theorem setSreg_nextCopy (g : Group) (r : Reg) (v : Word) : (setSreg g r v).nextCopy = g.nextCopy := rfl
@[simp] theorem setSreg_copyBatch (g : Group) (r : Reg) (v : Word) : (setSreg g r v).copyBatch = g.copyBatch := rfl
@[simp] theorem setSreg_prov (g : Group) (r : Reg) (v : Word) : (setSreg g r v).prov = g.prov := rfl
@[simp] theorem setSreg_chooseS (g : Group) (r : Reg) (v : Word) : (setSreg g r v).chooseS = g.chooseS := rfl
@[simp] theorem setSreg_chooseM (g : Group) (r : Reg) (v : Word) : (setSreg g r v).chooseM = g.chooseM := rfl
@[simp] theorem setSreg_chooseX (g : Group) (r : Reg) (v : Word) : (setSreg g r v).chooseX = g.chooseX := rfl
@[simp] theorem setSreg_body (g : Group) (r : Reg) (v : Word) : (setSreg g r v).body = g.body := rfl
@[simp] theorem setSreg_bodyState (g : Group) (r : Reg) (v : Word) : (setSreg g r v).bodyState = g.bodyState := rfl
@[simp] theorem setSreg_ordinal (g : Group) (r : Reg) (v : Word) : (setSreg g r v).ordinal = g.ordinal := rfl
@[simp] theorem setSreg_serves (g : Group) (r : Reg) (v : Word) : (setSreg g r v).serves = g.serves := rfl
@[simp] theorem setSreg_peers (g : Group) (r : Reg) (v : Word) : (setSreg g r v).peers = g.peers := rfl
@[simp] theorem setSreg_stores (g : Group) (r : Reg) (v : Word) : (setSreg g r v).stores = g.stores := rfl
@[simp] theorem setSreg_seen (g : Group) (r : Reg) (v : Word) : (setSreg g r v).seen = g.seen := rfl
@[simp] theorem setSreg_fenced (g : Group) (r : Reg) (v : Word) : (setSreg g r v).fenced = g.fenced := rfl
@[simp] theorem setSreg_dirty (g : Group) (r : Reg) (v : Word) : (setSreg g r v).dirty = g.dirty := rfl
@[simp] theorem setSreg_rotating (g : Group) (r : Reg) (v : Word) : (setSreg g r v).rotating = g.rotating := rfl
@[simp] theorem setSreg_wraps (g : Group) (r : Reg) (v : Word) : (setSreg g r v).wraps = g.wraps := rfl
@[simp] theorem setSreg_latch (g : Group) (r : Reg) (v : Word) : (setSreg g r v).latch = g.latch := rfl
@[simp] theorem setSreg_traces (g : Group) (r : Reg) (v : Word) : (setSreg g r v).traces = g.traces := rfl

/-! ### `setTriple` -/

@[simp] theorem setTriple_gid (g : Group) (t : Reg) (v : Nat) : (setTriple g t v).gid = g.gid := rfl
@[simp] theorem setTriple_part (g : Group) (t : Reg) (v : Nat) : (setTriple g t v).part = g.part := rfl
@[simp] theorem setTriple_auth (g : Group) (t : Reg) (v : Nat) : (setTriple g t v).auth = g.auth := rfl
@[simp] theorem setTriple_task (g : Group) (t : Reg) (v : Nat) : (setTriple g t v).task = g.task := rfl
@[simp] theorem setTriple_region (g : Group) (t : Reg) (v : Nat) : (setTriple g t v).region = g.region := rfl
@[simp] theorem setTriple_index (g : Group) (t : Reg) (v : Nat) : (setTriple g t v).index = g.index := rfl
@[simp] theorem setTriple_ix (g : Group) (t : Reg) (v : Nat) : (setTriple g t v).ix = g.ix := rfl
@[simp] theorem setTriple_iy (g : Group) (t : Reg) (v : Nat) : (setTriple g t v).iy = g.iy := rfl
@[simp] theorem setTriple_iz (g : Group) (t : Reg) (v : Nat) : (setTriple g t v).iz = g.iz := rfl
@[simp] theorem setTriple_lanes (g : Group) (t : Reg) (v : Nat) : (setTriple g t v).lanes = g.lanes := rfl
@[simp] theorem setTriple_vcount (g : Group) (t : Reg) (v : Nat) : (setTriple g t v).vcount = g.vcount := rfl
@[simp] theorem setTriple_tcount (g : Group) (t : Reg) (v : Nat) : (setTriple g t v).tcount = g.tcount := rfl
@[simp] theorem setTriple_die (g : Group) (t : Reg) (v : Nat) : (setTriple g t v).die = g.die := rfl
@[simp] theorem setTriple_cohort (g : Group) (t : Reg) (v : Nat) : (setTriple g t v).cohort = g.cohort := rfl
@[simp] theorem setTriple_status (g : Group) (t : Reg) (v : Nat) : (setTriple g t v).status = g.status := rfl
@[simp] theorem setTriple_level (g : Group) (t : Reg) (v : Nat) : (setTriple g t v).level = g.level := rfl
@[simp] theorem setTriple_quantum (g : Group) (t : Reg) (v : Nat) : (setTriple g t v).quantum = g.quantum := rfl
@[simp] theorem setTriple_bindSeq (g : Group) (t : Reg) (v : Nat) : (setTriple g t v).bindSeq = g.bindSeq := rfl
@[simp] theorem setTriple_boundAt (g : Group) (t : Reg) (v : Nat) : (setTriple g t v).boundAt = g.boundAt := rfl
@[simp] theorem setTriple_readySeq (g : Group) (t : Reg) (v : Nat) : (setTriple g t v).readySeq = g.readySeq := rfl
@[simp] theorem setTriple_wait (g : Group) (t : Reg) (v : Nat) : (setTriple g t v).wait = g.wait := rfl
@[simp] theorem setTriple_image (g : Group) (t : Reg) (v : Nat) : (setTriple g t v).image = g.image := rfl
@[simp] theorem setTriple_saved (g : Group) (t : Reg) (v : Nat) : (setTriple g t v).saved = g.saved := rfl
@[simp] theorem setTriple_pc (g : Group) (t : Reg) (v : Nat) : (setTriple g t v).pc = g.pc := rfl
@[simp] theorem setTriple_mode (g : Group) (t : Reg) (v : Nat) : (setTriple g t v).mode = g.mode := rfl
@[simp] theorem setTriple_seed (g : Group) (t : Reg) (v : Nat) : (setTriple g t v).seed = g.seed := rfl
@[simp] theorem setTriple_pinned (g : Group) (t : Reg) (v : Nat) : (setTriple g t v).pinned = g.pinned := rfl
@[simp] theorem setTriple_retiredS (g : Group) (t : Reg) (v : Nat) : (setTriple g t v).retiredS = g.retiredS := rfl
@[simp] theorem setTriple_retiredL (g : Group) (t : Reg) (v : Nat) : (setTriple g t v).retiredL = g.retiredL := rfl
@[simp] theorem setTriple_stamp (g : Group) (t : Reg) (v : Nat) : (setTriple g t v).stamp = g.stamp := rfl
@[simp] theorem setTriple_live (g : Group) (t : Reg) (v : Nat) : (setTriple g t v).live = g.live := rfl
@[simp] theorem setTriple_queue (g : Group) (t : Reg) (v : Nat) : (setTriple g t v).queue = g.queue := rfl
@[simp] theorem setTriple_vregs (g : Group) (t : Reg) (v : Nat) : (setTriple g t v).vregs = g.vregs := rfl
@[simp] theorem setTriple_perms (g : Group) (t : Reg) (v : Nat) : (setTriple g t v).perms = g.perms := rfl
@[simp] theorem setTriple_tiles (g : Group) (t : Reg) (v : Nat) : (setTriple g t v).tiles = g.tiles := rfl
@[simp] theorem setTriple_pend (g : Group) (t : Reg) (v : Nat) : (setTriple g t v).pend = g.pend := rfl
@[simp] theorem setTriple_mset (g : Group) (t : Reg) (v : Nat) : (setTriple g t v).mset = g.mset := rfl
@[simp] theorem setTriple_cset (g : Group) (t : Reg) (v : Nat) : (setTriple g t v).cset = g.cset := rfl
@[simp] theorem setTriple_cmds (g : Group) (t : Reg) (v : Nat) : (setTriple g t v).cmds = g.cmds := rfl
@[simp] theorem setTriple_nextCmd (g : Group) (t : Reg) (v : Nat) : (setTriple g t v).nextCmd = g.nextCmd := rfl
@[simp] theorem setTriple_cmdBatch (g : Group) (t : Reg) (v : Nat) : (setTriple g t v).cmdBatch = g.cmdBatch := rfl
@[simp] theorem setTriple_copies (g : Group) (t : Reg) (v : Nat) : (setTriple g t v).copies = g.copies := rfl
@[simp] theorem setTriple_nextCopy (g : Group) (t : Reg) (v : Nat) : (setTriple g t v).nextCopy = g.nextCopy := rfl
@[simp] theorem setTriple_copyBatch (g : Group) (t : Reg) (v : Nat) : (setTriple g t v).copyBatch = g.copyBatch := rfl
@[simp] theorem setTriple_prov (g : Group) (t : Reg) (v : Nat) : (setTriple g t v).prov = g.prov := rfl
@[simp] theorem setTriple_chooseS (g : Group) (t : Reg) (v : Nat) : (setTriple g t v).chooseS = g.chooseS := rfl
@[simp] theorem setTriple_chooseM (g : Group) (t : Reg) (v : Nat) : (setTriple g t v).chooseM = g.chooseM := rfl
@[simp] theorem setTriple_chooseX (g : Group) (t : Reg) (v : Nat) : (setTriple g t v).chooseX = g.chooseX := rfl
@[simp] theorem setTriple_body (g : Group) (t : Reg) (v : Nat) : (setTriple g t v).body = g.body := rfl
@[simp] theorem setTriple_bodyState (g : Group) (t : Reg) (v : Nat) : (setTriple g t v).bodyState = g.bodyState := rfl
@[simp] theorem setTriple_ordinal (g : Group) (t : Reg) (v : Nat) : (setTriple g t v).ordinal = g.ordinal := rfl
@[simp] theorem setTriple_serves (g : Group) (t : Reg) (v : Nat) : (setTriple g t v).serves = g.serves := rfl
@[simp] theorem setTriple_peers (g : Group) (t : Reg) (v : Nat) : (setTriple g t v).peers = g.peers := rfl
@[simp] theorem setTriple_stores (g : Group) (t : Reg) (v : Nat) : (setTriple g t v).stores = g.stores := rfl
@[simp] theorem setTriple_seen (g : Group) (t : Reg) (v : Nat) : (setTriple g t v).seen = g.seen := rfl
@[simp] theorem setTriple_fenced (g : Group) (t : Reg) (v : Nat) : (setTriple g t v).fenced = g.fenced := rfl
@[simp] theorem setTriple_dirty (g : Group) (t : Reg) (v : Nat) : (setTriple g t v).dirty = g.dirty := rfl
@[simp] theorem setTriple_rotating (g : Group) (t : Reg) (v : Nat) : (setTriple g t v).rotating = g.rotating := rfl
@[simp] theorem setTriple_wraps (g : Group) (t : Reg) (v : Nat) : (setTriple g t v).wraps = g.wraps := rfl
@[simp] theorem setTriple_latch (g : Group) (t : Reg) (v : Nat) : (setTriple g t v).latch = g.latch := rfl
@[simp] theorem setTriple_traces (g : Group) (t : Reg) (v : Nat) : (setTriple g t v).traces = g.traces := rfl

/-! ### `setSregLane` -/

@[simp] theorem setSregLane_gid (g : Group) (r : Nat) (v : Word) : (setSregLane g r v).gid = g.gid := rfl
@[simp] theorem setSregLane_part (g : Group) (r : Nat) (v : Word) : (setSregLane g r v).part = g.part := rfl
@[simp] theorem setSregLane_auth (g : Group) (r : Nat) (v : Word) : (setSregLane g r v).auth = g.auth := rfl
@[simp] theorem setSregLane_task (g : Group) (r : Nat) (v : Word) : (setSregLane g r v).task = g.task := rfl
@[simp] theorem setSregLane_region (g : Group) (r : Nat) (v : Word) : (setSregLane g r v).region = g.region := rfl
@[simp] theorem setSregLane_index (g : Group) (r : Nat) (v : Word) : (setSregLane g r v).index = g.index := rfl
@[simp] theorem setSregLane_ix (g : Group) (r : Nat) (v : Word) : (setSregLane g r v).ix = g.ix := rfl
@[simp] theorem setSregLane_iy (g : Group) (r : Nat) (v : Word) : (setSregLane g r v).iy = g.iy := rfl
@[simp] theorem setSregLane_iz (g : Group) (r : Nat) (v : Word) : (setSregLane g r v).iz = g.iz := rfl
@[simp] theorem setSregLane_lanes (g : Group) (r : Nat) (v : Word) : (setSregLane g r v).lanes = g.lanes := rfl
@[simp] theorem setSregLane_vcount (g : Group) (r : Nat) (v : Word) : (setSregLane g r v).vcount = g.vcount := rfl
@[simp] theorem setSregLane_tcount (g : Group) (r : Nat) (v : Word) : (setSregLane g r v).tcount = g.tcount := rfl
@[simp] theorem setSregLane_die (g : Group) (r : Nat) (v : Word) : (setSregLane g r v).die = g.die := rfl
@[simp] theorem setSregLane_cohort (g : Group) (r : Nat) (v : Word) : (setSregLane g r v).cohort = g.cohort := rfl
@[simp] theorem setSregLane_status (g : Group) (r : Nat) (v : Word) : (setSregLane g r v).status = g.status := rfl
@[simp] theorem setSregLane_level (g : Group) (r : Nat) (v : Word) : (setSregLane g r v).level = g.level := rfl
@[simp] theorem setSregLane_quantum (g : Group) (r : Nat) (v : Word) : (setSregLane g r v).quantum = g.quantum := rfl
@[simp] theorem setSregLane_bindSeq (g : Group) (r : Nat) (v : Word) : (setSregLane g r v).bindSeq = g.bindSeq := rfl
@[simp] theorem setSregLane_boundAt (g : Group) (r : Nat) (v : Word) : (setSregLane g r v).boundAt = g.boundAt := rfl
@[simp] theorem setSregLane_readySeq (g : Group) (r : Nat) (v : Word) : (setSregLane g r v).readySeq = g.readySeq := rfl
@[simp] theorem setSregLane_wait (g : Group) (r : Nat) (v : Word) : (setSregLane g r v).wait = g.wait := rfl
@[simp] theorem setSregLane_image (g : Group) (r : Nat) (v : Word) : (setSregLane g r v).image = g.image := rfl
@[simp] theorem setSregLane_saved (g : Group) (r : Nat) (v : Word) : (setSregLane g r v).saved = g.saved := rfl
@[simp] theorem setSregLane_pc (g : Group) (r : Nat) (v : Word) : (setSregLane g r v).pc = g.pc := rfl
@[simp] theorem setSregLane_mode (g : Group) (r : Nat) (v : Word) : (setSregLane g r v).mode = g.mode := rfl
@[simp] theorem setSregLane_seed (g : Group) (r : Nat) (v : Word) : (setSregLane g r v).seed = g.seed := rfl
@[simp] theorem setSregLane_pinned (g : Group) (r : Nat) (v : Word) : (setSregLane g r v).pinned = g.pinned := rfl
@[simp] theorem setSregLane_retiredS (g : Group) (r : Nat) (v : Word) : (setSregLane g r v).retiredS = g.retiredS := rfl
@[simp] theorem setSregLane_retiredL (g : Group) (r : Nat) (v : Word) : (setSregLane g r v).retiredL = g.retiredL := rfl
@[simp] theorem setSregLane_stamp (g : Group) (r : Nat) (v : Word) : (setSregLane g r v).stamp = g.stamp := rfl
@[simp] theorem setSregLane_live (g : Group) (r : Nat) (v : Word) : (setSregLane g r v).live = g.live := rfl
@[simp] theorem setSregLane_vregs (g : Group) (r : Nat) (v : Word) : (setSregLane g r v).vregs = g.vregs := rfl
@[simp] theorem setSregLane_perms (g : Group) (r : Nat) (v : Word) : (setSregLane g r v).perms = g.perms := rfl
@[simp] theorem setSregLane_tiles (g : Group) (r : Nat) (v : Word) : (setSregLane g r v).tiles = g.tiles := rfl
@[simp] theorem setSregLane_pend (g : Group) (r : Nat) (v : Word) : (setSregLane g r v).pend = g.pend := rfl
@[simp] theorem setSregLane_mset (g : Group) (r : Nat) (v : Word) : (setSregLane g r v).mset = g.mset := rfl
@[simp] theorem setSregLane_cset (g : Group) (r : Nat) (v : Word) : (setSregLane g r v).cset = g.cset := rfl
@[simp] theorem setSregLane_cmds (g : Group) (r : Nat) (v : Word) : (setSregLane g r v).cmds = g.cmds := rfl
@[simp] theorem setSregLane_nextCmd (g : Group) (r : Nat) (v : Word) : (setSregLane g r v).nextCmd = g.nextCmd := rfl
@[simp] theorem setSregLane_cmdBatch (g : Group) (r : Nat) (v : Word) : (setSregLane g r v).cmdBatch = g.cmdBatch := rfl
@[simp] theorem setSregLane_copies (g : Group) (r : Nat) (v : Word) : (setSregLane g r v).copies = g.copies := rfl
@[simp] theorem setSregLane_nextCopy (g : Group) (r : Nat) (v : Word) : (setSregLane g r v).nextCopy = g.nextCopy := rfl
@[simp] theorem setSregLane_copyBatch (g : Group) (r : Nat) (v : Word) : (setSregLane g r v).copyBatch = g.copyBatch := rfl
@[simp] theorem setSregLane_prov (g : Group) (r : Nat) (v : Word) : (setSregLane g r v).prov = g.prov := rfl
@[simp] theorem setSregLane_chooseS (g : Group) (r : Nat) (v : Word) : (setSregLane g r v).chooseS = g.chooseS := rfl
@[simp] theorem setSregLane_chooseM (g : Group) (r : Nat) (v : Word) : (setSregLane g r v).chooseM = g.chooseM := rfl
@[simp] theorem setSregLane_chooseX (g : Group) (r : Nat) (v : Word) : (setSregLane g r v).chooseX = g.chooseX := rfl
@[simp] theorem setSregLane_body (g : Group) (r : Nat) (v : Word) : (setSregLane g r v).body = g.body := rfl
@[simp] theorem setSregLane_bodyState (g : Group) (r : Nat) (v : Word) : (setSregLane g r v).bodyState = g.bodyState := rfl
@[simp] theorem setSregLane_ordinal (g : Group) (r : Nat) (v : Word) : (setSregLane g r v).ordinal = g.ordinal := rfl
@[simp] theorem setSregLane_serves (g : Group) (r : Nat) (v : Word) : (setSregLane g r v).serves = g.serves := rfl
@[simp] theorem setSregLane_peers (g : Group) (r : Nat) (v : Word) : (setSregLane g r v).peers = g.peers := rfl
@[simp] theorem setSregLane_stores (g : Group) (r : Nat) (v : Word) : (setSregLane g r v).stores = g.stores := rfl
@[simp] theorem setSregLane_seen (g : Group) (r : Nat) (v : Word) : (setSregLane g r v).seen = g.seen := rfl
@[simp] theorem setSregLane_fenced (g : Group) (r : Nat) (v : Word) : (setSregLane g r v).fenced = g.fenced := rfl
@[simp] theorem setSregLane_dirty (g : Group) (r : Nat) (v : Word) : (setSregLane g r v).dirty = g.dirty := rfl
@[simp] theorem setSregLane_rotating (g : Group) (r : Nat) (v : Word) : (setSregLane g r v).rotating = g.rotating := rfl
@[simp] theorem setSregLane_wraps (g : Group) (r : Nat) (v : Word) : (setSregLane g r v).wraps = g.wraps := rfl
@[simp] theorem setSregLane_latch (g : Group) (r : Nat) (v : Word) : (setSregLane g r v).latch = g.latch := rfl
@[simp] theorem setSregLane_traces (g : Group) (r : Nat) (v : Word) : (setSregLane g r v).traces = g.traces := rfl

end Sys2Proof.Machine
end

