-- ==== Sys2Proof/Laws/Group.lean ====
section
/-! SUPPORT. Looking up a group, a region and a counter after an update, and what retirement does: one lemma for each shared
operation. -/

namespace Sys2Proof.Machine

open Sys2Proof.Claim

/-! ### Groups -/

theorem find?_map_gid (l : List Group) (gid n : Nat) (f : Group → Group) (hf : ∀ x, (f x).gid = x.gid) :
    (l.map fun x => if x.gid == gid then f x else x).find? (fun g => g.gid == n) =
      (l.find? fun g => g.gid == n).map fun x => if x.gid == gid then f x else x := by
  induction l with
  | nil => rfl
  | cons x t ih =>
    have hx : (if x.gid == gid then f x else x).gid = x.gid := by split <;> simp [hf]
    simp only [List.map_cons, List.find?_cons, hx, ih]
    split <;> simp

/-- A group after an update of group `gid` that keeps numbers. -/
theorem group?_modGroup (s : State) (gid n : Nat) (f : Group → Group) (hf : ∀ x, (f x).gid = x.gid) :
    group? (modGroup s gid f) n = (group? s n).map fun x => if x.gid == gid then f x else x :=
  find?_map_gid s.groups gid n f hf

theorem group?_gid {s : State} {n : Nat} {g : Group} (h : group? s n = some g) : g.gid = n := by
  simpa using List.find?_some h

theorem find?_put_self (l : List Group) (g : Group) (h : (l.find? fun x => x.gid == g.gid).isSome = true) :
    (l.map fun x => if x.gid == g.gid then g else x).find? (fun x => x.gid == g.gid) = some g := by
  induction l with
  | nil => cases h
  | cons x t ih =>
    by_cases hx : x.gid = g.gid
    · simp [hx]
    · have h1 : (x.gid == g.gid) = false := by simpa using hx
      simp only [List.find?_cons, h1] at h
      simp only [List.map_cons, List.find?_cons, h1]
      simpa [h1] using ih h

theorem find?_put_other (l : List Group) (g : Group) (n : Nat) (h : n ≠ g.gid) :
    (l.map fun x => if x.gid == g.gid then g else x).find? (fun x => x.gid == n) = l.find? fun x => x.gid == n := by
  induction l with
  | nil => rfl
  | cons x t ih =>
    rw [List.map_cons, List.find?_cons, List.find?_cons, ih]
    by_cases hx : x.gid = g.gid
    · have h1 : (g.gid == n) = false := by simpa using Ne.symm h
      have h2 : (x.gid == n) = false := by rw [hx]; exact h1
      simp [hx, h1]
    · have h1 : (x.gid == g.gid) = false := by simpa using hx
      simp [h1]

/-- The group whose record was put. -/
theorem group?_putGroup_self {s : State} {g g0 : Group} (h : group? s g.gid = some g0) :
    group? (putGroup s g) g.gid = some g :=
  find?_put_self s.groups g (by unfold group? at h; rw [h]; rfl)

/-- Any other group. -/
theorem group?_putGroup_other {s : State} {g : Group} {n : Nat} (h : n ≠ g.gid) :
    group? (putGroup s g) n = group? s n := find?_put_other s.groups g n h

@[simp] theorem group?_countRegion (s : State) (part region n k gid : Nat) :
    group? (countRegion s part region n k) gid = group? s gid := rfl

/-! ### Regions and their counters -/

theorem region?_modRegion (s : State) (part id p n : Nat) (f : Region → Region)
    (hf : ∀ r, (f r).active = r.active ∧ (f r).part = r.part ∧ (f r).id = r.id) :
    region? (modRegion s part id f) p n =
      (region? s p n).map fun r => if r.active && r.part == part && r.id == id then f r else r := by
  unfold region? modRegion
  induction s.regions with
  | nil => rfl
  | cons x t ih =>
    have hx : ∀ c : Bool, ((if c then f x else x).active = x.active) ∧ ((if c then f x else x).part = x.part) ∧
        ((if c then f x else x).id = x.id) := by intro c; cases c <;> simp [hf]
    simp only [List.map_cons, List.find?_cons, (hx _).1, (hx _).2.1, (hx _).2.2, ih]
    split <;> simp

theorem region?_spec {s : State} {p n : Nat} {r : Region} (h : region? s p n = some r) :
    r.active = true ∧ r.part = p ∧ r.id = n := by
  have := List.find?_some h
  simpa [Bool.and_eq_true, and_assoc] using this

/-- A region counter advanced: that counter of that region, and no other (R386). -/
theorem counterOf_countRegion (s : State) (part id n k p i m : Nat) :
    counterOf (countRegion s part id n k) p i m =
      counterOf s p i m +
        if p = part ∧ i = id ∧ m = n ∧ (region? s part id).isSome then BitVec.ofNat 64 k else 0 := by
  unfold counterOf countRegion
  rw [region?_modRegion (hf := fun r => by exact ⟨rfl, rfl, rfl⟩)]
  cases h : region? s p i with
  | none =>
    by_cases hp : p = part ∧ i = id
    · obtain ⟨rfl, rfl⟩ := hp; simp [h]
    · simp only [Option.map_none]
      rw [if_neg (fun hc => hp ⟨hc.1, hc.2.1⟩)]; simp
  | some r =>
    obtain ⟨ha, hp, hi⟩ := region?_spec h
    subst hp; subst hi
    by_cases hr : r.part = part ∧ r.id = id
    · obtain ⟨rfl, rfl⟩ := hr
      by_cases hm : m = n
      · subst hm; simp [ha, h]
      · simp [ha, hm]
    · have h1 : (r.active && r.part == part && r.id == id) = false := by
        simp only [ha, Bool.true_and, Bool.and_eq_false_iff, beq_eq_false_iff_ne]
        by_cases hq : r.part = part
        · exact .inr fun hc => hr ⟨hq, hc⟩
        · exact .inl hq
      have h2 : ¬(r.part = part ∧ r.id = id ∧ m = n ∧ (region? s part id).isSome = true) :=
        fun hc => hr ⟨hc.1, hc.2.1⟩
      rw [Option.map_some, h1, if_neg h2]
      simp

/-! ### Work and retirement -/

/-- What a group's work leaves: `t` is `s` with the group's record `g1` in place of `g` and the work counted. -/
def Worked (s t : State) (g g1 : Group) (work : Nat → Nat) : Prop :=
  OnlyGroup s t g.gid ∧ Counted s t g work ∧
  ∃ prov, ProvisionalCounts s g work prov ∧ group? t g.gid = some { g1 with prov := prov }

/-- A group's record put, with no work. -/
theorem worked_putGroup {s : State} {g g1 : Group} (h : group? s g.gid = some g) (hid : g1.gid = g.gid)
    (hprov : g1.prov = g.prov) : Worked s (putGroup s g1) g g1 fun _ => 0 := by
  refine ⟨⟨rfl, fun _ => rfl, fun n hn => group?_putGroup_other (hid ▸ hn)⟩,
    ⟨⟨fun r => r.counters, (List.map_id s.regions).symm⟩, fun _ n _ => (BitVec.add_zero _).symm, fun _ => rfl, fun _ _ _ _ => rfl⟩,
    g.prov, ⟨fun _ n => (BitVec.add_zero _).symm, fun _ => rfl⟩, ?_⟩
  have h1 := group?_putGroup_self (s := s) (g := g1) (g0 := g) (hid ▸ h)
  rw [hid] at h1
  rw [h1, ← hprov]

theorem region?_counters {s t : State} (c : Region → Sparse 64)
    (hc : t.regions = s.regions.map fun r => { r with counters := c r }) (p n : Nat) :
    region? t p n = (region? s p n).map fun r => { r with counters := c r } := by
  unfold region?
  rw [hc]
  induction s.regions with
  | nil => rfl
  | cons x u ih =>
    simp only [List.map_cons, List.find?_cons, ih]
    split <;> simp

theorem discardable_congr {s t : State} {g x : Group} (hs : t = { s with groups := t.groups, regions := t.regions })
    (hc : ∃ c : Region → Sparse 64, t.regions = s.regions.map fun r => { r with counters := c r })
    (h1 : x.part = g.part) (h2 : x.region = g.region) (h3 : x.task = g.task) : discardable t x = discardable s g := by
  obtain ⟨c, hc⟩ := hc
  have htask : ∀ p n, task? t p n = task? s p n := by intro p n; rw [hs]; rfl
  have hreg := region?_counters c hc
  have hanc : ∀ p k n, ancestry t p k n = (ancestry s p k n).map fun r => { r with counters := c r } := by
    intro p k
    induction k with
    | zero => intro n; rfl
    | succ k ih =>
      intro n
      simp only [ancestry, hreg]
      cases hr : region? s p n with
      | none => rfl
      | some r =>
        simp only [Option.map_some, List.map_cons]
        cases hp : r.parent with
        | none => rfl
        | some q => simp only [ih]
  have hrest : ∀ p n, restartable (chain t p n) = restartable (chain s p n) := by
    intro p n
    simp only [restartable, chain, hanc, List.any_map]
    rfl
  simp only [discardable, htask, h1, h2, h3, hrest]

theorem counterOf_congr {s t : State} (h : t.regions = s.regions) (p i n : Nat) : counterOf t p i n = counterOf s p i n := by
  simp only [counterOf, region?, h]

theorem isSome_region? {s t : State} (c : Region → Sparse 64)
    (hc : t.regions = s.regions.map fun r => { r with counters := c r }) (p n : Nat) :
    (region? t p n).isSome = (region? s p n).isSome := by
  rw [region?_counters c hc]; simp

theorem countRegion_regions (s : State) (part id n k : Nat) :
    ∃ c : Region → Sparse 64,
      (countRegion s part id n k).regions = s.regions.map fun r => { r with counters := c r } := by
  refine ⟨fun r => if r.active && r.part == part && r.id == id then
      Sparse.set r.counters n (Sparse.get r.counters n + BitVec.ofNat 64 k) else r.counters, ?_⟩
  simp only [countRegion, modRegion]
  refine List.map_congr_left fun r _ => ?_
  split <;> rfl

/-- Work counted on top of work (R386, R388). -/
theorem worked_countWork {s t : State} {g g1 : Group} {work : Nat → Nat} (h : Worked s t g g1 work) (n k : Nat)
    (hid : g1.gid = g.gid) (h1 : g1.part = g.part) (h2 : g1.region = g.region) (h3 : g1.task = g.task) :
    Worked s (countWork t g1 n k) g g1 fun m => work m + if m = n then k else 0 := by
  obtain ⟨⟨hs, hm, ho⟩, ⟨⟨c, hc⟩, hn, hp, hoth⟩, prov, ⟨hpr, hnp⟩, hg⟩ := h
  have hd : discardable t g1 = discardable s g := discardable_congr hs ⟨c, hc⟩ h1 h2 h3
  have hadd : ∀ m, BitVec.ofNat 64 (work m + if m = n then k else 0) =
      BitVec.ofNat 64 (work m) + if m = n then BitVec.ofNat 64 k else 0 := by
    intro m; split <;> simp [BitVec.ofNat_add]
  unfold countWork
  by_cases hdis : discardable s g = true
  · rw [if_pos (hd.trans hdis)]
    refine ⟨⟨?_, fun a => hm a, fun m hne => ?_⟩, ⟨⟨c, hc⟩, fun hx => absurd hdis hx, hp, hoth⟩,
      Sparse.set prov n (Sparse.get prov n + BitVec.ofNat 64 k), ⟨fun hx m => ?_, fun hx => absurd hdis hx⟩, ?_⟩
    · rw [hs]; rfl
    · rw [group?_modGroup (hf := fun _ => by rfl), ho m hne]
      cases hx : group? s m with
      | none => rfl
      | some x =>
        have h5 : (x.gid == g1.gid) = false := by simp [group?_gid hx, hid, hne]
        rw [Option.map_some, h5]; simp
    · rw [hadd, ← BitVec.add_assoc, ← hpr hx m, Sparse.get_set]
      by_cases hmn : m = n <;> simp [hmn]
    · rw [group?_modGroup (hf := fun _ => by rfl), hg]
      simp [hid]
  · rw [if_neg (by rw [hd]; exact hdis)]
    obtain ⟨c2, hc2⟩ := countRegion_regions t g1.part g1.region n k
    refine ⟨⟨?_, fun a => hm a, fun m hne => (group?_countRegion t _ _ _ _ m).trans (ho m hne)⟩,
      ⟨⟨fun r => c2 { r with counters := c r }, ?_⟩, fun hx m hr => ?_, fun hx => absurd hx hdis, fun p i m hne => ?_⟩,
      prov, ⟨fun hx => absurd hx hdis, hnp⟩, (group?_countRegion t _ _ _ _ _).trans hg⟩
    · rw [hs]; rfl
    · rw [hc2, hc, List.map_map]; rfl
    · rw [counterOf_countRegion, hadd, ← BitVec.add_assoc, hn hx m hr, h1, h2, isSome_region? c hc, hr]
      simp
    · rw [counterOf_countRegion, hoth p i m hne, h1, h2, if_neg fun hx => hne ⟨hx.1, hx.2.1⟩]
      exact BitVec.add_zero _

/-- A scalar instruction's retirement: `g1` holds its results over the group `g` (R97, R150, R386, R388). -/
theorem retireTo_done {s : State} {g g1 : Group} (pc : Word) (h : group? s g.gid = some g)
    (hid : g1.gid = g.gid) (hpart : g1.part = g.part) (hreg : g1.region = g.region) (htask : g1.task = g.task)
    (hprov : g1.prov = g.prov) : ScalarDone s (retireTo s g1 pc) g g1 pc := by
  have h1 := worked_countWork (worked_putGroup (g1 := afterScalar g1 pc g1.prov) h hid hprov) 0 1 hid hpart hreg htask
  have h2 : (fun m => 0 + if m = 0 then 1 else 0) = scalarWork := by funext m; simp [scalarWork]
  rw [h2] at h1
  exact h1

/-- A lane instruction's retirement: `g1` holds its results over the group `g` (R99, R207, R386, R388). -/
theorem retireLane_worked {s : State} {g g1 : Group} (active : Nat) (h : group? s g.gid = some g)
    (hid : g1.gid = g.gid) (hpart : g1.part = g.part) (hreg : g1.region = g.region) (htask : g1.task = g.task)
    (hprov : g1.prov = g.prov) : Worked s (retireLane s g1 active) g (afterLane g1 g1.prov) (laneWork active) := by
  have h1 := worked_countWork (worked_countWork (worked_putGroup (g1 := afterLane g1 g1.prov) h hid hprov) 1 1 hid hpart hreg htask) 2 active hid hpart hreg htask
  have h2 : (fun m => 0 + (if m = 1 then 1 else 0) + if m = 2 then active else 0) = laneWork active := by
    funext m; unfold laneWork; by_cases hm : m = 1 <;> simp [hm]
  rw [h2] at h1
  exact h1

theorem find?_map_keeps (l : List Group) (n : Nat) (f : Group → Group) (hf : ∀ x, (f x).gid = x.gid) :
    (l.map f).find? (fun g => g.gid == n) = (l.find? fun g => g.gid == n).map f := by
  induction l with
  | nil => rfl
  | cons x t ih => simp only [List.map_cons, List.find?_cons, hf, ih]; split <;> simp

/-- A register lies in a line that begins at byte `p` if it is the one of the line's first or of its last byte (R262). -/
theorem overlaps_iff (p r : Nat) : (p < 384 * (r + 1) ∧ 384 * r < p + 128) ↔ (r = p / 384 ∨ r = (p + 127) / 384) := by omega

/-- The groups after the registers and tiles of a group have been written (R170). -/
theorem wakeRegs_groups (s : State) (gid : Nat) (regs tiles : List Nat) :
    (wakeRegs s gid regs tiles).groups = s.groups.map (wokenByRegs gid (fun r => regs.contains r) tiles) := by
  refine List.map_congr_left fun g _ => ?_
  unfold wokenByRegs
  cases g.wait with
  | word l =>
    cases l with
    | vreg h p =>
      have ho : (h == gid && regs.any fun r => decide (p < 384 * (r + 1)) && decide (384 * r < p + 128)) = true ↔
          (h = gid ∧ (regs.contains (p / 384) = true ∨ regs.contains ((p + 127) / 384) = true)) := by
        simp only [Bool.and_eq_true, beq_iff_eq, List.any_eq_true, decide_eq_true_eq, overlaps_iff, List.contains_iff_mem]
        refine and_congr_right fun _ => ⟨?_, ?_⟩
        · rintro ⟨r, hr, rfl | rfl⟩
          · exact .inl hr
          · exact .inr hr
        · rintro (hr | hr)
          · exact ⟨_, hr, .inl rfl⟩
          · exact ⟨_, hr, .inr rfl⟩
      simp only [ho]
    | tile h p => by_cases hh : h = gid <;> simp [hh]
    | _ => rfl
  | _ => rfl

/-- A group after the registers and tiles of a group have been written (R170). -/
theorem group?_wakeRegs (s : State) (gid n : Nat) (regs tiles : List Nat) :
    group? (wakeRegs s gid regs tiles) n = (group? s n).map (wokenByRegs gid (fun r => regs.contains r) tiles) := by
  unfold group?
  rw [wakeRegs_groups]
  exact find?_map_keeps s.groups n _ fun x => by unfold wokenByRegs; split <;> (try split) <;> rfl

/-- A group whose wait is none stays as it is. -/
theorem wokenByRegs_none {gid : Nat} {reg : Nat → Bool} {tiles : List Nat} {g : Group} (h : g.wait = .none) :
    wokenByRegs gid reg tiles g = g := by
  unfold wokenByRegs; rw [h]

/-- A lane instruction's retirement and the wakes of its results (R99, R170, R207, R386, R388). -/
theorem retireLane_done {s : State} {g g1 : Group} (active : Nat) (regs tiles : List Nat) (h : group? s g.gid = some g)
    (hid : g1.gid = g.gid) (hpart : g1.part = g.part) (hreg : g1.region = g.region) (htask : g1.task = g.task)
    (hprov : g1.prov = g.prov) :
    LaneDone s (wakeRegs (retireLane s g1 active) g.gid regs tiles) g g1 active (fun r => regs.contains r) tiles := by
  obtain ⟨⟨hs, hm, ho⟩, hc, prov, hp, hg⟩ := retireLane_worked active h hid hpart hreg htask hprov
  refine ⟨?_, hm, fun n hn => ?_, hc, prov, hp, ?_⟩
  · unfold wakeRegs; rw [hs]
  · rw [group?_wakeRegs, ho n hn]
  · rw [group?_wakeRegs, hg]
    exact congrArg some (wokenByRegs_none rfl)

/-! ### Registers -/

/-- Scalar register `r` after a write of register `d` (R130, R131). -/
theorem sreg_setSreg (g : Group) (d r : Reg) (v : Word) :
    sreg (setSreg g d v) r = if r = d then kept g.live d v else sreg g r := by
  have key : ∀ a b : Reg, (a.toNat = b.toNat) ↔ a = b := fun a b => (BitVec.toNat_inj (x := a) (y := b))
  unfold sreg setSreg setSregIn sregIn kept
  by_cases hd : d = 0#6
  · subst hd
    by_cases hr : r = 0#6 <;> simp [hr]
  · have hd0 : d.toNat ≠ 0 := fun h => hd ((key d 0#6).1 (by simpa using h))
    by_cases hr : r = d
    · subst hr
      by_cases h61 : 61 ≤ r.toNat <;> simp [hd, hd0, h61, liveWord, bits]
    · have hne : r.toNat ≠ d.toNat := fun h => hr ((key r d).1 h)
      by_cases h61 : 61 ≤ d.toNat <;> simp [hd0, h61, hr, hne]

theorem wroteScalar_setSreg (g : Group) (d : Reg) (v : Word) : WroteScalar g (setSreg g d v) d v :=
  ⟨rfl, fun r => sreg_setSreg g d r v⟩

theorem running_gid {s : State} {g : Group} (h : Running s g) : group? s g.gid = some g := by
  have := group?_gid h
  rw [this]; exact h

/-- An instruction that goes on with a group computed from the executing one. -/
theorem onGroup_running {s : State} {g : Group} (h : Running s g) (f : Group → State) : onGroup s f = .next (f g) := by
  unfold Running at h
  simp [onGroup, h]

/-- What an instruction whose only result is a scalar register does. -/
theorem scalarOp_done {s : State} {g : Group} (h : Running s g) (d : Reg) (f : Group → Word) :
    ∃ t g', onGroup s (fun g => retire s (setSreg g d (f g))) = .next t ∧ WroteScalar g g' d (f g) ∧
      ScalarDone s t g g' (g.pc + 4) :=
  ⟨_, setSreg g d (f g), onGroup_running h _, wroteScalar_setSreg g d (f g),
    retireTo_done _ (running_gid h) rfl rfl rfl rfl rfl⟩

end Sys2Proof.Machine
end

