-- ==== Sys2Proof/Laws/Memory.lean ====
section
/-! SUPPORT. What the operations over memory do: what a write leaves at every address, what looking an address up changes, and
that each operation that writes memory keeps its canonical form. -/

namespace Sys2Proof.Machine

/-! ### Pages that are zeroed -/

/-- From `s` to `t`, pages have been zeroed and given to their partitions, groups that watch them woken, and translations cached
(R170, R267, R268); memory keeps its form. -/
def Zeroed (s t : State) : Prop :=
  ∃ mem owners cache zeroing tlb groups,
    t = { s with mem := mem, owners := owners, cache := cache, zeroing := zeroing, tlb := tlb, groups := groups } ∧
      (Sparse.wf s.mem = true → Sparse.wf mem = true)

theorem Zeroed.refl (s : State) : Zeroed s s := ⟨_, _, _, _, _, _, rfl, id⟩

theorem Zeroed.trans {s t u : State} (h : Zeroed s t) (k : Zeroed t u) : Zeroed s u := by
  obtain ⟨_, _, _, _, _, _, rfl, hw⟩ := h
  obtain ⟨_, _, _, _, _, _, rfl, kw⟩ := k
  exact ⟨_, _, _, _, _, _, rfl, kw ∘ hw⟩

theorem zeroDone_zeroed (s : State) (j : ZeroJob) : Zeroed s (zeroDone s j) :=
  ⟨_, _, _, _, _, _, rfl, fun h => Sparse.wf_setRange _ _ _ (Sparse.wf_clearRange _ _ _ h)⟩

theorem finishPage_zeroed (s : State) (pa : Nat) : Zeroed s (finishPage s pa) := by
  unfold finishPage
  split
  · exact zeroDone_zeroed s _
  · exact .refl s

theorem pageReady_zeroed (s : State) (p : Part) (gpa : Nat) : Zeroed s (pageReady s p gpa) := by
  unfold pageReady
  split
  · exact .refl s
  · exact zeroDone_zeroed s _
  · split
    · exact finishPage_zeroed s _
    · exact .refl s

theorem readyVa_zeroed (n : Nat) (s : State) (die part va : Nat) : Zeroed s (readyVa n s die part va) := by
  induction n generalizing s with
  | zero => exact .refl s
  | succ n ih =>
    simp only [readyVa]
    split
    · exact .refl s
    · exact (zeroDone_zeroed s _).trans (ih _)
    · split
      · exact finishPage_zeroed s _
      · exact .refl s

/-! ### Looking an address up -/

/-- Looking an address up by the maps fills the translations and may begin the zeroing of a fresh page, and changes nothing else. -/
theorem resolveMap_shape (s : State) (ag : Agent) (x : Nat) (acc : Acc) :
    ∃ tlb zeroing, (resolveMap s ag x acc).1 = { s with tlb := tlb, zeroing := zeroing } := by
  unfold resolveMap
  split
  · split
    · exact ⟨_, _, rfl⟩
    · split
      · exact ⟨_, _, rfl⟩
      · simp only [zeroBegin]; split <;> exact ⟨_, _, rfl⟩
      · simp only [tlbAdd]; split <;> exact ⟨_, _, rfl⟩
  · split
    · exact ⟨_, _, rfl⟩
    · split
      · exact ⟨_, _, rfl⟩
      · split <;> exact ⟨_, _, rfl⟩

/-- Looking an address up for a group fills the translations and may begin the zeroing of a fresh page, and changes nothing else. -/
theorem resolve_shape (s : State) (ag : Agent) (x : Nat) (acc : Acc) (h : ag.unit = false) :
    ∃ tlb zeroing, (resolve s ag x acc).1 = { s with tlb := tlb, zeroing := zeroing } := by
  have h1 : (ag.unit && decide (x < 2 ^ 52)) = false := by simp [h]
  simpa only [resolve, h1, Bool.false_eq_true, if_false] using resolveMap_shape s ag x acc

theorem resolveAligned_shape (s : State) (ag : Agent) (x size : Nat) (acc : Acc) (h : ag.unit = false) :
    ∃ tlb zeroing, (resolveAligned s ag x size acc).1 = { s with tlb := tlb, zeroing := zeroing } := by
  unfold resolveAligned
  split
  · exact resolve_shape s ag x acc h
  · exact ⟨_, _, rfl⟩

/-- Looking an address up for a unit may also zero the fresh pages that it meets. -/
theorem resolve_zeroed (s : State) (ag : Agent) (x : Nat) (acc : Acc) : Zeroed s (resolve s ag x acc).1 := by
  simp only [resolve]
  split
  · obtain ⟨_, _, h⟩ := resolveMap_shape (readyVa 6 s ag.die ag.part x) ag x acc
    exact (readyVa_zeroed 6 s ag.die ag.part x).trans ⟨_, _, _, _, _, _, h, id⟩
  · obtain ⟨_, _, h⟩ := resolveMap_shape s ag x acc
    exact ⟨_, _, _, _, _, _, h, id⟩

@[simp] theorem resolve_tasks (s : State) (ag : Agent) (x : Nat) (acc : Acc) : (resolve s ag x acc).1.tasks = s.tasks := by
  obtain ⟨_, _, _, _, _, _, h, _⟩ := resolve_zeroed s ag x acc; rw [h]

/-! ### Writing bytes -/

/-- A write at home changes memory, what watches it, and the dirty bits, and nothing else (R170, R381). -/
theorem putBytes_shape (s : State) (place : Nat) (bs : List Byte) :
    ∃ groups parts, putBytes s place bs =
      { s with mem := Sparse.setRange s.mem place bs, groups := groups, parts := parts } := ⟨_, _, rfl⟩

@[simp] theorem putBytes_mem (s : State) (place : Nat) (bs : List Byte) :
    (putBytes s place bs).mem = Sparse.setRange s.mem place bs := rfl

/-- Every byte after a write: the written ones, and the others as before. -/
theorem get_putBytes (s : State) (place : Nat) (bs : List Byte) (a : Nat) :
    Sparse.get (putBytes s place bs).mem a =
      if place ≤ a ∧ a < place + bs.length then bs.getD (a - place) 0 else Sparse.get s.mem a := by
  rw [putBytes_mem, Sparse.get_setRange]; rfl

/-- From `s` to `t`, pages have been zeroed, bytes put, and rings have taken entries (R32, R43, R267). -/
def Notified (s t : State) : Prop :=
  ∃ mem owners cache zeroing tlb groups parts ring8 ring9 auditFns,
    t = { s with mem := mem, owners := owners, cache := cache, zeroing := zeroing, tlb := tlb, groups := groups, parts := parts
                 ring8 := ring8, ring9 := ring9, auditFns := auditFns } ∧
      (Sparse.wf s.mem = true → Sparse.wf mem = true)

theorem Notified.refl (s : State) : Notified s s := ⟨_, _, _, _, _, _, _, _, _, _, rfl, id⟩

theorem Notified.trans {s t u : State} (h : Notified s t) (k : Notified t u) : Notified s u := by
  obtain ⟨_, _, _, _, _, _, _, _, _, _, rfl, hw⟩ := h
  obtain ⟨_, _, _, _, _, _, _, _, _, _, rfl, kw⟩ := k
  exact ⟨_, _, _, _, _, _, _, _, _, _, rfl, kw ∘ hw⟩

theorem Zeroed.notified {s t : State} (h : Zeroed s t) : Notified s t := by
  obtain ⟨_, _, _, _, _, _, rfl, hw⟩ := h
  exact ⟨_, _, _, _, _, _, _, _, _, _, rfl, hw⟩

theorem putBytes_notified (s : State) (place : Nat) (bs : List Byte) : Notified s (putBytes s place bs) :=
  ⟨_, _, _, _, _, _, _, _, _, _, rfl, Sparse.wf_setRange _ _ _⟩

/-- An entry offered to a ring writes memory by `putBytes` alone. -/
theorem ringOffer_notified (s : State) (r : Ring) (at_ : Nat → Bool → Option Nat) (size : Nat) (mk : Bool → List Byte) :
    Notified s (ringOffer s r at_ size mk).s := by
  unfold ringOffer
  split
  · simp only
    split
    · exact putBytes_notified s _ _
    · split
      · exact (putBytes_notified s _ _).trans (putBytes_notified _ _ _)
      · exact .refl s
  · exact .refl s

theorem ringAtOperator_notified (s : State) (r : Ring) (size : Nat) (mk : Bool → List Byte) :
    Notified s (ringAtOperator s r size mk).s :=
  ((finishPage_zeroed s _).trans (finishPage_zeroed _ _)).notified.trans (ringOffer_notified _ _ _ _ _)

/-- An entry for an authority changes memory, the rings, and what a write changes (R32, R43). -/
theorem ringPut_notified (s : State) (whom : EnvTo) (mk : Bool → List Byte) : Notified s (ringPut s whom mk) := by
  cases whom with
  | operator =>
    simp only [ringPut]
    split
    · exact (ringAtOperator_notified s _ 32 mk).trans ⟨_, _, _, _, _, _, _, _, _, _, rfl, id⟩
    · split
      · exact (ringAtOperator_notified s _ 32 mk).trans ⟨_, _, _, _, _, _, _, _, _, _, rfl, id⟩
      · exact .refl s
  | owner p =>
    simp only [ringPut]
    split
    · exact .refl s
    · split
      · exact .refl s
      · exact (((pageReady_zeroed s _ _).trans (pageReady_zeroed _ _ _)).notified.trans (ringOffer_notified _ _ _ _ _)).trans
          ⟨_, _, _, _, _, _, _, _, _, _, rfl, id⟩
  | auditor f =>
    simp only [ringPut]
    split
    · exact .refl s
    · split
      · exact .refl s
      · exact (ringOffer_notified s _ _ _ _).trans ⟨_, _, _, _, _, _, _, _, _, _, rfl, id⟩

/-- An envelope that no region counts changes memory, the rings, its partition's ordinal, and what a write changes (R30, R32). -/
theorem envelopePlain_notified (s : State) (whom : EnvTo) (cls flags detail : Nat) (p : EnvPlace) :
    Notified s (envelopePlain s whom cls flags detail p) := by
  have h : Notified s { s with parts := s.parts.map fun x => if x.id == p.part then { x with ordinal := nextOrdinal s p.part } else x } :=
    ⟨_, _, _, _, _, _, _, _, _, _, rfl, id⟩
  exact h.trans (ringPut_notified _ _ _)

/-- An envelope changes no memory but by its ring's writes, and no task. -/
theorem envelope_shape (s : State) (whom : EnvTo) (cls flags detail : Nat) (p : EnvPlace) :
    ∃ regions, Notified { s with regions := regions } (envelope s whom cls flags detail p) :=
  ⟨_, envelopePlain_notified (countRegion s p.part p.region (0x20 + cls) 1) whom cls flags detail p⟩

theorem Notified.canonical {s t : State} (h : Notified s t) (hs : s.canonical) : t.canonical := by
  obtain ⟨_, _, _, _, _, _, _, _, _, _, rfl, hw⟩ := h; exact hw hs

theorem Notified.tasks {s t : State} (h : Notified s t) : t.tasks = s.tasks := by
  obtain ⟨_, _, _, _, _, _, _, _, _, _, rfl, _⟩ := h; rfl

theorem envelope_canonical (s : State) (whom : EnvTo) (cls flags detail : Nat) (p : EnvPlace) (h : s.canonical) :
    (envelope s whom cls flags detail p).canonical := by
  obtain ⟨_, h1⟩ := envelope_shape s whom cls flags detail p
  exact h1.canonical h

@[simp] theorem envelope_tasks (s : State) (whom : EnvTo) (cls flags detail : Nat) (p : EnvPlace) :
    (envelope s whom cls flags detail p).tasks = s.tasks := by
  obtain ⟨_, h1⟩ := envelope_shape s whom cls flags detail p
  exact h1.tasks

@[simp] theorem refusalEnvelope_tasks (s : State) (gov : Option EnvPlace) : (refusalEnvelope s gov).tasks = s.tasks := by
  unfold refusalEnvelope
  split
  · rfl
  · split
    · split <;> simp
    · simp

/-! ### Every operation that writes memory keeps its canonical form -/

theorem putBytes_canonical (s : State) (place : Nat) (bs : List Byte) (h : s.canonical) : (putBytes s place bs).canonical :=
  Sparse.wf_setRange _ _ _ h

theorem refusalEnvelope_canonical (s : State) (gov : Option EnvPlace) (h : s.canonical) : (refusalEnvelope s gov).canonical := by
  unfold refusalEnvelope
  split
  · exact h
  · split
    · split
      · exact envelope_canonical s _ _ _ _ _ h
      · exact h
    · exact envelope_canonical s _ _ _ _ _ h

theorem envelopeBoth_canonical (s : State) (cls detail : Nat) (p : EnvPlace) (h : s.canonical) : (envelopeBoth s cls detail p).canonical := by
  unfold envelopeBoth
  simp only
  split
  · exact envelope_canonical s _ _ _ _ p h
  · exact envelope_canonical _ _ _ _ _ p (envelope_canonical s _ _ _ _ p h)

theorem Zeroed.canonical {s t : State} (h : Zeroed s t) (hs : s.canonical) : t.canonical := h.notified.canonical hs

theorem resolve_canonical (s : State) (ag : Agent) (x : Nat) (acc : Acc) (h : s.canonical) : (resolve s ag x acc).1.canonical :=
  (resolve_zeroed s ag x acc).canonical h

theorem tryBody_canonical (s : State) (part buf : Nat) (bs : List Byte) (h : s.canonical) : (tryBody s part buf bs).1.canonical := by
  have h1 : (bufferReady s part buf).canonical := by
    unfold bufferReady
    split
    · exact h
    · exact (readyVa_zeroed 6 s 0 part buf).canonical h
  unfold tryBody
  simp only
  split
  · split
    · split
      · exact h1
      · exact putBytes_canonical _ _ bs h1
    · exact h1
  · exact h1

/-- A handle handed out changes no memory (R70). -/
theorem allocHandle_mem (s : State) (ds : List Nat) (t : State) (h : Nat) (ht : allocHandle s ds = some (t, h)) : t.mem = s.mem := by
  induction ds with
  | nil => cases ht
  | cons d ds ih =>
    simp only [allocHandle] at ht
    split at ht
    · cases ht; rfl
    · exact ih ht

/-- A handler task that fires changes no memory (R374). -/
theorem fireHandler_mem (s : State) (d : Region) (buf handler gid : Nat) (t : State) (ht : fireHandler s d buf handler gid = some t) :
    t.mem = s.mem := by
  unfold fireHandler at ht
  split at ht
  · cases ht
  · rename_i s1 h hs
    cases ht
    exact allocHandle_mem s _ s1 h hs

theorem writeBody_canonical (s : State) (d : Region) (buf handler gid : Nat) (fires : Bool) (bs : List Byte) (h : s.canonical) :
    (writeBody s d buf handler gid fires bs).1.canonical := by
  have h1 := tryBody_canonical s d.part buf bs h
  unfold writeBody
  simp only
  split
  · exact h
  · split
    · exact h1
    · split
      · exact h
      · rename_i s1 hs
        have hm := fireHandler_mem _ _ _ _ _ _ hs
        simpa only [State.canonical, hm] using h1

theorem looseBody_canonical (s : State) (place : EnvPlace) (region : Nat) (fires : Bool) (b : BodyInfo) (h : s.canonical) :
    (looseBody s place region fires b).canonical := by
  unfold looseBody
  simp only
  split
  · exact envelope_canonical s _ _ _ _ _ h
  · split
    · have h1 := fun d buf handler bs => writeBody_canonical s d buf handler 0 fires bs h
      split <;> exact envelope_canonical _ _ _ _ _ _ (h1 _ _ _ _)
    · split <;> exact envelope_canonical _ _ _ _ _ _ h

theorem notePending_canonical (s : State) (gid : Nat) (e : AccessEntry) (gov : Option EnvPlace) (h : s.canonical) :
    (notePending s gid e gov).canonical := refusalEnvelope_canonical _ gov h

/-- An update repeated over a list keeps the form if each does. -/
theorem foldl_canonical {α : Type} (f : State → α → State) (hf : ∀ s x, s.canonical → (f s x).canonical) (l : List α) (s : State)
    (h : s.canonical) : (l.foldl f s).canonical := by
  induction l generalizing s with
  | nil => exact h
  | cons x t ih => exact ih (f s x) (hf s x h)

theorem watchHit_canonical (w : Writer) (place n : Nat) (s : State) (x : Region × Watch) (h : s.canonical) :
    (watchHit w place n s x).canonical := by
  unfold watchHit
  simp only
  split
  · exact notePending_canonical s _ _ _ h
  · exact looseBody_canonical s _ _ _ _ h

/-- A store of bytes at any place keeps the form. -/
theorem storeBytes_canonical (s : State) (w : Writer) (l : Loc) (bs : List Byte) (h : s.canonical) : (storeBytes s w l bs).canonical := by
  cases l with
  | mem p =>
    exact foldl_canonical _ (fun s x hs => foldl_canonical _ (watchHit_canonical w x.1 x.2) _ s hs) _ _ (putBytes_canonical _ p bs h)
  | scratch c o => exact h
  | vreg g o => exact h
  | tile g o => exact h
  | peer k a => exact h

/-- Zeroing a range keeps the form. -/
theorem zeroRange_canonical (s : State) (base size : Nat) (h : s.canonical) : (zeroRange s base size).canonical :=
  Sparse.wf_clearRange _ _ _ h

/-- A fresh page handed over keeps the form (R267). -/
theorem execFreshPageZeroed_canonical (base : Nat) (s t : State) (h : s.canonical) (ht : execFreshPageZeroed base s = .next t) :
    t.canonical := by
  have hc := h
  unfold execFreshPageZeroed at ht
  cases hj : s.zeroing.find? fun j => j.base == base with
  | none => simp only [hj] at ht; cases ht; exact hc
  | some j =>
    simp only [hj] at ht; cases ht
    exact (zeroDone_zeroed s j).canonical h

/-- A region's activation keeps the form (R53). -/
theorem activate_canonical (s : State) (r : Region) (h : s.canonical) : (activate s r).canonical := by
  have h1 := resolve_canonical s (partUnit r.part) r.counterArea.toNat .atomic h
  unfold activate
  simp only
  split
  · exact h1
  · exact Sparse.wf_clearRange _ _ _ h1

/-- A program placed in memory leaves it in the form. -/
theorem placedMemory_canonical (m : Memory) (lane : Bool) (w : Nat) (h : Sparse.wf m = true) : Sparse.wf (placedMemory m lane w) = true := by
  unfold placedMemory placedTables
  simp only [List.foldl_cons, List.foldl_nil]
  repeat' apply Sparse.wf_setRange
  exact h

theorem withFetchWord_canonical (s : State) (nbits w : Nat) (h : s.canonical) : (s.withFetchWord nbits w).canonical :=
  placedMemory_canonical s.mem _ w h

theorem reset_canonical : State.reset.canonical := rfl

end Sys2Proof.Machine
end

