-- ==== Sys2Proof/Laws/Tasks.lean ====
section
/-! SUPPORT. What reading and accepting a launch does. -/

namespace Sys2Proof.Machine

/-- Reading a structure changes translations, zeroing and what an envelope changes: no task. -/
@[simp] theorem readPieces_tasks (s : State) (part n va : Nat) : (readPieces s part n va).1.tasks = s.tasks := by
  induction n generalizing s va with
  | zero => rfl
  | succ n ih =>
    simp only [readPieces]
    split
    · exact resolve_tasks s _ _ _
    · exact (refusalEnvelope_tasks _ _).trans (resolve_tasks s _ _ _)
    · split
      · exact resolve_tasks s _ _ _
      · exact (ih _ _).trans (resolve_tasks s _ _ _)
    · exact resolve_tasks s _ _ _

@[simp] theorem readUp_tasks (part n : Nat) (s : State) (addr : Nat) (bytes : List Byte) : (readUp part n s addr bytes).1.tasks = s.tasks := by
  induction n generalizing s addr bytes with
  | zero => rfl
  | succ n ih =>
    simp only [readUp]
    split
    · rfl
    · split
      · rfl
      · split
        · rfl
        · split
          · simp
          · simp
          · simp [ih]

@[simp] theorem counterAreaPlace_tasks (s : State) (part va : Nat) : (counterAreaPlace s part va).1.tasks = s.tasks :=
  resolve_tasks s _ _ _

@[simp] theorem refusedArea_tasks (c : State × Res) : (refusedArea c).tasks = c.1.tasks := by
  unfold refusedArea
  split
  · exact refusalEnvelope_tasks _ _
  · rfl

@[simp] theorem chainCheck_tasks (part : Nat) (s : State) (deep : Bool) (bs : List ChainBlock) : (chainCheck part s deep bs).1.tasks = s.tasks := by
  induction bs generalizing s deep with
  | nil => rfl
  | cons b rest ih =>
    simp only [chainCheck]
    split
    · rfl
    · split
      · split <;> simp
      · simp [ih]

/-- The record, its region block and its chain have been read, and pass steps 1 to 3 of R64: from `s`, to the state `k` and the
chain's regions `rs`. -/
structure LaunchRead (s : State) (part record : Nat) (bs : List Byte) (k : State) (rs : List Region) : Prop where
  aligned : record % 64 = 0
  read : ∃ s1 s2 b, readPieces s part 3 record = (s1, .ok bs) ∧ bytesAt bs 0x10 8 % 64 = 0 ∧
    readPieces s1 part 4 (bytesAt bs 0x10 8) = (s2, .ok b) ∧ recordCheck part bs true = none ∧
    let c := readUp part 9 s2 (bytesAt bs 0x10 8) b
    c.2.deep = false ∧ c.2.wait = false ∧
      (∃ r, (c.2.blocks.getLast?.bind fun x => x.latched) = some r ∧ c.2.blocks.length - 1 + (chain c.1 part r.id).length ≤ 8) ∧
      chainCheck part c.1 false c.2.blocks = (k, none) ∧ chainRegions k part c.2.blocks = rs

/-- Reading a launch changes no task. -/
theorem LaunchRead.tasks {s : State} {part record : Nat} {bs : List Byte} {k : State} {rs : List Region}
    (h : LaunchRead s part record bs k rs) : k.tasks = s.tasks := by
  obtain ⟨s1, s2, b, h1, -, h3, -, -, -, -, h5, -⟩ := h.read
  have e1 : s1.tasks = s.tasks := by rw [← readPieces_tasks s part 3 record, h1]
  have e2 : s2.tasks = s1.tasks := by rw [← readPieces_tasks s1 part 4 (bytesAt bs 0x10 8), h3]
  have e3 := chainCheck_tasks part (readUp part 9 s2 (bytesAt bs 0x10 8) b).1 false (readUp part 9 s2 (bytesAt bs 0x10 8) b).2.blocks
  rw [h5, readUp_tasks, e2, e1] at e3
  exact e3

/-- A launch that passes every check of R64 is registered. -/
theorem acceptTask_registers {s : State} {part record : Nat} {die : Option Nat} {held : Option Offer} {bs : List Byte} {k : State}
    {rs : List Region} (h : LaunchRead s part record bs k rs) (h6 : budgetCheck rs = none) (h7 : fitCheck bs rs = none) :
    acceptTask s part record die held = registerTask k part bs rs die held := by
  obtain ⟨s1, s2, b, h1, h2, h3, h4, hd, hw, ⟨r, hr, hn⟩, h5, he⟩ := h.read
  cases hb : (readUp part 9 s2 (bytesAt bs 0x10 8) b).2.blocks.getLast? with
  | none => simp [hb] at hr
  | some x =>
    have hx : x.latched = some r := by simpa [hb] using hr
    have hk : ¬8 < (readUp part 9 s2 (bytesAt bs 0x10 8) b).2.blocks.length - 1 + (chain (readUp part 9 s2 (bytesAt bs 0x10 8) b).1 part r.id).length := by
      omega
    have ht : (GuestBytes.ok b != .fail) = true := rfl
    simp only [acceptTask, h.aligned, beq_self_eq_true, if_true, h1, h2, h3, ht, h4, hd, hw, hb, hx, Bool.false_or, decide_eq_false hk, h5, he,
      h6, h7, Bool.false_eq_true, if_false]

/-- A launch that passes its checks takes a handle of its die, or waits while the dies' tables are full (R70). -/
theorem registerTask_spec (s : State) (part : Nat) (bs : List Byte) (rs : List Region) (die : Option Nat) (held : Option Offer) :
    (registerTask s part bs rs die held).2 = .full ⟨bs, rs⟩ ∧ (registerTask s part bs rs die held).1 = s ∨
      ∃ h, (registerTask s part bs rs die held).2 = .handle h := by
  simp only [registerTask]
  split
  · exact .inl ⟨rfl, rfl⟩
  · exact .inr ⟨_, rfl⟩

/-- A full table of the only die hands out no entry, to a host or to a group of that die (R70). -/
theorem registerTask_full {s : State} {part : Nat} {bs : List Byte} {rs : List Region} {die : Option Nat} {held : Option Offer}
    (hd : die = none ∨ die = some 0) (hc : diesOf (bytesAt bs 0x24 1 &&& effectiveDies rs) = [0]) (h : 65536 ≤ entriesUsed s 0) :
    registerTask s part bs rs die held = (s, .full ⟨bs, rs⟩) := by
  have h1 : (if [0].contains 0 then [0, 0] else [0]) = ([0, 0] : List Nat) := rfl
  have h2 : ¬entriesUsed s 0 < 65536 := by omega
  obtain rfl | rfl := hd <;> simp only [registerTask, hc, h1, allocHandle, if_neg h2]

/-- A launch that passes its checks waits while the table of the only die is full, with what the device has latched (R65, R70). -/
theorem acceptTask_full {s : State} {part record : Nat} {bs : List Byte} {k : State} {rs : List Region} {die : Option Nat}
    {held : Option Offer} (h : LaunchRead s part record bs k rs) (h6 : budgetCheck rs = none) (h7 : fitCheck bs rs = none)
    (hd : die = none ∨ die = some 0) (h8 : diesOf (bytesAt bs 0x24 1 &&& effectiveDies rs) = [0])
    (h9 : 65536 ≤ entriesUsed s 0) : acceptTask s part record die held = (k, .full ⟨bs, rs⟩) := by
  rw [acceptTask_registers h h6 h7]
  exact registerTask_full hd h8 (by rw [entriesUsed, h.tasks]; exact h9)

end Sys2Proof.Machine
end

