-- ==== Sys2Proof/Tests/Slice0.lean ====
section
/-! SUPPORT. Tests of the model against the spec: the words of the tables decode to their instructions, ill-formed terms are
refused, single instructions do what their rules say, and the hypotheses of the statements are met. -/

namespace Sys2Proof.Tests

open Sys2Proof.Machine Sys2Proof.Claim

-- one theorem after the other: each evaluates in the kernel
set_option Elab.async false

/-! ### Decoding -/

/-- The word decodes to the instruction, in its stream's decoder and through the table's numbering of bits, and is its encoding. -/
abbrev decodesTo (w : Nat) (i : Instr) : Prop :=
  decodeTableWord (if w < 2 ^ 32 ∧ (encodeScalar i).isSome then 32 else 96) w = some i ∧ i.wf = true ∧
    encode i = some (natToBytes (if (encodeScalar i).isSome then 4 else 12) w)

theorem test_decode_scalar_arithmetic : ∀ p ∈ ([
    (0x00518700, .add 5#6 6#6 7#6), (0x00518701, .sub 5#6 6#6 7#6), (0x00518702, .mul 5#6 6#6 7#6),
    (0x00518703, .mulh 5#6 6#6 7#6), (0x00518704, .mulhn 5#6 6#6 7#6), (0x00518709, .and 5#6 6#6 7#6),
    (0x0051870A, .or 5#6 6#6 7#6), (0x0051870B, .xor 5#6 6#6 7#6), (0x0051870C, .andn 5#6 6#6 7#6),
    (0x0051870D, .shl 5#6 6#6 7#6), (0x0051870E, .shr 5#6 6#6 7#6), (0x0051870F, .sra 5#6 6#6 7#6),
    (0x00518710, .min 5#6 6#6 7#6), (0x00518711, .max 5#6 6#6 7#6), (0x00518712, .minn 5#6 6#6 7#6),
    (0x00518713, .maxn 5#6 6#6 7#6), (0x00518014, .clz 5#6 6#6), (0x00518015, .ctz 5#6 6#6), (0x00518016, .pop 5#6 6#6),
    (0x00518017, .sext8 5#6 6#6), (0x00518018, .sext16 5#6 6#6), (0x00518019, .sext32 5#6 6#6),
    (0x0051801A, .zext8 5#6 6#6), (0x0051801B, .zext16 5#6 6#6), (0x0051801C, .zext32 5#6 6#6),
    (0x0051871D, .seq 5#6 6#6 7#6), (0x0051871E, .sne 5#6 6#6 7#6), (0x0051871F, .slt 5#6 6#6 7#6),
    (0x00518720, .sltn 5#6 6#6 7#6), (0x00518721, .sle 5#6 6#6 7#6), (0x00518722, .slen 5#6 6#6 7#6),
    (0x00518723, .cmov 5#6 6#6 7#6), (0x00518705, .div 5#6 6#6 7#6), (0x00518706, .divn 5#6 6#6 7#6),
    (0x00518707, .rem 5#6 6#6 7#6), (0x00518708, .remn 5#6 6#6 7#6)] : List (Nat × Instr)), decodesTo p.1 p.2 := by decide +kernel

theorem test_decode_immediates : ∀ p ∈ ([
    (0x0451BFFD, .addi 5#6 6#6 0x3ffd#14), (0x0851BFFD, .andi 5#6 6#6 0x3ffd#14), (0x0C51BFFD, .ori 5#6 6#6 0x3ffd#14),
    (0x1051BFFD, .xori 5#6 6#6 0x3ffd#14), (0x1451802B, .shiShl 5#6 6#6 0x2b#6), (0x1451902B, .shiShr 5#6 6#6 0x2b#6),
    (0x1451A02B, .shiSra 5#6 6#6 0x2b#6), (0x1451B02B, .shiRol 5#6 6#6 0x2b#6), (0x1851BFFD, .slti 5#6 6#6 0x3ffd#14),
    (0x1C51BFFD, .sltni 5#6 6#6 0x3ffd#14), (0x205FFFFD, .hi20 5#6 0xffffd#20), (0x245FFFFD, .adr 5#6 0xffffd#20),
    (0x285FFFFD, .ladr 5#6 0xffffd#20)] : List (Nat × Instr)), decodesTo p.1 p.2 := by decide +kernel

theorem test_decode_loads_and_stores : ∀ p ∈ ([
    (0x2C51BFFD, .ldI8 5#6 6#6 0x3ffd#14), (0x3051BFFD, .ldN8 5#6 6#6 0x3ffd#14),
    (0x3451BFFD, .ldI16 5#6 6#6 0x3ffd#14), (0x3851BFFD, .ldN16 5#6 6#6 0x3ffd#14),
    (0x3C51BFFD, .ldI32 5#6 6#6 0x3ffd#14), (0x4051BFFD, .ldN32 5#6 6#6 0x3ffd#14),
    (0x4451BFFD, .ld64 5#6 6#6 0x3ffd#14), (0x4861E005, .st8 6#6 7#6 0x2005#14), (0x4C61E005, .st16 6#6 7#6 0x2005#14),
    (0x5061E005, .st32 6#6 7#6 0x2005#14), (0x5461E005, .st64 6#6 7#6 0x2005#14)] : List (Nat × Instr)), decodesTo p.1 p.2 := by decide +kernel

theorem test_decode_branches : ∀ p ∈ ([
    (0x5861E005, .bEq 6#6 7#6 0x2005#14), (0x5C61E005, .bNe 6#6 7#6 0x2005#14), (0x6061E005, .bLt 6#6 7#6 0x2005#14),
    (0x6461E005, .bGe 6#6 7#6 0x2005#14), (0x6861E005, .bLtn 6#6 7#6 0x2005#14), (0x6C61E005, .bGen 6#6 7#6 0x2005#14),
    (0x72000005, .j 0x2000005#26), (0x76000005, .jal 0x2000005#26), (0x7851BFFD, .jr 5#6 6#6 0x3ffd#14),
    (0x7E960005, .lrun 0xa5#8 0x20005#18), (0x82946000, .lrunr 0xa5#8 6#6)] : List (Nat × Instr)), decodesTo p.1 p.2 := by decide +kernel

theorem test_decode_system : ∀ p ∈ ([
    (0x88000000, .nop), (0x88000401, .fenceMem 4#6), (0x88004401, .fenceXlat 4#6), (0x88008401, .fenceCode 4#6),
    (0x88000002, .xfence), (0x88018703, .bar 6#6 7#6), (0x89E18704, .wwait 3#3 1#1 2#2 6#6 7#6), (0x88000005, .exit),
    (0x88018006, .lexit 6#6), (0x88000007, .yield), (0x880ABC08, .trap 0xabc#12), (0x88501009, .srd 5#6 0x10#12),
    (0x8850100A, .swr 5#6 0x10#12), (0x8851800B, .launch 5#6 6#6), (0x8801800C, .bwait 6#6), (0x8801800D, .mwait 6#6)] : List (Nat × Instr)), decodesTo p.1 p.2 := by decide +kernel

theorem test_decode_atomics : ∀ p ∈ ([
    (0x8C518760, .amoAdd 5#6 6#6 7#6 3#3), (0x8C518761, .amoAnd 5#6 6#6 7#6 3#3), (0x8C518762, .amoOr 5#6 6#6 7#6 3#3),
    (0x8C518763, .amoXor 5#6 6#6 7#6 3#3), (0x8C518764, .amoMin 5#6 6#6 7#6 3#3), (0x8C518765, .amoMax 5#6 6#6 7#6 3#3),
    (0x8C518766, .amoMinn 5#6 6#6 7#6 3#3), (0x8C518767, .amoMaxn 5#6 6#6 7#6 3#3),
    (0x8C518768, .amoXchg 5#6 6#6 7#6 3#3), (0x8C518769, .amoCas 5#6 6#6 7#6 3#3),
    (0x8C51876A, .amoFaddF32 5#6 6#6 7#6 3#3), (0x8C51876B, .amoFaddF64 5#6 6#6 7#6 3#3)] : List (Nat × Instr)), decodesTo p.1 p.2 := by decide +kernel

theorem test_decode_triples : ∀ p ∈ ([
    (0x90518000, .many 5#6 6#6), (0x90518001, .mcnt 5#6 6#6), (0x90518002, .mffs 5#6 6#6), (0x90518003, .mmov 5#6 6#6),
    (0x90518704, .mset 5#6 6#6 7#6), (0x90518005, .mnot 5#6 6#6)] : List (Nat × Instr)), decodesTo p.1 p.2 := by decide +kernel

theorem test_decode_creamline : ∀ p ∈ ([
    (0x94500000, .crel 5#6), (0x94018001, .cacq 6#6), (0x94500002, .cseq 5#6), (0x94518703, .cbar 5#6 6#6 7#6)] : List (Nat × Instr)), decodesTo p.1 p.2 := by decide +kernel

theorem test_decode_copies : ∀ p ∈ ([
    (0x84518780, .xcShape 5#6 6#6 7#6 1#1), (0x84518781, .xcStride 5#6 6#6 7#6 1#1),
    (0x84518782, .xcDone 5#6 6#6 7#6 1#1), (0x84524183, .xcPerm 5#6 9#4 1#1), (0x84524283, .xcPermSc 5#6 9#4 1#1),
    (0x84500083, .xcPermOff 5#6 1#1), (0x84518784, .xcGo 5#6 6#6 7#6 1#1), (0x84518785, .xcFill 5#6 6#6 7#6 1#1),
    (0x84500086, .xcBatch 5#6 1#1), (0x84518087, .xcQuery 5#6 6#6)] : List (Nat × Instr)), decodesTo p.1 p.2 := by decide +kernel

theorem test_decode_matrix : ∀ p ∈ ([
    (0x845180A0, .xmFmt 5#6 6#6 1#1), (0x845187A1, .xmA 5#6 6#6 7#6 1#1), (0x845187A2, .xmB 5#6 6#6 7#6 1#1),
    (0x845187A3, .xmGrp 5#6 6#6 7#6 1#1), (0x845180A4, .xmTile 5#6 6#6 1#1), (0x845180A5, .xmMcast 5#6 6#6 1#1),
    (0x845187A6, .xmMma 5#6 6#6 7#6 1#1), (0x845187A7, .xmSca 5#6 6#6 7#6 1#1), (0x845000A8, .xmBatch 5#6 1#1)] : List (Nat × Instr)), decodesTo p.1 p.2 := by decide +kernel

theorem test_decode_churn_and_notices : ∀ p ∈ ([
    (0x845180D0, .xeReg 5#6 6#6), (0x845187D5, .xeHeat 5#6 6#6 7#6), (0x845180D1, .xeVer 5#6 6#6),
    (0x845000D2, .xePin 5#6 1#1), (0x845000D3, .xeUnpin 5#6 1#1), (0x845180D4, .xeGrad 5#6 6#6),
    (0x845187E0, .xhPost 5#6 6#6 7#6 1#1), (0x845180E1, .xhNotify 5#6 6#6 1#1)] : List (Nat × Instr)), decodesTo p.1 p.2 := by decide +kernel

theorem test_decode_operator : ∀ p ∈ ([
    (0x845187F1, .xoDirty 5#6 6#6 7#6 1#1), (0x845180F0, .xoSeal 5#6 6#6 1#1), (0x845180F3, .xoCtx 5#6 6#6 1#1),
    (0x845180F2, .xoStop 5#6 6#6 1#1)] : List (Nat × Instr)), decodesTo p.1 p.2 := by decide +kernel

theorem test_decode_lane_integer : ∀ p ∈ ([
    (0x00407A001000007A10C00064, .vadd ⟨.i32, .mode, true, 104, ⟨.vector, 122, true⟩, ⟨.imm, 0, false⟩, ⟨.vector, 0, false⟩, ⟨.butterfly, 6⟩, ⟨.identity, 0⟩, 0x64⟩),
    (0x01407A001000007A4BE00064, .vsub ⟨.i32, .mode, true, 104, ⟨.vector, 122, true⟩, ⟨.imm, 0, false⟩, ⟨.vector, 0, false⟩, ⟨.replicate, 95⟩, ⟨.identity, 0⟩, 0x64⟩),
    (0x02407A001000007A30E00064, .vmul ⟨.i32, .mode, true, 104, ⟨.vector, 122, true⟩, ⟨.imm, 0, false⟩, ⟨.vector, 0, false⟩, ⟨.reverse, 7⟩, ⟨.identity, 0⟩, 0x64⟩),
    (0x03407A001000007A50200064, .vmulh ⟨.i32, .mode, true, 104, ⟨.vector, 122, true⟩, ⟨.imm, 0, false⟩, ⟨.vector, 0, false⟩, ⟨.up, 1⟩, ⟨.identity, 0⟩, 0x64⟩),
    (0x04307A200960007A6BE00005, .vmad ⟨.n16, .mode, true, 104, ⟨.vector, 122, true⟩, ⟨.scalar, 22, false⟩, ⟨.imm, 0, false⟩, ⟨.down, 95⟩, ⟨.identity, 0⟩, 0x5⟩),
    (0x05407A001000007A00000064, .vmin ⟨.i32, .mode, true, 104, ⟨.vector, 122, true⟩, ⟨.imm, 0, false⟩, ⟨.vector, 0, false⟩, ⟨.identity, 0⟩, ⟨.identity, 0⟩, 0x64⟩),
    (0x06407A001000007A20A00064, .vmax ⟨.i32, .mode, true, 104, ⟨.vector, 122, true⟩, ⟨.imm, 0, false⟩, ⟨.vector, 0, false⟩, ⟨.rotate, 5⟩, ⟨.identity, 0⟩, 0x64⟩),
    (0x07007A000000007A10C00000, .vabs ⟨.i8, .mode, true, 104, ⟨.vector, 122, true⟩, ⟨.vector, 0, false⟩, ⟨.vector, 0, false⟩, ⟨.butterfly, 6⟩, ⟨.identity, 0⟩, 0x0⟩),
    (0x08007A000000007A4BE00000, .vneg ⟨.i8, .mode, true, 104, ⟨.vector, 122, true⟩, ⟨.vector, 0, false⟩, ⟨.vector, 0, false⟩, ⟨.replicate, 95⟩, ⟨.identity, 0⟩, 0x0⟩),
    (0x09B07A000960007A30E00000, .vand ⟨.f64, .mode, true, 104, ⟨.vector, 122, true⟩, ⟨.scalar, 22, false⟩, ⟨.vector, 0, false⟩, ⟨.reverse, 7⟩, ⟨.identity, 0⟩, 0x0⟩),
    (0x0AB07A000960007A50200000, .vor ⟨.f64, .mode, true, 104, ⟨.vector, 122, true⟩, ⟨.scalar, 22, false⟩, ⟨.vector, 0, false⟩, ⟨.up, 1⟩, ⟨.identity, 0⟩, 0x0⟩),
    (0x0BB07A000960007A6BE00000, .vxor ⟨.f64, .mode, true, 104, ⟨.vector, 122, true⟩, ⟨.scalar, 22, false⟩, ⟨.vector, 0, false⟩, ⟨.down, 95⟩, ⟨.identity, 0⟩, 0x0⟩),
    (0x0CB07A000960007A00000000, .vandn ⟨.f64, .mode, true, 104, ⟨.vector, 122, true⟩, ⟨.scalar, 22, false⟩, ⟨.vector, 0, false⟩, ⟨.identity, 0⟩, ⟨.identity, 0⟩, 0x0⟩),
    (0x0DF07A000000007A20A00000, .vnot ⟨.n4, .mode, true, 104, ⟨.vector, 122, true⟩, ⟨.vector, 0, false⟩, ⟨.vector, 0, false⟩, ⟨.rotate, 5⟩, ⟨.identity, 0⟩, 0x0⟩),
    (0x0E107A001820007A10C00000, .vshl ⟨.n8, .mode, true, 104, ⟨.vector, 122, true⟩, ⟨.special, 2, false⟩, ⟨.vector, 0, false⟩, ⟨.butterfly, 6⟩, ⟨.identity, 0⟩, 0x0⟩),
    (0x0F107A001820007A4BE00000, .vshr ⟨.n8, .mode, true, 104, ⟨.vector, 122, true⟩, ⟨.special, 2, false⟩, ⟨.vector, 0, false⟩, ⟨.replicate, 95⟩, ⟨.identity, 0⟩, 0x0⟩),
    (0x10107A001820007A30E00000, .vsra ⟨.n8, .mode, true, 104, ⟨.vector, 122, true⟩, ⟨.special, 2, false⟩, ⟨.vector, 0, false⟩, ⟨.reverse, 7⟩, ⟨.identity, 0⟩, 0x0⟩),
    (0x11F07A000000007A50200000, .vclz ⟨.n4, .mode, true, 104, ⟨.vector, 122, true⟩, ⟨.vector, 0, false⟩, ⟨.vector, 0, false⟩, ⟨.up, 1⟩, ⟨.identity, 0⟩, 0x0⟩),
    (0x12F07A000000007A6BE00000, .vpop ⟨.n4, .mode, true, 104, ⟨.vector, 122, true⟩, ⟨.vector, 0, false⟩, ⟨.vector, 0, false⟩, ⟨.down, 95⟩, ⟨.identity, 0⟩, 0x0⟩),
    (0x13F07A000000007A00000000, .vbrev ⟨.n4, .mode, true, 104, ⟨.vector, 122, true⟩, ⟨.vector, 0, false⟩, ⟨.vector, 0, false⟩, ⟨.identity, 0⟩, ⟨.identity, 0⟩, 0x0⟩),
    (0x14607A0005630E7A20A0003D, .vsel ⟨.i64, .mode, true, 104, ⟨.vector, 122, true⟩, ⟨.vector, 86, false⟩, ⟨.vector, 0, false⟩, ⟨.rotate, 5⟩, ⟨.reverse, 7⟩, 0x3d⟩),
    (0x15504F400960007A10C0000D, .vcmp ⟨.n32, .mode, false, 61, ⟨.vector, 122, true⟩, ⟨.scalar, 22, false⟩, ⟨.vector, 0, false⟩, ⟨.butterfly, 6⟩, ⟨.identity, 0⟩, 0xd⟩),
    (0x16F07A000000007A4BE00000, .vmov ⟨.n4, .mode, true, 104, ⟨.vector, 122, true⟩, ⟨.vector, 0, false⟩, ⟨.vector, 0, false⟩, ⟨.replicate, 95⟩, ⟨.identity, 0⟩, 0x0⟩)] : List (Nat × Instr)), decodesTo p.1 p.2 := by decide +kernel

theorem test_decode_lane_float : ∀ p ∈ ([
    (0x308C7A000960007A30E00000, .vfadd ⟨.f16, .sto, true, 104, ⟨.vector, 122, true⟩, ⟨.scalar, 22, false⟩, ⟨.vector, 0, false⟩, ⟨.reverse, 7⟩, ⟨.identity, 0⟩, 0x0⟩),
    (0x318C7A000960007A50200000, .vfsub ⟨.f16, .sto, true, 104, ⟨.vector, 122, true⟩, ⟨.scalar, 22, false⟩, ⟨.vector, 0, false⟩, ⟨.up, 1⟩, ⟨.identity, 0⟩, 0x0⟩),
    (0x328C7A000960007A6BE00000, .vfmul ⟨.f16, .sto, true, 104, ⟨.vector, 122, true⟩, ⟨.scalar, 22, false⟩, ⟨.vector, 0, false⟩, ⟨.down, 95⟩, ⟨.identity, 0⟩, 0x0⟩),
    (0x33A47A158564BE7A00000000, .vfma ⟨.f32, .rtz, true, 104, ⟨.vector, 122, true⟩, ⟨.vector, 86, false⟩, ⟨.scalar, 44, false⟩, ⟨.identity, 0⟩, ⟨.replicate, 95⟩, 0x0⟩),
    (0x34A47A1585630E7A20A00000, .vfms ⟨.f32, .rtz, true, 104, ⟨.vector, 122, true⟩, ⟨.vector, 86, false⟩, ⟨.scalar, 44, false⟩, ⟨.rotate, 5⟩, ⟨.reverse, 7⟩, 0x0⟩),
    (0x35A47A158565027A10C00000, .vfnma ⟨.f32, .rtz, true, 104, ⟨.vector, 122, true⟩, ⟨.vector, 86, false⟩, ⟨.scalar, 44, false⟩, ⟨.butterfly, 6⟩, ⟨.up, 1⟩, 0x0⟩),
    (0x36A47A158566BE7A4BE00000, .vfnms ⟨.f32, .rtz, true, 104, ⟨.vector, 122, true⟩, ⟨.vector, 86, false⟩, ⟨.scalar, 44, false⟩, ⟨.replicate, 95⟩, ⟨.down, 95⟩, 0x0⟩),
    (0x37907A000560007A30E00000, .vfmin ⟨.bf16, .mode, true, 104, ⟨.vector, 122, true⟩, ⟨.vector, 86, false⟩, ⟨.vector, 0, false⟩, ⟨.reverse, 7⟩, ⟨.identity, 0⟩, 0x0⟩),
    (0x38907A0005620A7A50200000, .vfmax ⟨.bf16, .mode, true, 104, ⟨.vector, 122, true⟩, ⟨.vector, 86, false⟩, ⟨.vector, 0, false⟩, ⟨.up, 1⟩, ⟨.rotate, 5⟩, 0x0⟩),
    (0x39907A0005610C7A6BE00000, .vfminx ⟨.bf16, .mode, true, 104, ⟨.vector, 122, true⟩, ⟨.vector, 86, false⟩, ⟨.vector, 0, false⟩, ⟨.down, 95⟩, ⟨.butterfly, 6⟩, 0x0⟩),
    (0x3A907A000564BE7A00000000, .vfmaxx ⟨.bf16, .mode, true, 104, ⟨.vector, 122, true⟩, ⟨.vector, 86, false⟩, ⟨.vector, 0, false⟩, ⟨.identity, 0⟩, ⟨.replicate, 95⟩, 0x0⟩),
    (0x3BC07A000000007A20A00000, .vfabs ⟨.e4m3, .mode, true, 104, ⟨.vector, 122, true⟩, ⟨.vector, 0, false⟩, ⟨.vector, 0, false⟩, ⟨.rotate, 5⟩, ⟨.identity, 0⟩, 0x0⟩),
    (0x3CC07A000000007A10C00000, .vfneg ⟨.e4m3, .mode, true, 104, ⟨.vector, 122, true⟩, ⟨.vector, 0, false⟩, ⟨.vector, 0, false⟩, ⟨.butterfly, 6⟩, ⟨.identity, 0⟩, 0x0⟩),
    (0x3DD07A000566BE7A4BE00000, .vfcpsgn ⟨.e5m2, .mode, true, 104, ⟨.vector, 122, true⟩, ⟨.vector, 86, false⟩, ⟨.vector, 0, false⟩, ⟨.replicate, 95⟩, ⟨.down, 95⟩, 0x0⟩),
    (0x3EB04F400560007A30E0000F, .vfcmp ⟨.f64, .mode, false, 61, ⟨.vector, 122, true⟩, ⟨.vector, 86, false⟩, ⟨.vector, 0, false⟩, ⟨.reverse, 7⟩, ⟨.identity, 0⟩, 0xf⟩),
    (0x3FC07A000000007A50200000, .vfclass ⟨.e4m3, .mode, true, 104, ⟨.vector, 122, true⟩, ⟨.vector, 0, false⟩, ⟨.vector, 0, false⟩, ⟨.up, 1⟩, ⟨.identity, 0⟩, 0x0⟩),
    (0x408C7A000960007A6BE00000, .vfdiv ⟨.f16, .sto, true, 104, ⟨.vector, 122, true⟩, ⟨.scalar, 22, false⟩, ⟨.vector, 0, false⟩, ⟨.down, 95⟩, ⟨.identity, 0⟩, 0x0⟩),
    (0x41BA7A000000007A00000000, .vfsqrt ⟨.f64, .rna, true, 104, ⟨.vector, 122, true⟩, ⟨.vector, 0, false⟩, ⟨.vector, 0, false⟩, ⟨.identity, 0⟩, ⟨.identity, 0⟩, 0x0⟩),
    (0x42BA7A000000007A20A00000, .vfrcp ⟨.f64, .rna, true, 104, ⟨.vector, 122, true⟩, ⟨.vector, 0, false⟩, ⟨.vector, 0, false⟩, ⟨.rotate, 5⟩, ⟨.identity, 0⟩, 0x0⟩),
    (0x43A07A000000007A10C00000, .vfrsq ⟨.f32, .mode, true, 104, ⟨.vector, 122, true⟩, ⟨.vector, 0, false⟩, ⟨.vector, 0, false⟩, ⟨.butterfly, 6⟩, ⟨.identity, 0⟩, 0x0⟩),
    (0x44A07A000000007A4BE00000, .vfexp2 ⟨.f32, .mode, true, 104, ⟨.vector, 122, true⟩, ⟨.vector, 0, false⟩, ⟨.vector, 0, false⟩, ⟨.replicate, 95⟩, ⟨.identity, 0⟩, 0x0⟩),
    (0x45A07A000000007A30E00000, .vflog2 ⟨.f32, .mode, true, 104, ⟨.vector, 122, true⟩, ⟨.vector, 0, false⟩, ⟨.vector, 0, false⟩, ⟨.reverse, 7⟩, ⟨.identity, 0⟩, 0x0⟩),
    (0x46A07A000000007A50200000, .vfsin ⟨.f32, .mode, true, 104, ⟨.vector, 122, true⟩, ⟨.vector, 0, false⟩, ⟨.vector, 0, false⟩, ⟨.up, 1⟩, ⟨.identity, 0⟩, 0x0⟩),
    (0x47A07A000000007A6BE00000, .vfcos ⟨.f32, .mode, true, 104, ⟨.vector, 122, true⟩, ⟨.vector, 0, false⟩, ⟨.vector, 0, false⟩, ⟨.down, 95⟩, ⟨.identity, 0⟩, 0x0⟩),
    (0x48A07A000000007A00000000, .vftanh ⟨.f32, .mode, true, 104, ⟨.vector, 122, true⟩, ⟨.vector, 0, false⟩, ⟨.vector, 0, false⟩, ⟨.identity, 0⟩, ⟨.identity, 0⟩, 0x0⟩),
    (0x49BA7A000000007A20A00000, .vfrnd ⟨.f64, .rna, true, 104, ⟨.vector, 122, true⟩, ⟨.vector, 0, false⟩, ⟨.vector, 0, false⟩, ⟨.rotate, 5⟩, ⟨.identity, 0⟩, 0x0⟩)] : List (Nat × Instr)), decodesTo p.1 p.2 := by decide +kernel

theorem test_decode_lane_conversion : ∀ p ∈ ([
    (0x60A27A000000007A10C00004, .vcvt ⟨.f32, .rne, true, 104, ⟨.vector, 122, true⟩, ⟨.vector, 0, false⟩, ⟨.vector, 0, false⟩, ⟨.butterfly, 6⟩, ⟨.identity, 0⟩, 0x4⟩),
    (0x61967A000960007A4BE0000A, .vpack2 ⟨.bf16, .rdn, true, 104, ⟨.vector, 122, true⟩, ⟨.scalar, 22, false⟩, ⟨.vector, 0, false⟩, ⟨.replicate, 95⟩, ⟨.identity, 0⟩, 0xa⟩),
    (0x62C87A000960007A30E00004, .vpack4 ⟨.e4m3, .rup, true, 104, ⟨.vector, 122, true⟩, ⟨.scalar, 22, false⟩, ⟨.vector, 0, false⟩, ⟨.reverse, 7⟩, ⟨.identity, 0⟩, 0x4⟩),
    (0x63E07A000960007A5020000A, .vpack8 ⟨.i4, .mode, true, 104, ⟨.vector, 122, true⟩, ⟨.scalar, 22, false⟩, ⟨.vector, 0, false⟩, ⟨.up, 1⟩, ⟨.identity, 0⟩, 0xa⟩),
    (0x64827A0005610C7A6BE00000, .vunpk2 ⟨.f16, .rne, true, 104, ⟨.vector, 122, true⟩, ⟨.vector, 86, false⟩, ⟨.vector, 0, false⟩, ⟨.down, 95⟩, ⟨.butterfly, 6⟩, 0x0⟩),
    (0x65137A058564BE7A00000000, .vunpk4 ⟨.n8, .rne, true, 104, ⟨.vector, 122, true⟩, ⟨.vector, 86, false⟩, ⟨.vector, 44, true⟩, ⟨.identity, 0⟩, ⟨.replicate, 95⟩, 0x0⟩),
    (0x66F37A058960007A20A00000, .vunpk8 ⟨.n4, .rne, true, 104, ⟨.vector, 122, true⟩, ⟨.scalar, 22, false⟩, ⟨.vector, 44, true⟩, ⟨.rotate, 5⟩, ⟨.identity, 0⟩, 0x0⟩),
    (0x67F37A058565027A10C00000, .vqgrp ⟨.n4, .rne, true, 104, ⟨.vector, 122, true⟩, ⟨.vector, 86, false⟩, ⟨.vector, 44, true⟩, ⟨.butterfly, 6⟩, ⟨.up, 1⟩, 0x0⟩),
    (0x68207A000000007A4BE00004, .vsat ⟨.i16, .mode, true, 104, ⟨.vector, 122, true⟩, ⟨.vector, 0, false⟩, ⟨.vector, 0, false⟩, ⟨.replicate, 95⟩, ⟨.identity, 0⟩, 0x4⟩)] : List (Nat × Instr)), decodesTo p.1 p.2 := by decide +kernel

theorem test_decode_lane_cross : ∀ p ∈ ([
    (0x70607A000560007A30E00000, .vgath ⟨.i64, .mode, true, 104, ⟨.vector, 122, true⟩, ⟨.vector, 86, false⟩, ⟨.vector, 0, false⟩, ⟨.reverse, 7⟩, ⟨.identity, 0⟩, 0x0⟩),
    (0x71407A001000007A5020005F, .vbcast ⟨.i32, .mode, true, 104, ⟨.vector, 122, true⟩, ⟨.imm, 0, false⟩, ⟨.vector, 0, false⟩, ⟨.up, 1⟩, ⟨.identity, 0⟩, 0x5f⟩),
    (0x72B24FC00000007A6BE00010, .vred ⟨.f64, .rne, false, 63, ⟨.vector, 122, true⟩, ⟨.vector, 0, false⟩, ⟨.vector, 0, false⟩, ⟨.down, 95⟩, ⟨.identity, 0⟩, 0x10⟩),
    (0x73507A000000007A0000000D, .vscan ⟨.n32, .mode, true, 104, ⟨.vector, 122, true⟩, ⟨.vector, 0, false⟩, ⟨.vector, 0, false⟩, ⟨.identity, 0⟩, ⟨.identity, 0⟩, 0xd⟩),
    (0x74A07A000000007A20A00003, .vmatch ⟨.f32, .mode, true, 104, ⟨.vector, 122, true⟩, ⟨.vector, 0, false⟩, ⟨.vector, 0, false⟩, ⟨.rotate, 5⟩, ⟨.identity, 0⟩, 0x3⟩),
    (0x75104F400000007A10C00000, .vballot ⟨.n8, .mode, false, 61, ⟨.vector, 122, true⟩, ⟨.vector, 0, false⟩, ⟨.vector, 0, false⟩, ⟨.butterfly, 6⟩, ⟨.identity, 0⟩, 0x0⟩),
    (0x76407A000000007A4BE0003D, .vcompact ⟨.i32, .mode, true, 104, ⟨.vector, 122, true⟩, ⟨.vector, 0, false⟩, ⟨.vector, 0, false⟩, ⟨.replicate, 95⟩, ⟨.identity, 0⟩, 0x3d⟩),
    (0x77407A000000007A30E00007, .vexpand ⟨.i32, .mode, true, 104, ⟨.vector, 122, true⟩, ⟨.vector, 0, false⟩, ⟨.vector, 0, false⟩, ⟨.reverse, 7⟩, ⟨.identity, 0⟩, 0x7⟩),
    (0x78503A000000000000000003, .vlaneid ⟨.n32, .mode, true, 104, ⟨.vector, 0, false⟩, ⟨.vector, 0, false⟩, ⟨.vector, 0, false⟩, ⟨.identity, 0⟩, ⟨.identity, 0⟩, 0x3⟩)] : List (Nat × Instr)), decodesTo p.1 p.2 := by decide +kernel

theorem test_decode_lane_memory : ∀ p ∈ ([
    (0x90303A0005610CBA00100038, .vld ⟨.n16, .mode, true, 104, ⟨.scalar, 58, false⟩, ⟨.vector, 86, false⟩, ⟨.vector, 0, false⟩, ⟨.identity, 0⟩, ⟨.butterfly, 6⟩, 0x100038⟩),
    (0x914140059820007A00100023, .vst ⟨.i32, .mode, false, 0, ⟨.vector, 122, true⟩, ⟨.special, 2, false⟩, ⟨.vector, 44, true⟩, ⟨.identity, 0⟩, ⟨.identity, 0⟩, 0x100023⟩),
    (0x92003A00096000BA00100038, .vlds ⟨.i8, .mode, true, 104, ⟨.scalar, 58, false⟩, ⟨.scalar, 22, false⟩, ⟨.vector, 0, false⟩, ⟨.identity, 0⟩, ⟨.identity, 0⟩, 0x100038⟩),
    (0x93610005896000BA00100021, .vsts ⟨.i64, .mode, false, 0, ⟨.scalar, 58, false⟩, ⟨.scalar, 22, false⟩, ⟨.vector, 44, true⟩, ⟨.identity, 0⟩, ⟨.identity, 0⟩, 0x100021⟩),
    (0x94807A000960007A4BF00030, .vldc ⟨.f16, .mode, true, 104, ⟨.vector, 122, true⟩, ⟨.scalar, 22, false⟩, ⟨.vector, 0, false⟩, ⟨.replicate, 95⟩, ⟨.identity, 0⟩, 0x100030⟩),
    (0x95B140058560007A30F00020, .vstc ⟨.f64, .mode, false, 0, ⟨.vector, 122, true⟩, ⟨.vector, 86, false⟩, ⟨.vector, 44, true⟩, ⟨.reverse, 7⟩, ⟨.identity, 0⟩, 0x100020⟩),
    (0x96A03A0005620ABA00000AA8, .vamo ⟨.f32, .mode, true, 104, ⟨.scalar, 58, false⟩, ⟨.vector, 86, false⟩, ⟨.vector, 0, false⟩, ⟨.identity, 0⟩, ⟨.rotate, 5⟩, 0xaa8⟩),
    (0x97717A0585610C7A6BE00690, .vamoc ⟨.n64, .mode, true, 104, ⟨.vector, 122, true⟩, ⟨.vector, 86, false⟩, ⟨.vector, 44, true⟩, ⟨.down, 95⟩, ⟨.butterfly, 6⟩, 0x690⟩),
    (0x984000000564BEBA00100028, .vprf ⟨.i32, .mode, false, 0, ⟨.scalar, 58, false⟩, ⟨.vector, 86, false⟩, ⟨.vector, 0, false⟩, ⟨.identity, 0⟩, ⟨.replicate, 95⟩, 0x100028⟩)] : List (Nat × Instr)), decodesTo p.1 p.2 := by decide +kernel

theorem test_decode_permutation : ∀ p ∈ ([
    (0xB01043400960007A20A00000, .qld ⟨.n8, .mode, false, 13, ⟨.vector, 122, true⟩, ⟨.scalar, 22, false⟩, ⟨.vector, 0, false⟩, ⟨.rotate, 5⟩, ⟨.identity, 0⟩, 0x0⟩),
    (0xB1104FC01820007A10C00000, .qldt ⟨.n8, .mode, false, 63, ⟨.vector, 122, true⟩, ⟨.special, 2, false⟩, ⟨.vector, 0, false⟩, ⟨.butterfly, 6⟩, ⟨.identity, 0⟩, 0x0⟩),
    (0xB2103A000000000000000009, .qst ⟨.n8, .mode, true, 104, ⟨.vector, 0, false⟩, ⟨.vector, 0, false⟩, ⟨.vector, 0, false⟩, ⟨.identity, 0⟩, ⟨.identity, 0⟩, 0x9⟩),
    (0xB3100340000000BA00000000, .qid ⟨.n8, .mode, false, 13, ⟨.scalar, 58, false⟩, ⟨.vector, 0, false⟩, ⟨.vector, 0, false⟩, ⟨.identity, 0⟩, ⟨.identity, 0⟩, 0x0⟩),
    (0xB410034000000000000000A5, .qcomp ⟨.n8, .mode, false, 13, ⟨.vector, 0, false⟩, ⟨.vector, 0, false⟩, ⟨.vector, 0, false⟩, ⟨.identity, 0⟩, ⟨.identity, 0⟩, 0xa5⟩),
    (0xB5100340000000000000000F, .qinv ⟨.n8, .mode, false, 13, ⟨.vector, 0, false⟩, ⟨.vector, 0, false⟩, ⟨.vector, 0, false⟩, ⟨.identity, 0⟩, ⟨.identity, 0⟩, 0xf⟩),
    (0xB6100340000000BA00000006, .qpow ⟨.n8, .mode, false, 13, ⟨.scalar, 58, false⟩, ⟨.vector, 0, false⟩, ⟨.vector, 0, false⟩, ⟨.identity, 0⟩, ⟨.identity, 0⟩, 0x6⟩),
    (0xB71003400000018200000000, .qrand ⟨.n8, .mode, false, 13, ⟨.special, 2, false⟩, ⟨.vector, 0, false⟩, ⟨.vector, 0, false⟩, ⟨.identity, 0⟩, ⟨.identity, 0⟩, 0x0⟩),
    (0xB8100FC0000000BA0000010F, .qcyc ⟨.n8, .mode, false, 63, ⟨.scalar, 58, false⟩, ⟨.vector, 0, false⟩, ⟨.vector, 0, false⟩, ⟨.identity, 0⟩, ⟨.identity, 0⟩, 0x10f⟩),
    (0xB9B07A000000007A4BE0080F, .qapp ⟨.f64, .mode, true, 104, ⟨.vector, 122, true⟩, ⟨.vector, 0, false⟩, ⟨.vector, 0, false⟩, ⟨.replicate, 95⟩, ⟨.identity, 0⟩, 0x80f⟩)] : List (Nat × Instr)), decodesTo p.1 p.2 := by decide +kernel

theorem test_decode_tile : ∀ p ∈ ([
    (0xC0B07A000000007A30E0000E, .vacrd ⟨.f64, .mode, true, 104, ⟨.vector, 122, true⟩, ⟨.vector, 0, false⟩, ⟨.vector, 0, false⟩, ⟨.reverse, 7⟩, ⟨.identity, 0⟩, 0xe⟩),
    (0xC140400005620A7A5020000F, .vacwr ⟨.i32, .mode, false, 0, ⟨.vector, 122, true⟩, ⟨.vector, 86, false⟩, ⟨.vector, 0, false⟩, ⟨.up, 1⟩, ⟨.rotate, 5⟩, 0xf⟩),
    (0xC2B00FC00000000000000006, .vpark ⟨.f64, .mode, false, 63, ⟨.vector, 0, false⟩, ⟨.vector, 0, false⟩, ⟨.vector, 0, false⟩, ⟨.identity, 0⟩, ⟨.identity, 0⟩, 0x6⟩),
    (0xC3400000000000BA00000007, .vunpark ⟨.i32, .mode, false, 0, ⟨.scalar, 58, false⟩, ⟨.vector, 0, false⟩, ⟨.vector, 0, false⟩, ⟨.identity, 0⟩, ⟨.identity, 0⟩, 0x7⟩),
    (0xC4507A0005630E7A20A00000, .vroute ⟨.n32, .mode, true, 104, ⟨.vector, 122, true⟩, ⟨.vector, 86, false⟩, ⟨.vector, 0, false⟩, ⟨.rotate, 5⟩, ⟨.reverse, 7⟩, 0x0⟩)] : List (Nat × Instr)), decodesTo p.1 p.2 := by decide +kernel

/-! ### Well-formed and ill-formed terms -/

/-- A lane word without operands: `dt` i32, no rounding, every other field zero. -/
def bare : LaneOps :=
  ⟨.i32, .mode, false, 0, ⟨.vector, 0, false⟩, ⟨.vector, 0, false⟩, ⟨.vector, 0, false⟩, ⟨.identity, 0⟩, ⟨.identity, 0⟩, 0⟩

/-- Scalar terms with a field whose value no word holds or the instruction does not allow: scopes above 5 (R109), barriers
above 15 (R169, R342), triples above 61 (R161), special registers that no row lists (R146), a destination without y (R112),
parts that do not exist. -/
theorem test_ill_formed_scalar : ∀ i ∈ ([.fenceMem 6, .fenceXlat 63, .fenceCode 6, .wwait 6 0 0 0 0, .amoAdd 0 0 0 6, .amoCas 0 0 0 7,
    .amoFaddF32 0 0 0 6, .amoFaddF64 0 0 0 7, .bar 0 16, .cbar 0 0 63, .lexit 62, .many 0 62, .mcnt 0 63, .mffs 0 62, .mmov 62 0, .mmov 0 62,
    .mset 62 0 0, .mnot 0 63, .mnot 62 0, .srd 0 0x01B, .swr 0 0x823, .xcGo 1 0 0 0, .xmMma 63 0 0 0, .xePin 1 0, .xhPost 1 0 0 0,
    .xoDirty 1 0 0 0, .leaseWrite 8 0, .slotFill 8 0 0 [], .slotFill 0 192 0 [], .slotFill 0 0 16 [], .scrubComplete 64,
    .demandNotice 0 64 0, .demandNotice 8 0 0] : List Instr), i.wf = false := by decide +kernel

/-- Lane terms that a check of R120 refuses: the fields are those of R113 to R118. -/
theorem test_ill_formed_lane : ∀ i ∈ ([.vadd { bare with dt := .f32 }, .vfadd { bare with dt := .e4m3 }, .vfadd { bare with dt := .i32 },
    .qid { bare with a := ⟨.scalar, 0, false⟩ }, .vabs { bare with dt := .n8 },
    .vsel { bare with imm := 62 }, .vcmp { bare with imm := 6 }, .vpack2 { bare with dt := .f16, imm := 3 }, .vsat { bare with imm := 10 },
    .vred { bare with imm := 6 }, .vscan { bare with dt := .f32, imm := 3 }, .vmatch { bare with imm := 1 },
    .vld { bare with imm := 9 }, .vld { bare with imm := 16 }, .vamo { bare with imm := 0xC0 }, .vamo { bare with imm := 0xA0 },
    .vamoc { bare with imm := 0xC00 }, .qcyc { bare with dt := .n8, imm := 0x500 },
    .vsel { bare with a := ⟨.imm, 0, false⟩ }, .vlds { bare with b := ⟨.scalar, 0, false⟩ }, .vpack2 { bare with dt := .f16, imm := 4, a := ⟨.scalar, 0, false⟩ },
    .vadd { bare with a := ⟨.special, 4, false⟩ }, .vadd { bare with a := ⟨.scalar, 0, false⟩, patA := ⟨.rotate, 1⟩ },
    .vadd { bare with patA := ⟨.identity, 1⟩ }, .vadd { bare with patA := ⟨.butterfly, 7⟩ }, .vadd { bare with patB := ⟨.rotate, 0⟩ },
    .vadd { bare with patB := ⟨.reverse, 8⟩ }, .vadd { bare with patB := ⟨.replicate, 96⟩ }, .vadd { bare with patB := ⟨.up, 0⟩ },
    .vadd { bare with patB := ⟨.down, 96⟩ }, .vcmp { bare with vd := 62 }, .vballot { bare with vd := 63 },
    .vadd { bare with c := ⟨.vector, 1, false⟩ }, .vadd { bare with c := ⟨.special, 0, false⟩ }, .vabs { bare with patB := ⟨.rotate, 1⟩ },
    .vadd { bare with a := ⟨.scalar, 64, false⟩ }, .vadd { bare with b := ⟨.imm, 1, false⟩ }, .vadd { bare with b := ⟨.scalar, 0, true⟩ },
    .vcmp { bare with vd := 64 }, .vred { bare with vd := 64, imm := 0x10 }, .qcomp { bare with dt := .n8, vd := 16 }, .vst { bare with vd := 1 },
    .vst { bare with mz := true }, .vcmp { bare with mz := true }, .vadd { bare with rs := .rne }, .vfmin { bare with dt := .f32, rs := .rtz },
    .vadd { bare with imm := 1 }, .vballot { bare with imm := 1 }, .vlaneid { bare with imm := 4 }, .vldc { bare with a := ⟨.vector, 0, false⟩, imm := 1 }]
    : List Instr), i.wf = false := by decide +kernel

/-- Terms on the allowed side of the same limits. -/
theorem test_well_formed : ∀ i ∈ ([.fenceMem 5, .wwait 5 1 3 63 63, .amoCas 63 63 63 5, .bar 63 15, .cbar 63 63 15, .lexit 61, .mmov 61 61,
    .srd 63 0x822, .swr 0 0x01A, .xcGo 0 63 63 0, .xcGo 63 0 0 1, .leaseWrite 7 0, .slotFill 7 191 15 [], .scrubComplete 63,
    .vadd { bare with patB := ⟨.replicate, 95⟩ }, .vadd { bare with patA := ⟨.butterfly, 6⟩ }, .vadd { bare with b := ⟨.imm, 0, false⟩, imm := 0x1FFFFF },
    .vsel { bare with imm := 61 }, .vcmp { bare with vd := 61, imm := 0xD }, .qcomp { bare with dt := .n8, vd := 15, imm := 0xFF },
    .vfadd { bare with dt := .f64, rs := .sto }, .vldc { bare with imm := 0x1FFFE0 }] : List Instr), i.wf = true := by decide +kernel

/-! ### A small state -/

/-- The state of `placeWord`: one owner's group in slot 0 of core 0 of die 0, whose first GiB of addresses is the first GiB of
memory. Its partition owns the pages from 4 to 16 too, six of them as its context store, and its cohort holds one granule of
scratch. -/
def base : State :=
  { placeWord State.reset 32 0x88000000 with
    cur := 1, agenda := []
    owners := Sparse.setRange (placeWord State.reset 32 0).owners 4 (List.replicate 13 0x81)
    cohorts := [⟨0, 1, 1, 0, 24576, [0], [], [], []⟩]
    parts := { placedPart with storeBase := 0xA0000, storeLen := 0x60000,
                               storePages := [0xA0000, 0xB0000, 0xC0000, 0xD0000, 0xE0000, 0xF0000] } :: State.reset.parts }

/-- A group with the scalar registers named, and every lane active. -/
def regs (l : List (Nat × Word)) (g : Group) : Group :=
  { g with scalars := l.foldl (fun m x => Sparse.set m x.1 x.2) [(61, 0xFFFFFFFF), (62, 0xFFFFFFFF), (63, 0xFFFFFFFF)] }

/-- The group of `base` with 96 live lanes: s2 the address 0x70000 and s3 one that is misaligned, s4 the scratch window, s5
five, s6 a hole of the map, s7 the most negative number. -/
def owner : Group :=
  regs [(2, 0x70000), (3, 0x70001), (4, 0xFFFFF00000000000), (5, 5), (6, 0x0010000000000000), (7, 0x8000000000000000)]
    { placedGroup 1 false with lanes := 96, live := BitVec.allOnes 96 }

/-- The state with this record of its group. -/
def holding (g : Group) : State := putGroup base g

/-- What an outcome's next state shows. -/
def shows (o : Host.Outcome State Fault Refusal) (p : State → Bool) : Bool :=
  match o with
  | .next t => p t
  | _ => false

/-- The outcome is this next state. -/
def becomes (o : Host.Outcome State Fault Refusal) (t : State) : Bool := shows o fun u => u == t

/-- A scalar register of the group after an instruction. -/
def leaves (i : Instr) (g : Group) (d : Reg) (v : Word) : Bool :=
  shows (exec i (holding g)) fun t => ((group? t 1).map fun h => (sreg h d, h.pc)) == some (v, g.pc + 4)

/-! ### Scalar instructions -/

/-- Values by R151 to R154, worked by hand: wraps, sign changes, a shift by 64 that counts as 0, division toward zero. -/
theorem test_scalar_values :
    (∀ p ∈ ([(.add 8 7 7, 0), (.sub 8 0 5, 0xFFFFFFFFFFFFFFFB), (.mul 8 7 5, 0x8000000000000000), (.mulh 8 7 5, 0xFFFFFFFFFFFFFFFD),
      (.mulhn 8 7 5, 2), (.div 8 7 9, 0x8000000000000000), (.rem 8 7 9, 0), (.divn 8 7 5, 0x1999999999999999), (.remn 8 7 5, 3),
      (.div 8 10 5, 0xFFFFFFFFFFFFFFFF), (.rem 8 10 5, 0xFFFFFFFFFFFFFFFE), (.andn 8 9 5, 0xFFFFFFFFFFFFFFFA), (.shl 8 5 11, 5),
      (.sra 8 7 5, 0xFC00000000000000), (.shr 8 7 5, 0x0400000000000000), (.min 8 7 5, 0x8000000000000000), (.minn 8 7 5, 5),
      (.max 8 7 5, 5), (.maxn 8 7 5, 0x8000000000000000), (.clz 8 0, 64), (.ctz 8 0, 64), (.clz 8 5, 61), (.pop 8 9, 64),
      (.sext8 8 12, 0xFFFFFFFFFFFFFF80), (.zext8 8 12, 0x80), (.slt 8 7 5, 1), (.sltn 8 7 5, 0), (.sle 8 5 5, 1), (.slen 8 5 7, 1),
      (.seq 8 5 5, 1), (.sne 8 5 5, 0), (.cmov 8 5 7, 5), (.cmov 8 5 0, 0), (.add 0 5 5, 0)] : List (Instr × Word)),
      leaves p.1 (regs [(5, 5), (7, 0x8000000000000000), (9, 0xFFFFFFFFFFFFFFFF), (10, 0xFFFFFFFFFFFFFFF9), (11, 64), (12, 0x180)] owner)
        (if p.1 = .add 0 5 5 then 0 else 8) p.2 = true) ∧
    (∀ p ∈ ([(.addi 8 5 0x3FFB, 0), (.andi 8 9 0x3FFF, 0x3FFF), (.xori 8 5 1, 4), (.shiRol 8 7 1, 1), (.shiSra 8 7 63, 0xFFFFFFFFFFFFFFFF),
      (.slti 8 5 0x3FFF, 0), (.sltni 8 5 0x3FFF, 1), (.hi20 8 0x80000, 0xFFFFFFFE00000000), (.adr 8 0xFFFFF, 0xFFFC),
      (.ladr 8 2, 0x18018)] : List (Instr × Word)),
      leaves p.1 (regs [(5, 5), (7, 0x8000000000000000), (9, 0xFFFFFFFFFFFFFFFF)] owner) 8 p.2 = true) := by decide +kernel

/-- R158, R159: a branch three words back, a jump to itself, and a link. -/
theorem test_branches :
    (∀ p ∈ ([(.bNe 5 0 0x3FFD, 0xFFF4), (.bEq 5 0 0x3FFD, 0x10004), (.bLt 7 5 1, 0x10004), (.bLtn 7 5 1, 0x10004), (.bGe 5 7 2, 0x10008),
      (.bGen 5 7 2, 0x10004), (.j 0, 0x10000), (.jal 0x3FFFFFF, 0xFFFC), (.jr 8 2 4, 0x70004)] : List (Instr × Word)),
      shows (exec p.1 (holding owner)) (fun t => ((group? t 1).map fun h => h.pc) == some p.2) = true) ∧
    shows (exec (.jal 2) (holding owner)) (fun t => ((group? t 1).map fun h => sreg h 1) == some 0x10004) = true ∧
    becomes (exec (.jr 0 2 2) (holding owner)) (trapScalar (holding owner) owner 0x14) = true := by decide +kernel

theorem witness_scalar_running : Running (holding owner) owner ∧ owner.queue = [] ∧ sreg owner 5 ≠ 0 ∧ sreg owner 0 = 0 ∧
    owner.mode.getLsbD 35 = false ∧ task? (holding owner) owner.part owner.task ≠ none := by decide +kernel

theorem witness_ScalarRegisterResults :
    let g := { owner with mode := 1#64 <<< 35 }
    Running (holding g) g ∧ g.mode.getLsbD 35 = true ∧ sreg g 0 = 0 ∧ (∀ f ∈ divisionForms, sreg g 7 ≠ 0) := by decide +kernel

theorem witness_LaneBlocksAndNop :
    let b : LaneBlock := ⟨0, 1, 0, [], 0x10000, 0⟩
    let g7 := { owner with queue := List.replicate 7 b }
    let g8 := { owner with queue := List.replicate 8 b }
    Running (holding g7) g7 ∧ g7.queue.length < 8 ∧ Running (holding g8) g8 ∧ 8 ≤ g8.queue.length := by decide +kernel

theorem witness_BranchAndJumpTargets : Running (holding owner) owner ∧ (sreg owner 2 + BitVec.ofInt 64 (4#14).toInt).toNat % 4 = 0 ∧
    (sreg owner 3 + BitVec.ofInt 64 (0x3FFF#14).toInt).toNat % 4 = 0 ∧ (sreg owner 3 + BitVec.ofInt 64 (0#14).toInt).toNat % 4 ≠ 0 := by
  decide +kernel

theorem witness_MaskResults : Running (holding owner) owner ∧ (61#6).toNat ≤ 61 ∧ 61 < (62#6).toNat ∧ 61 < (63#6).toNat := by decide +kernel

/-- R161: lanes 0 to 2 of a triple at s61, of which lane 1 is not live; `mffs` of an empty triple is 96. -/
theorem test_triples :
    let g := { owner with live := BitVec.allOnes 96 ^^^ 2#96 }
    let t := exec (.mset 61 0 8) (holding (regs [(8, 3)] g))
    shows t (fun t => ((group? t 1).map fun h => (sreg h 61, sreg h 62, sreg h 63)) == some (5, 0, 0)) = true ∧
    leaves (.mffs 9 20) owner 9 96 = true ∧ leaves (.mcnt 9 20) (regs [(20, 5), (21, 0x80000000), (22, 1)] owner) 9 4 = true ∧
    leaves (.many 9 19) (regs [(21, 0x100000000)] owner) 9 0 = true := by decide +kernel

/-! ### Scalar accesses -/

/-- The state with eight bytes at 0x70000. -/
def loaded : State :=
  { holding owner with mem := Sparse.setRange (holding owner).mem 0x70000 [0x80, 0x81, 0x82, 0x83, 0x84, 0x85, 0x86, 0x87] }

/-- What an instruction leaves in a scalar register of the group of `s`. -/
def leavesIn (s : State) (i : Instr) (d : Reg) (v : Word) : Bool :=
  shows (exec i s) fun t => ((group? t 1).map fun h => sreg h d) == some v

/-- R155, R156, R157, R162: little-endian loads, their extension, a load from scratch that reads zero, a misaligned load that
reads 0 and is recorded, stores of the low bytes, a store of zero bytes that leaves no trace in the list, and atomics. -/
theorem test_scalar_accesses :
    (∀ p ∈ ([(.ldI8 8 2 0, 0xFFFFFFFFFFFFFF80), (.ldN8 8 2 1, 0x81), (.ldI16 8 2 0, 0xFFFFFFFFFFFF8180), (.ldN16 8 2 2, 0x8382),
      (.ldI32 8 2 4, 0xFFFFFFFF87868584), (.ldN32 8 2 0, 0x83828180), (.ld64 8 2 0, 0x8786858483828180), (.ld64 8 3 0, 0),
      (.ld64 8 4 0, 0), (.amoAdd 8 2 5 2, 0x8786858483828180), (.amoCas 5 2 7 2, 0x8786858483828180)] : List (Instr × Word)),
      leavesIn loaded p.1 (if p.1 = .amoCas 5 2 7 2 then 5 else 8) p.2 = true) ∧
    (∀ p ∈ ([(.st8 2 5 0x3FFF, 0x6FFFF, [5, 0x80]), (.st16 2 5 0, 0x70000, [5, 0, 0x82]), (.st32 2 7 0, 0x70000, [0, 0, 0, 0, 0x84]),
      (.st64 2 7 8, 0x70007, [0x87, 0, 0, 0, 0, 0, 0, 0, 0x80, 0]), (.amoAdd 8 2 5 2, 0x70000, [0x85, 0x81]),
      (.amoMinn 8 2 5 2, 0x70000, [5, 0, 0, 0, 0, 0, 0, 0]), (.amoMin 8 2 5 2, 0x70000, [0x80]), (.amoCas 5 2 7 2, 0x70000, [0x80, 0x81])] :
        List (Instr × Nat × List Byte)),
      shows (exec p.1 loaded) (fun t => Sparse.getRange t.mem p.2.1 p.2.2.length == p.2.2) = true) ∧
    shows (exec (.ld64 8 3 0) loaded) (fun t => ((group? t 1).map fun h => h.pend) ==
      some ⟨[⟨0x70001, 0xFB, 0, 8, 0x14, 0⟩], 0, [loaded.nextId], 0, 0⟩) = true := by decide +kernel

/-- The state whose core 0 holds the line at 0x70000 with the byte 9 first. -/
def lined : State := { loaded with cache := [⟨0, 0, false, 0x70000, [(0, 9)], none⟩] }

/-- R263: a load takes what its core's load cache holds. -/
theorem test_held_line : leavesIn lined (.ld64 8 2 0) 8 9 = true := by decide +kernel

theorem witness_ScalarLoadResults :
    let ag := agentOf owner
    Running loaded owner ∧ (resolve loaded ag 0x70000 .load).2 = .ok (.mem 0x70000) ∧ cacheFind loaded ag.die ag.core false 0x70000 = none ∧
    (resolve loaded ag 0xFFFFF00000000000 .load).2 = .ok (.scratch 0 0) ∧ (cohort? loaded 0).isSome = true ∧
    (resolve loaded ag 0x0010000000000000 .load).2 = .fail 0x12 none ∧ 0x70001 % 8 ≠ 0 ∧ Running lined owner ∧
    (cacheFind lined ag.die ag.core false 0x70000).map (fun l => l.bytes) = some [(0, 9)] ∧
    (resolve lined ag 0x70000 .load).2 = .ok (.mem 0x70000) := by decide +kernel

/-- The state whose region watches eight bytes from 0x70004, whose virtual addresses begin at 0x70008. -/
def guarded : State := { loaded with regions := [{ placedRegion with watch := [⟨3, 3, 0x70008, 0x70004, 8⟩] }] }

/-- R271: the store is made, and leaves the group fault-pending with the virtual address of the first byte that is watched. -/
theorem test_watched_store :
    shows (exec (.st64 2 5 0) guarded) (fun t => ((group? t 1).map fun h => h.pend.entries) == some [⟨0x70008, 0, 1, 8, 0x21, 0⟩] &&
      Sparse.get t.mem 0x70000 == 5) = true := by decide +kernel

theorem witness_ScalarStoreEffects :
    Running loaded owner ∧ (resolve loaded (agentOf owner) 0x70000 .store).2 = .ok (.mem 0x70000) ∧ Unwatched loaded 0x70000 8 ∧
    (resolve loaded (agentOf owner) 0x0010000000000000 .store).2 = .fail 0x12 none ∧ 0x70001 % 2 ≠ 0 ∧
    Running guarded owner ∧ (resolve guarded (agentOf owner) 0x70000 .store).2 = .ok (.mem 0x70000) ∧
    watchHits guarded (writerOf owner 0) 0x70000 8 = [({ placedRegion with watch := [⟨3, 3, 0x70008, 0x70004, 8⟩] }, ⟨3, 3, 0x70008, 0x70004, 8⟩)] ∧
    placedRegion.part = owner.part ∧ placedRegion.id = owner.region ∧
    (resolve loaded (agentOf owner) 0xFFFFF00000000000 .store).2 = .ok (.scratch 0 0) ∧ (cohort? loaded 0).isSome = true := by decide +kernel

theorem witness_ScalarAtomicEffects :
    Running loaded owner ∧ (5#3).toNat ≤ 5 ∧ 5 < (6#3).toNat ∧ sreg owner 2 = 0x70000 ∧ Unwatched loaded 0x70000 8 ∧
    (resolve loaded (agentOf owner) 0x70000 .atomic).2 = .ok (.mem 0x70000) ∧ 0x70001 % 4 ≠ 0 ∧
    (resolve loaded (agentOf owner) 0xFFFFF00000000000 .atomic).2 = .ok (.scratch 0 0) ∧ (cohort? loaded 0).isSome = true ∧
    chipNoAtomic 0xFFFFF00000000000 = false ∧ chipNoAtomic 0x0010000000000000 = false ∧ chipNoAtomic 0xFFFFE00001000000 = true ∧
    (resolve loaded (agentOf owner) 0x0010000000000000 .atomic).2 = .fail 0x12 none := by decide +kernel

theorem witness_AddressMap :
    2 ^ 52 ≤ 0x0010000000000000 ∧ 0x0010000000000000 / 2 ^ 32 ≠ 0xFFFFF000 ∧ 0x0010000000000000 / 2 ^ 40 ≠ 0xFFFFE0 ∧ 0xFFFF < 0x10000 ∧
    70001 % 8 ≠ 0 := by decide +kernel

/-! ### Fences, waits, barriers, leaving -/

theorem witness_FenceEffects :
    let g := { owner with peers := [⟨7, 1, 3, 0, 8, .read, [], [], 0, none, [], 0, ⟨0, 0xFB, 0, 8, 0, 0⟩, none, 0, false⟩] }
    Running (holding owner) owner ∧ owner.queue = [] ∧ (5#6).toNat ≤ 5 ∧ 5 < (6#6).toNat ∧ peersDone owner = true ∧
    Running (holding g) g ∧ g.queue = [] ∧ peersDone g = false ∧ 4 ≤ (4#6).toNat := by decide +kernel

/-- The group, while another one waits for a peer's acknowledgement of a store. -/
def posted : State :=
  { base with nextId := 20, groups := [owner, { owner with gid := 9, peers :=
      [⟨7, 1, 3, 0, 8, .write, [], [], 0, none, [], 0, ⟨0, 0xFB, 1, 8, 0, 0⟩, none, 0, false⟩] }] }

theorem witness_FenceEffects_nothing_out : NothingOut (holding owner) owner := by decide +kernel

theorem witness_FenceEffects_release : Running posted owner ∧ ¬OthersOver posted owner := by decide +kernel

/-- R263: a fence at .grp keeps the core's lines, one at .die drops its data lines and a code fence its code lines. -/
theorem test_fences :
    let s := { holding owner with cache := [⟨0, 0, false, 0x70000, [], none⟩, ⟨0, 0, true, 0x10000, [], none⟩, ⟨0, 1, false, 0x70000, [], none⟩] }
    let kept (i : Instr) (l : List CacheLine) : Bool := shows (exec i s) fun t => t.cache == l
    kept (.fenceMem 0) s.cache = true ∧ kept (.fenceMem 2) (s.cache.drop 1) = true ∧ kept (.fenceCode 0) (s.cache.eraseIdx 1) = true ∧
    kept (.fenceXlat 2) s.cache = true := by decide +kernel

/-- A command and a copy of the group, not over yet. -/
def queued : Command := ⟨1, false, MatrixSet.entry, [], 1, .queued, [], []⟩
def issued : Copy := ⟨1, 1, ⟨8, 1, 0, 0, 0, 0, 0, 0⟩, ⟨128, [], false⟩, 0x70000, 0x80000, none, 0, 0, false, .issued, 0, false, none⟩

theorem witness_CompletionAndWordWaits :
    let bad := { owner with pend := ⟨[⟨0, 0xFB, 0, 8, 0x12, 0⟩], 0, [1], 0, 0⟩ }
    let peer := { owner with peers := [⟨7, 1, 3, 0, 8, .read, [], [], 0, none, [], 0, ⟨0, 0xFB, 0, 8, 0, 0⟩, none, 0, false⟩] }
    let busy := { owner with cmds := [queued], copies := [issued], cmdBatch := 1, copyBatch := 1 }
    let set := regs [(2, 0x70000), (5, 0x83828180)] owner
    Running (holding owner) owner ∧ peersDone owner = true ∧ owner.pend.entries = [] ∧
    Running (holding bad) bad ∧ peersDone bad = true ∧ bad.pend.entries ≠ [] ∧ Running (holding peer) peer ∧ peersDone peer = false ∧
    Running (holding busy) busy ∧ (∃ c ∈ busy.copies, batchCovered false busy.copyBatch 1 c.batch = true ∧ c.st = .issued) ∧
    (∃ c ∈ busy.cmds, batchCovered false busy.cmdBatch 1 c.batch = true ∧ c.st = .queued) ∧
    Running loaded owner ∧ 0x70000 % 4 = 0 ∧ (resolve loaded (agentOf owner) 0x70000 .home).2 = .ok (.mem 0x70000) ∧
    Running (putGroup loaded set) set ∧ Sparse.readLE (putGroup loaded set).mem 0x70000 4 = (sreg set 5).toNat % 2 ^ 32 ∧
    Sparse.readLE loaded.mem 0x70000 4 ≠ (sreg owner 5).toNat % 2 ^ 32 ∧ (5#3).toNat ≤ 5 ∧ 5 < (6#3).toNat := by decide +kernel

/-- R170: the word equals s5, so the wait retires; an unequal one sleeps on its line, and a store to the line wakes it. -/
theorem test_wwait :
    let set := regs [(2, 0x70000), (5, 0x83828180)] owner
    shows (exec (.wwait 2 0 0 2 5) (putGroup loaded set)) (fun t => ((group? t 1).map fun h => h.pc) == some 0x10004) = true ∧
    shows (exec (.wwait 2 0 0 2 5) loaded) (fun t => ((group? t 1).map fun h => (h.status, h.wait)) ==
      some (.waiting, .word (.mem 0x70000))) = true := by decide +kernel

theorem witness_BarrierEffects :
    let s (arrived : List (Nat × Nat)) (count : Nat) : State := { holding owner with
      cohorts := [⟨0, 1, 1, 0, 24576, [0], [], Sparse.set [] 15 (BitVec.ofNat 64 count), arrived⟩] }
    Running (s [] 0) owner ∧ owner.queue = [] ∧ peersDone owner = true ∧ owner.pend.entries = [] ∧ (15#6).toNat ≤ 15 ∧
    cohort? (s [] 0) owner.cohort ≠ none ∧ (sreg owner 0).toNat ≤ 1 ∧ 1 < (sreg owner 5).toNat ∧
    (cohort? (s [(15, 9)] 2) owner.cohort).map (fun k => (k.barArrived.filter fun x => x.1 == 15).map fun x => x.2) = some [9] ∧
    [9].length + 1 = (Sparse.get (Sparse.set [] 15 (BitVec.ofNat 64 2)) 15).toNat ∧ [9].length + 1 ≠ 3 ∧ owner.gid ∉ [9] ∧
    (group? (s [(15, 9)] 2) 9) = none := by decide +kernel

/-- The record that serves region 1 for any task of partition 1, with an owner's authority and a quantum of four (R82). -/
def record : Nat := 2 ^ 96 + 0xFFFFFFFF * 2 ^ 64 + 2 * 2 ^ 60 + 4 * 2 ^ 48 + 2 * 2 ^ 46 + 2 ^ 45

/-- The state with slot 0 of core 0 of die 0 armed for region 1 and die 0 leased to partition 1. -/
def armed (gs : List Group) : State :=
  { base with groups := gs, records := Sparse.set [] 0 (BitVec.ofNat 128 record), lease := Sparse.set leaseReset 0 2 }

/-- Another group of the same task on die 0's return list. -/
def waiting : Group := { owner with gid := 9, index := 1, status := .ready, readySeq := 5 }

theorem witness_LeavingAndYielding :
    let bad := { owner with pend := ⟨[⟨0, 0xFB, 0, 8, 0x12, 0⟩], 0, [1], 0, 0⟩ }
    let two := armed [owner, waiting]
    Running (holding owner) owner ∧ owner.queue = [] ∧ peersDone owner = true ∧ owner.pend.entries = [] ∧ owner.cmds = [] ∧ owner.copies = [] ∧
    (task? (holding owner) owner.part owner.task).isSome = true ∧ Running (holding bad) bad ∧ bad.pend.entries ≠ [] ∧
    (61#6).toNat ≤ 61 ∧ 61 < (62#6).toNat ∧ owner.status = .bound 0 0 0 ∧ rotate (holding owner) owner 0 0 0 = none ∧
    Running two owner ∧ (rotate two owner 0 0 0).isSome = true ∧ cmdsDone owner = true ∧ cmdsDone { owner with cmds := [queued] } = false := by
  decide +kernel

/-- R92, R173: with another group waiting, `yield` leaves the slot to it; alone, the group keeps the slot and goes on. -/
theorem test_yield :
    shows (exec .yield (armed [owner, waiting])) (fun t => ((group? t 1).map fun g => g.status, (group? t 9).map fun g => g.status) ==
      (some .ready, some (.bound 0 0 0))) = true ∧
    shows (exec .yield (armed [owner])) (fun t => ((group? t 1).map fun g => (g.status, g.pc)) == some (.bound 0 0 0, 0x10004)) = true ∧
    shows (exec .exit (armed [owner])) (fun t => ((group? t 1).map fun g => g.status) == some .ended) = true := by decide +kernel

/-! ### Traps and special registers -/

/-- The state with a handler entry at 0x71000 and a body buffer at 0x72000 in the group's region. -/
def handled (g : Group) : State :=
  { holding g with regions := [{ placedRegion with flags := 1, handler := 0x71000, bodyBuf := 0x72000 }] }

/-- The group trapped, with its body in the buffer. -/
def trapped : Group := { owner with status := .trapped, bodyState := .handling, body := List.replicate 512 1 }

theorem witness_TrapsAndReturn :
    Running (handled owner) owner ∧ owner.queue = [] ∧ group? (handled owner) owner.gid = some owner ∧ cmdsDone owner = true ∧
    peersDone owner = true ∧ (task? (handled owner) owner.part owner.task).map (fun k => k.handler) = some false ∧
    (domainOf (handled owner) owner.part owner.region).map (fun d => d.2) = some (0x72000, 0x71000) ∧
    (domainOf (holding owner) owner.part owner.region).map (fun d => d.2.2) = some 0 ∧
    cmdsDone { owner with cmds := [queued] } = false ∧
    group? (handled trapped) owner.gid = some trapped ∧ trapped.status = .trapped ∧ trapped.bodyState = .handling ∧
    bufferPlace (handled trapped) owner.part 0x72000 .load = some 0x72000 ∧ Sparse.readLE (handled trapped).mem 0x72000 8 = 0 ∧
    Sparse.readLE (Sparse.setRange (handled trapped).mem 0x72000 (List.replicate 8 0xFF)) 0x72000 8 = 2 ^ 64 - 1 ∧
    Sparse.readLE (Sparse.setRange (handled trapped).mem 0x72000 [1]) 0x72000 8 = 1 := by decide +kernel

/-- R373, R374: `trap` saves the group with its body for the handler, without one ends it; the disposition 0 lets the group go on at
its own program counter. -/
theorem test_trap :
    shows (exec (.trap 7) (handled owner)) (fun t => ((group? t 1).map fun g => (g.status, g.pc, g.bodyState)) ==
      some (.trapped, 0x10000, .handling)) = true ∧
    shows (exec (.trap 7) (holding owner)) (fun t => ((group? t 1).map fun g => g.status) == some .ended) = true ∧
    shows (exec (.trap 7) (handled owner)) (fun t => bytesToNat (Sparse.getRange t.mem 0x72010 8) == 0x10000 &&
      Sparse.get t.mem 0x72008 == 0x20) = true ∧
    shows (execHandlerDisposition 1 (handled trapped)) (fun t => ((group? t 1).map fun g => (g.status, g.pc, g.bodyState)) ==
      some (.ready, 0x10000, .none)) = true := by decide +kernel

theorem witness_SpecialRegisters :
    let g := regs [(8, 0x20), (9, 0x6), (10, 0x00000FFF00000000), (11, 0x100000000000)] owner
    Running (holding g) g ∧ g.queue = [] ∧ g.status = .bound 0 0 0 ∧ (0x01B ≤ (0x0FF#12).toNat ∧ (0x0FF#12).toNat < 0x100) ∧
    (0x200 ≤ (0x7FF#12).toNat ∧ (0x7FF#12).toNat < 0x800) ∧ 0x823 ≤ (0xFFF#12).toNat ∧ 0x800 ≤ (0x822#12).toNat ∧
    (0x822#12).toNat ≤ 0x822 ∧ g.auth ≠ 1 ∧
    ((sreg g 10).toNat < 2 ^ 44 ∧ ∀ k < 8, (sreg g 10).toNat / 2 ^ (4 * k) % 8 ≤ 5) ∧ ¬(sreg g 11).toNat < 2 ^ 44 ∧
    ¬(∀ k < 8, (sreg g 9).toNat / 2 ^ (4 * k) % 8 ≤ 5) ∧ (0x01A#12).toNat ≤ 0x01A ∧
    (task? (holding g) g.part g.task).isSome = true ∧ (cohort? (holding g) g.cohort).isSome = true ∧
    (region? (holding g) g.part g.region).isSome = true := by decide +kernel

/-- An operator's group whose s8 begins a pre-emption of its core's slots, s9 names a core that is not there, s10 has a
reserved bit set, and s11 a reserved half. -/
def ruler : Group := regs [(8, 0x1F), (9, 0xC00), (10, 0x8000), (11, 0x300000005)] { owner with auth := 1 }

theorem witness_SpecialRegisters_operator :
    let s := holding ruler
    let v (n : Reg) : Nat := (sreg ruler n).toNat
    Running s ruler ∧ ruler.queue = [] ∧ ruler.auth = 1 ∧ ruler.status = .bound 0 0 0 ∧
    (group? (commitRecord s 0 0 15 (v 8 + 2 ^ 64 * (Sparse.get s.staged (slotIx 0 0 15)).toNat)) ruler.gid).isSome = true ∧
    191 < v 9 / 2 ^ 4 % 2 ^ 8 ∧ v 10 / 2 ^ 4 % 2 ^ 8 ≤ 191 ∧ v 10 / 2 ^ 19 % 8 < 3 ∧ v 10 / 2 ^ 15 % 2 ≠ 0 ∧
    v 8 / 2 ^ 4 % 2 ^ 8 ≤ 191 ∧ v 8 / 2 ^ 19 % 8 < 3 ∧ v 8 / 2 ^ 15 % 2 = 0 ∧ v 8 / 2 ^ 25 % 2 ^ 7 = 0 ∧ preBusy s 0 (v 8) = false ∧
    preBusy { s with preempts := [⟨5, 0, 0x1F, 0, [⟨0, false, [], [], [], false, false, false, false⟩]⟩] } 0 (v 8) = true := by decide +kernel

/-- R376, R8: an operator's `swr` of 0x821 writes the lower half; an owner's is refused. -/
theorem test_operator_registers :
    shows (exec (.swr 11 0x821) (holding ruler)) (fun t => Sparse.get t.pre821 0 == 5) = true ∧
    shows (exec (.swr 5 0x821) (holding owner)) (fun t => Sparse.get t.pre821 0 == 0 &&
      ((group? t 1).map fun g => g.pend.entries.map fun e => e.cause) == some [0x13]) = true ∧
    becomes (exec (.swr 9 0x820) (holding ruler)) (trapScalar (holding ruler) ruler 1) = true := by decide +kernel

/-- R146, R175: reads of a group's own registers, a write of the mode register and one that is refused. -/
theorem test_special_registers :
    (∀ p ∈ ([(.srd 8 0x006, 96), (.srd 8 0x00B, 1), (.srd 8 0x00C, 6), (.srd 8 0x00D, 0xFFFFFFFF), (.srd 8 0x011, 0xFFFFF00000000000),
      (.srd 8 0x007, 0), (.srd 8 0x800, 0)] : List (Instr × Word)), leaves p.1 owner 8 p.2 = true) ∧
    shows (exec (.swr 5 0x010) (holding owner)) (fun t => ((group? t 1).map fun g => g.mode) == some 5) = true ∧
    becomes (exec (.swr 2 0x010) (holding (regs [(2, 6)] owner))) (trapScalar (holding (regs [(2, 6)] owner)) (regs [(2, 6)] owner) 2) = true ∧
    shows (exec (.swr 5 0x00A) (holding owner)) (fun t => ((group? t 1).map fun g => (g.pend.entries.map fun e => e.cause)) == some [0x13])
      = true := by decide +kernel

/-! ### The Creamline, the engines, the Churn and the operator's functions -/

theorem witness_CreamlineInstructions :
    let two (s : State) : State := { s with fabric := { s.fabric with size := 2 } }
    let some_ := { holding owner with fabric := { Fabric.reset with applied := 5 } }
    Running (holding owner) owner ∧ owner.queue = [] ∧ (two (holding owner)).fabric.size > 1 ∧ Running (two (holding owner)) owner ∧
    (holding owner).fabric.size ≤ 1 ∧ (holding owner).fabric.queue = [] ∧ (holding owner).fabric.sent = [] ∧ isBound owner = true ∧
    (sreg owner 0).toNat = 0 ∧ Running some_ owner ∧ 0 < (sreg owner 5).toNat ∧ (sreg owner 5).toNat ≤ some_.fabric.applied ∧
    (holding owner).fabric.applied < (sreg owner 5).toNat ∧ (15#6).toNat ≤ 15 ∧ 15 < (16#6).toNat ∧ peersDone owner = true ∧
    owner.pend.entries = [] ∧ (holding owner).fabric.barriers = [] ∧ (sreg owner 0).toNat ≤ 1 := by decide +kernel

theorem witness_CreamlineInstructions_alone : NothingOut (holding owner) owner := by decide +kernel

theorem witness_CreamlineInstructions_held : Running posted owner ∧ posted.fabric.size ≤ 1 ∧ ¬OthersOver posted owner := by decide +kernel

theorem witness_MatrixSettingsAndIssue :
    let full := { owner with cmds := List.replicate 16 queued }
    let int := { owner with mset := { MatrixSet.entry with tileP := 4 } }
    let bad := { owner with mset := { MatrixSet.entry with grp := 1 } }
    Running (holding owner) owner ∧ owner.queue = [] ∧ pairOf (0xFE % 16) (0xFE / 16 % 16) ≠ none ∧ 0xFE < 256 ∧
    pairOf (0x4F % 16) (0x4F / 16 % 16) = none ∧ (sreg owner 2).toNat % 64 = 0 ∧ (sreg owner 3).toNat % 64 ≠ 0 ∧ 3 < 4 ∧
    (sreg owner 0).toNat % 64 = 0 ∧ 4 ≤ (sreg owner 5).toNat ∧ 127 < 128 ∧
    pairOf (0x1FE % 16) (0x1FE / 16 % 16) ≠ none ∧ 256 ≤ 0x1FE ∧
    (let u : Nat := 0xBFBF; u % 256 ≤ u / 256 % 256 ∧ u / 256 % 256 ≤ 191 ∧ u < 2 ^ 18) ∧
    (let u : Nat := 0x102; u / 256 % 256 < u % 256) ∧ 191 < 0xC0BF / 256 % 256 ∧
    (let u : Nat := 0x4BFBF; u % 256 ≤ u / 256 % 256 ∧ u / 256 % 256 ≤ 191 ∧ 2 ^ 18 ≤ u) ∧
    (owner.cmds.filter cmdPending).length < 16 ∧ mmaCheck owner = none ∧ Running (holding int) int ∧ scaCheck int = none ∧
    predOk owner 0 = true ∧ Running (holding full) full ∧ 16 ≤ (full.cmds.filter cmdPending).length ∧
    Running (holding bad) bad ∧ (bad.cmds.filter cmdPending).length < 16 ∧ mmaCheck bad = some 0x01 ∧ scaCheck bad = some 0x01 ∧
    ¬predOk owner 5 = true ∧ ¬predOk int 5 = true := by decide +kernel

/-- R120, R233, R243: a range of cores that ends before it begins traps 0x01, a reserved bit 0x02, a predecessor never issued
0x01. -/
theorem test_matrix_traps :
    let g := regs [(8, 0x102), (9, 0x4BFBF), (10, 0x40102), (11, 0x1FE), (5, 5)] { owner with mset := { MatrixSet.entry with tileP := 4 } }
    let traps (i : Instr) (c : Nat) : Bool := becomes (exec i (holding g)) (trapScalar (holding g) g c)
    traps (.xmMcast 0 8 0) 1 = true ∧ traps (.xmMcast 0 9 0) 2 = true ∧ traps (.xmMcast 0 10 0) 1 = true ∧ traps (.xmFmt 0 11 0) 2 = true ∧
    traps (.xmSca 0 5 0 0) 1 = true := by decide +kernel

theorem witness_CopySettingsAndIssue :
    let shaped := { owner with cset := { CopySet.entry with rowBytes := 8, rows := 1 } }
    let full := { shaped with copies := List.replicate 32 issued }
    Running (holding owner) owner ∧ owner.queue = [] ∧ (1 ≤ 1048576 ∧ 1048576 ≤ 1048576 ∧ 1 ≤ 65536 ∧ 65536 ≤ 65536) ∧
    ¬(1 ≤ (sreg owner 0).toNat) ∧ (sreg owner 2).toNat % 8 = 0 ∧ (sreg owner 3).toNat % 8 ≠ 0 ∧
    Running (holding shaped) shaped ∧ (shaped.copies.filter fun c => c.st == .issued || c.st == .started).length < 32 ∧
    (shaped.cset.rowBytes ≠ 0 ∧ shaped.cset.rows ≠ 0) ∧ shaped.cset.permMode = 0 ∧ Running (holding full) full ∧
    32 ≤ (full.copies.filter fun c => c.st == .issued || c.st == .started).length ∧ ¬(owner.cset.rowBytes ≠ 0 ∧ owner.cset.rows ≠ 0) ∧
    sreg owner 0 = 0 ∧ sreg owner 5 ≠ 0 := by decide +kernel

/-- An expert table with two experts, each with one replica on die 0, at version 2. -/
def experts : Table :=
  { part := 1, area := 0x200000, pages := [], experts := 2, rowBytes := 64, slots := 2, arenas := List.replicate 8 (0, 0), version := 2,
    versions := [(2, [[⟨0x80000, 1, 0⟩], [⟨0xA0000, 1, 0⟩]]), (1, [[⟨0x80000, 1, 0⟩], [⟨0xA0000, 1, 0⟩]])],
    dieVersion := Sparse.set [] 0 2, heat := [], lastHeat := [], uses := [], switch := none, forwards := [], grads := [], submitted := [] }

/-- The state with the table registered, and a gradient's descriptor at 0x70000: version 2, expert 1, replica 0, one element. -/
def tabled (g : Group) : State :=
  { holding g with
    tables := [experts]
    mem := Sparse.setRange (holding g).mem 0x70000 ([2, 0, 0, 0, 1, 0, 0, 0] ++ natToBytes 8 0x70100 ++ natToBytes 8 1 ++ natToBytes 8 0x70200) }

theorem witness_ChurnFunctions :
    let pinned := { owner with pinned := 2 }
    let busy := { pinned with copies := [issued] }
    let r := dataPieces owner 8 8 (tabled owner) 0x70000
    let bs := match r.2.2 with | .ok bs => bs | _ => []
    Running (holding owner) owner ∧ owner.queue = [] ∧ owner.status = .bound 0 0 0 ∧ table? (holding owner) 1 = none ∧
    Running (tabled owner) owner ∧ table? (tabled owner) 1 = some experts ∧ 1 < experts.experts ∧ (7 : Nat) < 8 ∧ owner.pinned = 0 ∧
    Running (tabled pinned) pinned ∧ (∃ x ∈ (tabled pinned).groups, x.part = pinned.part ∧ x.pinned ≠ 0) ∧ peersDone owner = true ∧
    (∀ x ∈ (tabled owner).groups, x.part = owner.part → x.pinned = 0) ∧ experts.forwards = [] ∧ experts.grads = [] ∧ experts.uses = [] ∧
    Running (tabled busy) busy ∧ ¬(∀ c ∈ busy.copies, c.st ≠ .issued ∧ c.st ≠ .started) ∧
    (∀ p ∈ owner.peers, p.reply ≠ none) ∧ (sreg owner 2).toNat % 8 = 0 ∧ r.2.1 = [] ∧ bs.length = 64 ∧ gradOk bs = true ∧
    table? r.1 owner.part = some experts ∧ bytesAt bs 6 1 < (replicasOf experts (bytesAt bs 0 4) (bytesAt bs 4 2)).length ∧
    experts.submitted.contains (bytesAt bs 0 4, bytesAt bs 4 2, bytesAt bs 6 1) = false ∧ (mergesOpen r.1).length < 64 ∧
    group? r.1 owner.gid ≠ none := by decide +kernel

/-- The operator's group in the place of `owner`, with pages 1 to 16 the operator's and page 17 that of partition 5. -/
def operator : Group := { owner with auth := 1, part := 0 }
def ruling (p : Part) (desc : List Byte) : State :=
  { holding operator with
    parts := [{ Part.operator with stage1 := 0x20000, stage2 := 0x40000 }, p]
    owners := Sparse.setRange [] 1 (List.replicate 16 0x80 ++ [0x85])
    regions := [{ placedRegion with part := 0 }], tasks := [{ placedTask with part := 0 }]
    mem := Sparse.setRange (holding owner).mem 0x70000 desc }
def sealing : Part := { Part.empty 5 .sealing with stage2 := 0x40000 }

/-- The descriptors of `xo.seal` for page 17 and of `xo.ctx` for the queue state (R383). -/
def sealPage : List Byte :=
  [5, 1, 0, 0, 1, 0, 0, 0] ++ natToBytes 8 17 ++ natToBytes 8 0x80000 ++ natToBytes 8 0x90000 ++ natToBytes 8 7 ++ natToBytes 24 0
def sealState : List Byte :=
  [5, 4, 0, 0, 1, 0, 0, 0] ++ natToBytes 8 0 ++ natToBytes 8 0x80000 ++ natToBytes 8 0x90000 ++ natToBytes 8 7 ++ natToBytes 24 0

theorem witness_OperatorFunctions :
    let s := ruling sealing sealPage
    let t := ruling { sealing with stopped := true } sealState
    let r := dataPieces operator 64 1 s 0x70000
    let q := dataPieces operator 64 1 t 0x70000
    Running (holding owner) owner ∧ owner.auth ≠ 1 ∧ Running s operator ∧ operator.queue = [] ∧ operator.auth = 1 ∧
    (sreg operator 5).toNat % 64 ≠ 0 ∧ (sreg operator 0).toNat % 64 = 0 ∧ 64 ≤ (sreg operator 2).toNat ∧ (sreg operator 5).toNat < 64 ∧
    part? s 5 = some sealing ∧ sealing.st = .sealing ∧ gpaOwned s sealing 17 = true ∧ operator.wait = .none ∧
    (sreg operator 2).toNat % 64 = 0 ∧ r.2.1 = [] ∧
    (match r.2.2 with | .ok bs => bs == sealPage && sealDescOk false bs && bytesAt bs 0 1 == 5 | _ => false) = true ∧
    (match q.2.2 with | .ok bs => bs == sealState && sealDescOk true bs && bytesAt bs 1 1 == 4 | _ => false) = true ∧
    group? r.1 1 ≠ none ∧ (part? q.1 5).map (fun p => p.stopped) = some true ∧ sealing.stopped = false ∧ sealing.stopping = false ∧
    table? s 5 = none ∧ Running t operator := by decide +kernel

/-! ### Lane words -/

/-- A group whose next word is a lane word: 96 live lanes, every vector register 7 in every lane, tiles of zeros. -/
def laner : Group :=
  { owner with queue := [⟨0, 1, 0, owner.scalars, 0x10000, 0⟩], vregs := List.replicate 128 ⟨.live, List.replicate 96 7⟩ }

/-- A word of type `t` with destination v8 and sources v2, v4 and v6, of which it reads the first `n`. -/
def word (t : DType) (n : Nat) : LaneOps :=
  { bare with dt := t, vd := 8, a := ⟨.vector, if 0 < n then 2 else 0, false⟩, b := ⟨.vector, if 1 < n then 4 else 0, false⟩,
              c := ⟨.vector, if 2 < n then 6 else 0, false⟩ }

/-- The uses of a word whose destination and first `n` sources are of its type. -/
def uses (t : DType) (n : Nat) : RegUses :=
  ⟨if 0 < n then useOf t else useNone, if 1 < n then useOf t else useNone, if 2 < n then useOf t else useNone, useOf t⟩

theorem witness_LaneIntegerResults :
    (∀ f ∈ laneBinaryForms, ∀ t ∈ [if f.2.1 = 0x3D then DType.f32 else .i32, if f.2.1 = 0x3D then .f64 else .n64],
      LaneReady (holding laner) laner f.2.1 (word t 2) (uses t 2) noTiles) ∧
    (∀ f ∈ laneUnaryForms bare, ∀ t ∈ [if 0x3B ≤ f.2.1 ∧ f.2.1 ≤ 0x3F then DType.f64 else .i8],
      LaneReady (holding laner) laner f.2.1 (word t 1) (uses t 1) noTiles) ∧
    LaneReady (holding laner) laner 0x04 (word .i32 3) (uses .i32 3) noTiles ∧
    LaneReady (holding laner) laner 0x14 { word .i32 2 with imm := 61 } (uses .i32 2) noTiles := by decide +kernel

theorem witness_LaneComparisonResults :
    let w (t : DType) (n k : Nat) : LaneOps := { word t n with vd := 61, imm := BitVec.ofNat 21 k }
    LaneReady (holding laner) laner 0x15 (w .i32 2 13) ⟨useOf .i32, useOf .i32, useNone, useNone⟩ noTiles ∧
    LaneReady (holding laner) laner 0x3E (w .f64 2 15) ⟨useOf .f64, useOf .f64, useNone, useNone⟩ noTiles ∧
    LaneReady (holding laner) laner 0x75 (w .n8 1 0) ⟨useOf .n8, useNone, useNone, useNone⟩ noTiles := by decide +kernel

theorem witness_LaneFloatResults :
    (∀ f ∈ floatBinaryForms, LaneReady (holding laner) laner f.2.1 { word .f32 2 with rs := .sto } (uses .f32 2) noTiles) ∧
    (∀ f ∈ fusedForms, LaneReady (holding laner) laner f.2.1 { word .f64 3 with rs := .rup } (uses .f64 3) noTiles) ∧
    (∀ f ∈ minMaxForms, LaneReady (holding laner) laner f.2.1 (word .bf16 2) (uses .bf16 2) noTiles) ∧
    (∀ f ∈ floatUnaryForms, LaneReady (holding laner) laner f.2.1 (word .f16 1) (uses .f16 1) noTiles) ∧
    exceptionCause (1#64 <<< 35) 2 ≠ none := by decide +kernel

theorem witness_LaneConversionResults :
    let s := holding laner
    LaneReady s laner 0x60 { word .f32 1 with imm := 6, a := ⟨.vector, 2, true⟩ } ⟨useOf .i64, useNone, useNone, useOf .f32⟩ noTiles ∧
    (∀ f ∈ [(0x61, DType.f16, 2), (0x62, .e4m3, 4), (0x63, .i4, 8)], LaneReady s laner f.1 { word f.2.1 2 with imm := 10 }
      ⟨useMany f.2.2, useOf .f32, useNone, useOf .i32⟩ noTiles) ∧
    (∀ f ∈ [(0x64, DType.f16, 2), (0x65, .e5m2, 4)], LaneReady s laner f.1 (word f.2.1 2)
      ⟨useOf .i32, useOf .f32, useNone, useMany f.2.2⟩ noTiles) ∧
    (∀ f ∈ [(0x64, DType.i16, 2), (0x65, .n8, 4), (0x66, .n4, 8)], LaneReady s laner f.1 (word f.2.1 3)
      ⟨useOf .i32, useOf .f32, useOf .i32, useMany f.2.2⟩ noTiles) ∧
    LaneReady s laner 0x67 (word .n4 3) ⟨useMany 8, useOf .f32, useOf .i32, useOf .i32⟩ noTiles ∧
    LaneReady s laner 0x67 (word .n8 3) ⟨useMany 4, useOf .f32, useOf .i32, useOf .i32⟩ noTiles := by decide +kernel

theorem witness_LaneCrossResults :
    let s := holding laner
    LaneReady s laner 0x70 (word .i64 2) ⟨useOf .i64, useIndex .i64, useNone, useOf .i64⟩ noTiles ∧
    LaneReady s laner 0x71 { word .i32 1 with b := ⟨.imm, 0, false⟩, imm := 95 } (uses .i32 1) noTiles ∧
    LaneReady s laner 0x74 { word .f32 1 with imm := 3 } (uses .f32 1) noTiles ∧
    LaneReady s laner 0x76 { word .i32 1 with imm := 61 } (uses .i32 1) noTiles ∧
    LaneReady s laner 0x77 (word .n64 1) (uses .n64 1) noTiles ∧
    LaneReady s laner 0x78 { word .n32 0 with imm := 3 } (uses .n32 0) noTiles := by decide +kernel

theorem witness_LaneReductionResults :
    let s := holding laner
    LaneReady s laner 0x72 { word .f64 1 with imm := 2 } (uses .f64 1) noTiles ∧ (2#21).toNat.testBit 4 = false ∧
    LaneReady s laner 0x72 { word .i32 1 with imm := 0x15 } ⟨useOf .i32, useNone, useNone, useNone⟩ noTiles ∧
    (0x15#21).toNat.testBit 4 = true ∧ LaneReady s laner 0x73 { word .f32 1 with imm := 8 } (uses .f32 1) noTiles := by decide +kernel

theorem witness_LaneChecksTrap :
    laneParts (.vadd { bare with dt := .f32 }) = some (0x00, { bare with dt := .f32 }) ∧ Running (holding laner) laner ∧
    laneCheck (rawLane 0x00 { bare with dt := .f32 }) = some .notAllowed ∧ laneCheck (rawLane 0x00 { bare with imm := 1 }) = some .reserved ∧
    (∀ f ∈ laneBinaryForms, ∀ t ∈ [if f.2.1 = 0x3D then DType.f64 else .i64],
      laneCheck (rawLane f.2.1 { word t 2 with vd := 9 }) = none ∧
      regCheck laner { word t 2 with vd := 9 } (uses t 2) noTiles = some 0x0B ∧
      regCheck { laner with vcount := 8 } (word t 2) (uses t 2) noTiles = some 0x01 ∧
      regCheck { laner with vregs := List.replicate 128 ⟨.dead, []⟩ } (word t 2) (uses t 2) noTiles = some 0x03) := by decide +kernel

/-- Values by R209 to R229 in lane 5 of v8, where v2, v4 and v6 hold 7 in every lane. -/
theorem test_lane_values :
    ∀ p ∈ ([(.vadd { word .i8 2 with imm := 0 }, 0x0000000E), (.vsub (word .i32 2), 0), (.vmul (word .n16 2), 0x00000031),
      (.vmulh (word .i32 2), 0), (.vmad (word .i32 3), 56), (.vneg (word .i8 1), 0x000000F9), (.vnot (word .n32 1), 0xFFFFFFF8),
      (.vshl (word .i32 2), 896), (.vclz (word .i32 1), 29), (.vpop (word .i32 1), 3), (.vbrev (word .i32 1), 0xE0000000),
      (.vlaneid { word .n32 0 with imm := 0 }, 5), (.vbcast { word .i32 1 with b := ⟨.imm, 0, false⟩, imm := 95 }, 7),
      (.vred { word .i32 1 with imm := 0 }, 672), (.vscan { word .i32 1 with imm := 0 }, 42), (.vscan { word .i32 1 with imm := 8 }, 35),
      (.vmov { word .i32 1 with a := ⟨.special, 0, false⟩ }, 5), (.vmatch { word .i32 1 with imm := 2 }, 5),
      (.vfadd { word .f32 2 with a := ⟨.imm, 0, false⟩, b := ⟨.imm, 0, false⟩, imm := 0x7F000 }, 0x40000000),
      (.vcvt { word .f32 1 with imm := 4 }, 0x40E00000), (.vgath (word .i32 2), 7)] : List (Instr × Word32)),
    shows (exec p.1 (holding laner)) (fun t => ((group? t 1).map fun g => ((g.vregs.getD 8 ⟨.dead, []⟩).lanes.getD 5 0)) == some p.2) = true := by
  decide +kernel

/-- R196: the reduction and the scan of one lane that holds a signalling NaN deliver the default NaN, and raise invalid (mode
bit 39). -/
theorem test_one_lane_nan :
    let one : Sparse 64 := Sparse.set (Sparse.set (Sparse.set owner.scalars 61 1) 62 0) 63 0
    let g := { laner with scalars := one, queue := [⟨0, 1, 0, one, 0x10000, 0⟩], vregs := List.replicate 128 ⟨.live, List.replicate 96 0xFF800001⟩ }
    ∀ i ∈ [Instr.vred (word .f32 1), .vscan (word .f32 1)], shows (exec i (holding g)) (fun t => ((group? t 1).map fun g =>
      ((g.vregs.getD 8 ⟨.dead, []⟩).lanes.getD 0 0, g.mode)) == some ((0x7FC00000 : Word32), (0x8000000000 : Word))) = true := by decide +kernel

/-- Three lanes' load, store and atomic of the dwords from 0x70000 on; the base is s2, with a displacement and a scaled offset. -/
theorem witness_lane_accesses :
    let few : Sparse 64 := Sparse.set (Sparse.set (Sparse.set owner.scalars 61 7) 62 0) 63 0
    let laner : Group := { laner with scalars := few, queue := [⟨0, 1, 0, few, 0x10000, 0⟩] }
    let s := { holding laner with mem := Sparse.setRange (holding laner).mem 0x70000 (List.replicate 400 1) }
    let at_ (w : LaneOps) : LaneOps := { w with a := ⟨.scalar, 2, false⟩ }
    let strided (w : LaneOps) : LaneOps := { w with a := ⟨.scalar, 2, false⟩, b := ⟨.scalar, 5, false⟩ }
    let c := laneCtx laner
    (∀ f ∈ laneLoadForms bare, LaneReady s laner f.2.1
      (if f.2.1 = 0x90 then at_ (word .i32 2) else if f.2.1 = 0x92 then strided (word .i32 0) else word .i32 2) f.2.2.1 noTiles) ∧
    (∀ f ∈ laneStoreForms bare, LaneReady s laner f.2.1
      { (if f.2.1 = 0x91 then at_ (word .i32 3) else if f.2.1 = 0x93 then strided { word .i32 3 with b := bare.b } else word .i32 3) with vd := 0 }
        f.2.2.1 noTiles) ∧
    (∀ f ∈ laneAmoForms bare, LaneReady s laner f.2.1 (if f.2.1 = 0x96 then at_ (word .i32 2) else word .i32 2) f.2.2.1 noTiles) ∧
    LaneReady s laner 0x98 { at_ (word .i32 2) with vd := 0 } ⟨⟨2, true⟩, useIndex .i32, useNone, useNone⟩ noTiles ∧
    (∀ acc ∈ [Acc.load, .store], ∀ w ∈ [{ at_ (word .i32 2) with imm := 1 <<< 5 }, { strided (word .i32 0) with imm := 0xFFFF <<< 5 }],
      ∀ r ∈ (resolveLanes (fun s x => resolveAligned s (agentOf laner) x 4 acc) s (c.lanes.map fun i => (i, addrStride c w i))).2,
        foundHere s r.2.2 = true ∧ foundWritable s 4 r.2.2 = true) ∧
    (let w := at_ (word .i32 2)
     let rs := (resolveLanes (fun s x => resolveAtomic s (agentOf laner) x 4) s (c.lanes.map fun i => (i, addrAmo c w i))).2
     (∀ r ∈ rs, foundWritable s 4 r.2.2 = true) ∧ (∀ r ∈ rs, ∀ q ∈ rs, r.2.1 = q.2.1 → r.2.2 = q.2.2) ∧
     (∀ r ∈ rs, ∀ q ∈ rs, ¬r.2.1 ≠ q.2.1)) := by decide +kernel

/-- R204, R283: 96 lanes add 7 to one word; lane 5 fetches what five of them leave there, and the place holds the sum of all. -/
theorem test_lane_atomic :
    let w := { word .i32 2 with a := ⟨.scalar, 2, false⟩ }
    shows (exec (.vamo w) (holding laner)) (fun t => ((group? t 1).map fun g => ((g.vregs.getD 8 ⟨.dead, []⟩).lanes.getD 5 0)) == some 35 &&
      Sparse.readLE t.mem 0x70000 4 == 672) = true := by decide +kernel

theorem witness_PermutationResults :
    let q (n : Nat) : LaneOps := { word .n8 n with vd := 15 }
    let id128 : List Word32 := (List.range 32).map fun l => BitVec.ofNat 32 (4 * l + 256 * (4 * l + 1) + 65536 * (4 * l + 2) + 2 ^ 24 * (4 * l + 3))
    let scalars : Sparse 64 := Sparse.set (Sparse.set owner.scalars 9 128) 10 129
    let g := { laner with queue := [⟨0, 1, 0, scalars, 0x10000, 0⟩], vregs := List.replicate 4 ⟨.live, id128⟩ }
    let c := laneCtx g
    let b (r : Nat) : LaneSrc := ⟨.scalar, BitVec.ofNat 7 r, false⟩
    let one : RegUses := ⟨useOf .n8, useNone, useNone, useNone⟩
    let none_ : RegUses := ⟨useNone, useNone, useNone, useNone⟩
    let vec (w : LaneOps) (i : Nat) : Nat := srcA c w .n32 (i / 4) / 2 ^ (8 * (i % 4)) % 256
    let solving := { laner with perms := listSet laner.perms 3 { permOf laner 3 with solving := true } }
    LaneReady (holding g) g 0xB0 { q 1 with b := b 9 } one noTiles ∧ qSize c (b 9) = 128 ∧ (∀ j < 128, vec (q 1) j = j) ∧
    LaneReady (holding laner) laner 0xB0 { q 1 with b := b 5 } one noTiles ∧ qSize (laneCtx laner) (b 5) = 5 ∧
    (∀ i < 5, srcA (laneCtx laner) (q 1) .n32 (i / 4) / 2 ^ (8 * (i % 4)) % 256 ≠ 1) ∧ qSize c (b 10) = 129 ∧
    LaneReady (holding g) g 0xB1 { q 1 with b := b 10 } one noTiles ∧
    LaneReady (holding laner) laner 0xB2 (word .n8 0) (uses .n8 0) noTiles ∧ LaneReady (holding g) g 0xB3 { q 0 with a := b 9 } none_ noTiles ∧
    LaneReady (holding g) g 0xB3 { q 0 with a := b 10 } none_ noTiles ∧ LaneReady (holding g) g 0xB4 { q 0 with imm := 0xFF } none_ noTiles ∧
    LaneReady (holding g) g 0xB5 { q 0 with imm := 0xF } none_ noTiles ∧ LaneReady (holding g) g 0xB6 { q 0 with a := b 9 } none_ noTiles ∧
    LaneReady (holding g) g 0xB7 { q 0 with a := b 9 } none_ noTiles ∧ LaneReady (holding g) g 0xB8 { q 0 with imm := 0x400 } none_ noTiles ∧
    LaneReady (holding laner) laner 0xB9 { word .i32 1 with imm := 3 } (uses .i32 1) noTiles ∧ (permOf laner 3).solving = false ∧
    LaneReady (holding solving) solving 0xB9 { word .i32 1 with imm := 3 } (uses .i32 1) noTiles ∧ (permOf solving 3).solving = true := by
  decide +kernel

theorem witness_TileResults :
    let rd := word .f64 1
    let wr := { word .i32 2 with vd := 0, imm := 7 }
    let pk := { word .f64 0 with vd := 9, imm := 6 }
    let un (r : Nat) : LaneOps := { bare with a := ⟨.scalar, BitVec.ofNat 7 r, false⟩ }
    let s := holding laner
    let rich : State := { s with regions := [{ placedRegion with parkCap := 8 }], parks := [⟨5, 1, 1, [[]]⟩, ⟨8, 1, 1, [[], []]⟩] }
    let full : State := { s with regions := [{ placedRegion with parkCap := 8 }], parks := [⟨5, 2, 1, List.replicate 4096 []⟩] }
    let busy := { laner with cmds := [queued] }
    let none_ : RegUses := ⟨useNone, useNone, useNone, useNone⟩
    let caps (s : State) (n : Nat) : Bool := withinCaps (chain s 1 1) (fun r => r.parked) (fun r => r.parkCap) n
    LaneReady s laner 0xC0 rd ⟨useIndex .f64, useNone, useNone, useOf .f64⟩ (tilesOf rd) ∧ tileBusy laner (tileNumbers rd) false = false ∧
    LaneReady s laner 0xC1 wr ⟨useOf .i32, useIndex .i32, useNone, useNone⟩ (tilesOf wr) ∧ tileBusy laner (tileNumbers wr) true = false ∧
    LaneReady (holding busy) busy 0xC1 { wr with imm := 0 } ⟨useOf .i32, useIndex .i32, useNone, useNone⟩ (tilesOf { wr with imm := 0 }) ∧
    tileBusy busy [0] true = true ∧ LaneReady s laner 0xC2 pk none_ (tilesOf pk) ∧ tileNumbers pk = [6, 7] ∧ caps s 2 = false ∧
    caps rich 2 = true ∧ (rich.parks.map fun p => p.tiles.length).sum + 2 ≤ 4096 ∧ (∀ p ∈ rich.parks, 1 ≤ p.tiles.length) ∧
    LaneReady rich laner 0xC2 pk none_ (tilesOf pk) ∧ LaneReady full laner 0xC2 pk none_ (tilesOf pk) ∧ caps full 2 = true ∧
    4096 < (full.parks.map fun p => p.tiles.length).sum + 2 ∧ LaneReady rich laner 0xC3 (un 5) none_ (tilesOf (un 5)) ∧
    (rich.parks.find? fun p => p.handle == 5 && p.part == 1 && p.region == 1).map (fun p => p.tiles.length) = some (tileNumbers (un 5)).length ∧
    (rich.parks.find? fun p => p.handle == 0 && p.part == 1 && p.region == 1) = none ∧
    (rich.parks.find? fun p => p.handle == 8 && p.part == 1 && p.region == 1).map (fun p => p.tiles.length) ≠ some (tileNumbers (un 5)).length := by
  decide +kernel

/-! ### Steps of a group's engines -/

/-- A scale-and-accumulate whose parameters lie in scratch, and which has read the scales of its one group of weights. -/
def scaling : Command := { queued with scale := true, st := .started, set := { MatrixSet.entry with param := 0xFFFFF00000000000, tileP := 4 } }
def scaled : Command := { scaling with rows := [List.replicate 128 0], faults := [⟨0, 0xFD, 0, 64, 0x12, 0⟩] }

theorem witness_MatrixSteps :
    let tops (c : Command) : Group := { owner with cmds := [c], tiles := List.replicate 8 [] }
    let lost := { queued with id := 2, preds := [1] }
    let fed : Group := { owner with cmds := [{ queued with st := .faulted }, lost] }
    let ready := tops { scaling with st := .queued }
    group? (holding ready) 1 = some ready ∧ (ready.cmds.find? fun c => c.id == 1) = some { scaling with st := .queued } ∧
    ({ scaling with st := .queued } : Command).preds.any (predPending ready) = false ∧
    ({ scaling with st := .queued } : Command).preds.any (predFailed ready) = false ∧ tileWait ready { scaling with st := .queued } = false ∧
    (∀ h ∈ (holding ready).groups, h.gid = 1) ∧
    (fed.cmds.find? fun c => c.id == 2) = some lost ∧ lost.preds.any (predPending fed) = false ∧ lost.preds.any (predFailed fed) = true ∧
    group? (holding (tops scaling)) 1 = some (tops scaling) ∧ scaling.rows.length < cmdRowCount scaling ∧
    (operandBytes (holding (tops scaling)) (tops scaling) (cmdRow scaling 0).1 (cmdRow scaling 0).2).2 = none ∧
    group? (holding (tops scaled)) 1 = some (tops scaled) ∧ cmdRowCount scaled ≤ scaled.rows.length ∧ scaled.faults ≠ [] := by decide +kernel

/-- R240, R243: the row of scales is read; then the command writes its tile, and its failed row is pending. -/
theorem test_scale_steps :
    let tops (c : Command) : Group := { owner with cmds := [c], tiles := List.replicate 8 [] }
    shows (execMatrixCommandStart 1 1 (holding (tops scaling))) (fun t => ((group? t 1).map fun g => g.cmds) ==
      some [{ scaling with rows := [List.replicate 128 0] }]) = true ∧
    shows (execMatrixCommandComplete 1 1 (holding (tops { scaled with rows := [[]] }))) (fun t => ((group? t 1).map fun g =>
      (g.pend.entries, g.cmds.map fun c => (c.id, c.st))) == some ([⟨0, 0xFD, 0, 64, 0x12, 0⟩], [(1, .faulted)])) = true := by decide +kernel

/-- A state where the group has this copy alone. -/
def copying (c : Copy) : State := putGroup loaded { owner with copies := [c] }

theorem witness_CopySteps :
    let new := { issued with set := { issued.set with doneAddr := 0x90000, doneValue := 7 } }
    let c := { new with st := .started }
    let g := { owner with copies := [c] }
    let s := copying c
    let src := copySource s g c (copyRows c 0).1
    let dst := rowLook g c src.s (rowPieces (c.dst + BitVec.ofNat 64 (copyRows c 0).2 * c.set.dstStride) 8)
    let lost := { c with src := 0x0010000000000000 }
    let whole := { c with st := .started, bytes := 8 }
    let stopped := { c with st := .started, fault := some ⟨0, 0xFD, 0, 8, 0x12, 0⟩ }
    copy? { owner with copies := [new] } 1 = some new ∧ new.st = .issued ∧ new.fault = none ∧ (∀ h ∈ (copying new).groups, h.gid = 1) ∧
    group? s 1 = some g ∧ copy? g 1 = some c ∧ c.st = .started ∧ c.fault = none ∧ c.bytes < c.set.rowBytes * c.set.rows ∧ src.fail = none ∧ src.wait = false ∧ src.asks = [] ∧ dst.fail = none ∧
    dst.wait = false ∧ dst.asks = [] ∧ dst.places = [(.mem 0x80000, 0x80000, 8)] ∧ Unwatched s 0x80000 8 ∧
    (∃ e ∈ (copySource (copying lost) { owner with copies := [lost] } lost (copyRows lost 0).1).fail, e.2 = none) ∧
    whole.bytes = whole.set.rowBytes * whole.set.rows ∧ copyPeersDone { owner with copies := [whole] } 1 = true ∧ whole.word = false ∧
    whole.set.doneAddr.toNat % 8 = 0 ∧ (resolve (copying whole) (copyAgent owner whole) 0x90000 .store).2 = .ok (.mem 0x90000) ∧
    Unwatched (copying whole) 0x90000 8 ∧ copy? { owner with copies := [stopped] } 1 = some stopped ∧ owner.status ≠ .ended := by
  decide +kernel

/-- The state of `handled` with the body buffer of region 1 busy and a region 2 that has a free one at 0x73000. -/
def busyBuffer : State :=
  let s := handled owner
  { s with
    regions := s.regions ++ [{ placedRegion with id := 2, flags := 1, handler := 0x71000, bodyBuf := 0x73000 }]
    mem := Sparse.set s.mem 0x72000 0x20 }

/-- R373: a body whose buffer is free is written past one that waits for another buffer, and its handler fires. -/
theorem test_loose_bodies :
    shows (execBodyWrite 0 { busyBuffer with bodies := [⟨1, 1, 3, List.replicate 512 2, false⟩, ⟨1, 2, 4, List.replicate 512 1, true⟩] })
      (fun t => t.bodies == [⟨1, 1, 3, List.replicate 512 2, false⟩] && Sparse.get t.mem 0x73000 == 1 && Sparse.get t.mem 0x72000 == 0x20 &&
        t.tasks.length == busyBuffer.tasks.length + 1) = true := by decide +kernel

theorem witness_GroupSteps :
    let asleep := { owner with status := .waiting, wait := .woken }
    let gone := { owner with status := .ended, pinned := 2 }
    let body := { owner with status := .trapped, bodyState := .waiting, body := List.replicate 512 1, ordinal := 3 }
    let s := handled body
    let loose := { handled owner with bodies := [⟨1, 1, 4, List.replicate 512 1, false⟩] }
    let far := { owner with pc := 0x0010000000000000 }
    let kept := { busyBuffer with bodies := [⟨1, 1, 3, List.replicate 512 2, false⟩, ⟨1, 2, 4, List.replicate 512 1, true⟩] }
    let lane := { laner with queue := [⟨0x3FFFF, 1, 0, [], 0x10000, 0⟩] }
    group? (holding asleep) 1 = some asleep ∧ asleep.status = .waiting ∧ asleep.wait = .woken ∧ group? (holding gone) 1 = some gone ∧
    gone.status = .ended ∧ gone.copies = [] ∧ group? s 1 = some body ∧ (1 : Nat) ≠ 0 ∧ body.bodyState = .waiting ∧
    (domainOf s 1 1).map (fun d => d.2) = some (0x72000, 0x71000) ∧ (∀ n ∈ bodiesWaiting s 1 0x72000, body.ordinal ≤ n) ∧
    bufferFree (bufferReady s 1 0x72000) 1 0x72000 = true ∧ bufferHandled (bufferReady s 1 0x72000) 1 0x72000 = false ∧
    bufferPlace (bufferReady s 1 0x72000) 1 0x72000 .store = some 0x72000 ∧
    ((domainOf s 1 1).bind fun d => fireHandler (putBytes s 0x72000 body.body) d.1 d.2.1 d.2.2 1).isSome = true ∧
    rangeBad (bufferReady s 1 0x72000) 0x72000 512 = false ∧ loose.bodies ≠ [] ∧ (domainOf loose 1 1).map (fun d => d.2.1) = some 0x72000 ∧ (∀ n ∈ bodiesWaiting loose 1 0x72000, 4 ≤ n) ∧
    bufferFree (bufferReady loose 1 0x72000) 1 0x72000 = true ∧ bufferHandled (bufferReady loose 1 0x72000) 1 0x72000 = false ∧
    bufferPlace (bufferReady loose 1 0x72000) 1 0x72000 .store = some 0x72000 ∧
    writeLoose kept ⟨1, 1, 3, List.replicate 512 2, false⟩ = none ∧ (domainOf kept 1 2).map (fun d => d.2) = some (0x73000, 0x71000) ∧
    (∀ n ∈ bodiesWaiting kept 1 0x73000, 4 ≤ n) ∧ bufferFree (bufferReady kept 1 0x73000) 1 0x73000 = true ∧
    bufferHandled (bufferReady kept 1 0x73000) 1 0x73000 = false ∧ bufferPlace (bufferReady kept 1 0x73000) 1 0x73000 .store = some 0x73000 ∧
    ((domainOf kept 1 2).bind fun d => fireHandler (putBytes kept 0x73000 (List.replicate 512 1)) d.1 d.2.1 d.2.2 0).isSome = true ∧
    Running (holding far) far ∧ (BitVec.ofNat 64 0x0010000000000003 - far.pc).toNat < 4 ∧ cmdsDone far = true ∧ peersDone far = true ∧
    (resolve (holding far) (agentOf far) 0x0010000000000003 .exec).2 = .fail 0x12 none ∧ lane.queue ≠ [] ∧ Running (holding lane) lane ∧
    (BitVec.ofNat 64 ((lanePc (holding lane) lane).toNat + 11) - lanePc (holding lane) lane).toNat < 12 := by decide +kernel

/-! ### Commands -/

/-- A command block of a code with operands at their offsets (R40): each an offset, a length and a value. -/
def block (code : Nat) (l : List (Nat × Nat × Nat)) : List Byte :=
  l.foldl (fun bs x => bs.take x.1 ++ natToBytes x.2.1 x.2.2 ++ bs.drop (x.1 + x.2.1)) (natToBytes 2 code ++ List.replicate 254 0)

/-- The owner's partition in a state, with its mailbox at function 7. -/
def mailed (st : PState) : Part := { placedPart with st := st, mailbox := 7 }

/-- The state with an owner's block at 0x70000, its completion word at 0x78000 (R40). -/
def asked (p : Part) (l : List (Nat × Nat × Nat)) (code : Nat) : State :=
  { base with boot := { base.boot with booted := true }, parts := [p], mem := Sparse.setRange base.mem 0x70000 (block code ((8, 8, 0x78000) :: (16, 8, 9) :: l)) }

/-- The block meets `OwnerBlock` for the partition, and its completion word takes a write; the looks leave the state as it is. -/
abbrev ownerMeets (p : Part) (l : List (Nat × Nat × Nat)) (code : Nat) (signed : Bool) : Prop :=
  let s := asked p l code
  let bs := block code ((8, 8, 0x78000) :: (16, 8, 9) :: l)
  OwnerBlock s s 7 0x70000 code signed p bs ∧ wordOk s (some p) bs = (s, true)

/-- The operands of `bind`: ring at 0x80000 of 16 entries, no audit function, root block 0x90000, a store of one page at
0xA0000, with the public key of the private number 5 and its signature over them. -/
def bindOps : List (Nat × Nat × Nat) :=
  [(0x60, 8, 0x80000), (0x68, 4, 16), (0x6C, 2, 0xFFFF), (0x70, 8, 0x90000), (0x78, 8, 0xA0000), (0x80, 8, 0x10000),
   (0x20, 64, 0x8064be5fff6e97a67dff79b56e2006508ff31cb522c6044545e944d1b25ddff29e2a37cc57da75a5db19ce7f7b414a347ab75edd8f000e04262e6568160649c7),
   (0xC0, 64, 0xb651aa0c326f447e6e04cc00e26190c4fbd37aa6fa511bc5c84969fabe9e693335eb88a1c7755ff0bffcf372e8e3ed749e01d3d16c6a12ada8dab406b474b428)]

/-- The owner's partition with SET_STAGE_1_ROOT at its block under way. -/
def rooting : Part := { mailed .owned with rootBusy := true, busy := true, command := 0x70000 }

/-- The state while the owner's group waits for a peer package (R268). -/
def crossing (p : Part) : State :=
  putGroup (asked p [(0x20, 8, 0x20000)] 2) { owner with peers := [⟨7, 1, 3, 0, 8, .read, [], [], 0, none, [], 0, ⟨0, 0xFB, 0, 8, 0, 0⟩, none, 0, false⟩] }

/-- A queue pair of partition 1 on port 2. -/
def pair : QueuePair := QueuePair.connected (2 * 16384 + 3) 1 0 (List.replicate 16 1) 4 5 6

/-- SM2: the signature in the block of `bind` verifies, and that of a block without one does not (R24, R41). -/
theorem witness_OwnerCommands_signature :
    let bs := block 1 bindOps
    let no := block 1 (bindOps.take 6)
    ownerSigned ((bs.drop 0x20).take 64) ((bs.drop 0x20).take 0xA0) (bs.drop 0xC0) = true ∧
    ownerSigned ((no.drop 0x20).take 64) ((no.drop 0x20).take 0xA0) (no.drop 0xC0) = false := by decide +kernel

theorem witness_OwnerCommands :
    let own := mailed .owned
    let s := asked (mailed .created) bindOps 1
    ownerMeets (mailed .created) bindOps 1 true ∧ ringOk 0x80000 16 = true ∧ storeRangeOk 0xA0000 0x10000 = true ∧
    ownerRingMapped s (mailed .created) 0x80000 16 = (s, true) ∧
    storePagesOf s (mailed .created) 0xA0000 0x10000 = (s, some [0xA0000]) ∧ ownerMeets own bindOps 1 true ∧
    ownerMeets own [] 1 true ∧ ringOk 0 0 = false := by
  (intros; and_intros) <;> decide +kernel

theorem witness_OwnerCommands_root :
    let own := mailed .owned
    let wOps (kind base len : Nat) : List (Nat × Nat × Nat) := [(0x20, 4, 1), (0x24, 1, 3), (0x25, 1, kind), (0x28, 8, base), (0x30, 4, len)]
    ownerMeets own [(0x20, 8, 0x20000)] 2 false ∧ 
    guestPlace own false (asked own [(0x20, 8, 0x20000)] 2) 0x20000 = (asked own [(0x20, 8, 0x20000)] 2, some 0x20000) ∧
    rootPending (rootInvalidate (asked own [] 2) 1 1) 1 = false ∧ rootPending (rootInvalidate (asked rooting [] 2) 1 1) 1 = false ∧
    rootPending (rootInvalidate (crossing own) 1 1) 1 = true ∧ mailboxPart (asked rooting [] 2) 7 = some rooting ∧ rooting.rootBusy = true ∧
    ownerMeets own [(0x20, 8, 1)] 2 false ∧ 1 % 0x10000 ≠ 0 ∧ ownerMeets (mailed .created) [(0x20, 8, 0x20000)] 2 false ∧
    ownerMeets own (wOps 0 0 0) 3 false := by
  (intros; and_intros) <;> decide +kernel

theorem witness_OwnerCommands_state :
    let own := mailed .owned
    let wOps (kind base len : Nat) : List (Nat × Nat × Nat) := [(0x20, 4, 1), (0x24, 1, 3), (0x25, 1, kind), (0x28, 8, base), (0x30, 4, len)]
    ownerMeets own (wOps 3 0x90008 8) 3 false ∧ (region? (asked own (wOps 3 0x90008 8) 3) 1 1).isSome = true ∧
    0x90008 % 8 = 0 ∧ 0x90008 % 0x10000 + 8 ≤ 0x10000 ∧
    (match (devRange (asked own (wOps 3 0x90008 8) 3) 1 .load 0x90008 8).2 with
     | .ok l => l == [(0x90008, 8)]
     | _ => false) = true ∧
    ownerMeets own [(0x20, 8, 0xA0000), (0x28, 8, 0x10000)] 4 false ∧
    storePagesOf (asked own [(0x20, 8, 0xA0000), (0x28, 8, 0x10000)] 4) own 0xA0000 0x10000 =
      (asked own [(0x20, 8, 0xA0000), (0x28, 8, 0x10000)] 4, some [0xA0000]) ∧ (base.groups.all fun g => g.part != 1 || g.image.isNone) = true ∧
    ((putGroup base { owner with image := some 0 }).groups.any fun g => g.part == 1 && g.image.isSome) = true ∧
    ownerMeets own [(0x40, 8, 0x80000)] 5 false ∧
    guestTakes (asked own [(0x40, 8, 0x80000)] 5) own 0x80000 2048 = (asked own [(0x40, 8, 0x80000)] 5, true) := by
  (intros; and_intros) <;> decide +kernel

theorem witness_OwnerCommands_queues :
    let own := mailed .owned
    let qOps : List (Nat × Nat × Nat) := [(0x20, 1, 2), (0x24, 4, 3), (0x28, 8, 0x80000), (0x30, 4, 16), (0x34, 4, 16), (0x38, 8, 0x80400), (0x40, 8, 0x80800), (0x48, 4, 16)]
    let rOps : List (Nat × Nat × Nat) := [(0x20, 8, 0x80001), (0x28, 8, 1), (0x30, 1, 3)]
    ownerMeets own qOps 6 false ∧ entriesOk 16 4096 = true ∧ qp? { asked own qOps 6 with qps := [pair] } (2 * 16384 + 3) = some pair ∧
    pair.part = 1 ∧ pair.work = [] ∧
    (match (devMany 1 (asked own qOps 6) [(.load, 0x80000, 1024), (.load, 0x80400, 512), (.store, 0x80800, 512)]).2 with
     | .ok true [_, _, _] => true
     | _ => false) = true ∧
    ownerMeets own rOps 7 false ∧ own.regions.length < 65536 ∧ own.issued.length ≤ 2 ^ 24 ∧
    (match (devRange (asked own rOps 7) 1 (regionAcc 3) 0x80001 1).2 with
     | .ok _ => true
     | _ => false) = true ∧
    ownerMeets { own with regions := [⟨5, [], 0, 1, 0⟩] } [(0x20, 4, 5)] 8 false ∧ ownerMeets own [(0x20, 4, 5)] 8 false := by
  (intros; and_intros) <;> decide +kernel

/-- The state with an operator's block at 0x70000: pages 1 to 16 are the operator's, page 17 is partition 5's. -/
def ordered (ps : List Part) (l : List (Nat × Nat × Nat)) (code : Nat) : State :=
  { base with
    boot := { base.boot with booted := true }
    parts := Part.operator :: ps, owners := Sparse.setRange [] 1 (List.replicate 16 0x80 ++ [0x85])
    mem := Sparse.setRange base.mem 0x70000 (block code ((8, 8, 0x78000) :: (16, 8, 9) :: l)) }

/-- The block meets `OperatorBlock`, and its completion word takes a write; the looks leave the state as it is. -/
abbrev operatorMeets (ps : List Part) (l : List (Nat × Nat × Nat)) (code : Nat) : Prop :=
  let s := ordered ps l code
  let bs := block code ((8, 8, 0x78000) :: (16, 8, 9) :: l)
  OperatorBlock s s 0x70000 code bs ∧ wordOk s none bs = (s, true)

/-- Partition 5 in a state. -/
def fifth (st : PState) : Part := { Part.empty 5 st with stage2 := 0x40000 }

/-- The state in which a session of partition 5 is to be opened. -/
def opening : State := ordered [fifth .owned] [(0x20, 1, 5), (0x28, 8, 0x80000), (0x30, 8, 0x90000)] 0x13

theorem witness_PartitionLife :
    let id (n : Nat) : List (Nat × Nat × Nat) := [(0x20, 1, n)]
    let copy (r : Nat) : List (Nat × Nat × Nat) := [(0x20, 1, 5), (0x28, 8, 0x80000), (0x30, 8, r)]
    operatorMeets [] (id 5) 0x10 ∧ part? (ordered [] (id 5) 0x10) 5 = none ∧ operatorMeets [fifth .owned] (id 5) 0x10 ∧
    (part? (ordered [fifth .owned] (id 5) 0x10) 5).isSome = true ∧ operatorMeets [] (id 64) 0x10 ∧ operatorMeets [] (id 0) 0x10 ∧
    operatorMeets [fifth .created] (id 5) 0x11 ∧ operatorMeets [fifth .sealing] (id 5) 0x11 ∧
    operatorMeets [fifth .owned] (id 5) 0x12 ∧ operatorMeets [fifth .staged] (id 5) 0x12 ∧
    operatorMeets [fifth .owned] (copy 0x90000) 0x13 ∧ operatorMeets [fifth .created] (copy 0x90000) 0x13 ∧ 0x90000 % 64 = 0 ∧
    operatorGet opening 0x80000 2048 = (opening, some (List.replicate 2048 0)) ∧
    issuerTakes opening none 0x90000 256 = (opening, true) ∧
    sessionRefusal (fifth .owned) (consentRecord opening (fifth .owned)).2 [] = 1 ∧
    operatorMeets [{ fifth .sealing with stopped := true }] (copy 0) 0x16 ∧ 0x80000 % 128 = 0 ∧
    (issuerTakes (ordered [{ fifth .sealing with stopped := true }] (copy 0) 0x16) none 0x80000 128).2 = true ∧
    operatorMeets [fifth .sealing] (id 5) 0x17 ∧ operatorMeets [fifth .staged] (id 5) 0x17 ∧ operatorMeets [fifth .owned] (id 5) 0x17 ∧
    operatorMeets [] (copy 0) 0x14 ∧ (operatorGet (ordered [] (copy 0) 0x14) 0x80000 256).2 = some (List.replicate 256 0) ∧
    (part? (ordered [fifth .resetting] [] 0) 5).map (fun p => p.st) = some .resetting ∧
    (∀ j ∈ (ordered [fifth .resetting] [] 0).leaseJobs, j.owner ≠ some 5) ∧
    (part? (ordered [fifth .scrubbing] [] 0) 5).map (fun p => p.st) = some .scrubbing ∧
    taggedPages (ordered [fifth .scrubbing] [] 0) 5 = [17] ∧
    (let j : ZeroJob := ⟨0x80000, 0x10000, 1, 0x30000⟩
     j.part ≠ 5 ∧ 17 ≠ j.entry / 0x10000 ∧ 17 ≠ (j.entry + 7) / 0x10000 ∧
     ¬(j.base / 0x10000 ≤ 17 ∧ 17 < j.base / 0x10000 + j.size / 0x10000) ∧
     ¬(j.base ≤ 17 * 0x10000 + 0xFFFF ∧ 17 * 0x10000 < j.base + j.size)) := by (intros; and_intros) <;> decide +kernel

/-- A sealed object's header of a kind, a length, an object number and a final round, for partition 5 in session 9, with the
MAC over a payload (R28). -/
def header (kind len object final : Nat) (body : List Byte) : List Byte :=
  let h := sealHead { fifth .staged with session := 9 } kind 4 len object final
  h ++ objectMac 0 (h ++ body)

theorem witness_OperatorObjects :
    let staged := { fifth .staged with session := 9, objects := [(2, 7, 4), (1, 17, 3)] }
    let at_ : List (Nat × Nat × Nat) := [(0x20, 1, 5), (0x28, 8, 0x80000)]
    let s (h : List Byte) : State := { ordered [staged] at_ 0x15 with mem := Sparse.setRange (ordered [staged] at_ 0x15).mem 0x80000 h }
    let ring (d e : Nat) : List (Nat × Nat × Nat) := [(0x20, 1, d), (0x28, 8, 0x80000), (0x30, 4, e)]
    let qOps (part : Nat) : List (Nat × Nat × Nat) := [(0x20, 1, 7), (0x21, 1, part), (0x22, 1, 2), (0x24, 4, 16383), (0x38, 4, 2 ^ 24 - 1)]
    let head (kind len object final : Nat) : List Byte := sealHead staged kind 4 len object final ++ List.replicate 32 0
    operatorMeets [staged] at_ 0x15 ∧ operatorMeets [fifth .owned] at_ 0x15 ∧ (fifth .owned).st ≠ .staged ∧ staged.secret = 0 ∧
    operatorGet (s []) 0x80000 128 = (s [], some (List.replicate 128 0)) ∧ sealHeadOk (List.replicate 128 0) = false ∧
    (∀ h ∈ [head 1 65536 17 0, head 2 4096 7 0, head 2 4096 8 0, head 4 0 0 0, head 3 0 2 4, head 3 0 1 4],
      operatorGet (s h) 0x80000 128 = (s h, some h) ∧ sealHeadOk h = true ∧ (operatorGet (s h) 0x80080 (bytesAt h 0x14 4)).2 ≠ none ∧
      bytesAt h 5 1 = 5 ∧ bytesAt h 8 8 = staged.session.toNat) ∧
    (∀ h ∈ [header 4 0 0 0 [], header 3 0 2 4 [], header 3 0 1 4 []], objectMac staged.secret (h.take 0x60 ++ []) = (h.drop 0x60).take 32) ∧
    (∃ x ∈ staged.objects, x.1 = 2 ∧ x.2.1 = 7 ∧ 4 ≤ x.2.2) ∧ (∀ x ∈ staged.objects, x.1 = 2 → x.2.1 = 8 → x.2.2 < 4) ∧
    (∀ x ∈ staged.objects, x.1 = 1 → x.2.1 = 17 → x.2.2 < 4) ∧ (staged.objects.length = 2 ∧ ∀ x ∈ staged.objects, x.2.2 ≤ 4) ∧
    staged.objects.length ≠ 1 ∧ guestPlace staged true (s []) (17 * 0x10000) = (s [], some 0x110000) ∧
    bytesAt (head 1 65536 17 0) 8 8 ≠ (fifth .staged).session.toNat ∧
    operatorMeets [] (ring 9 16) 0x18 ∧ operatorMeets [] (ring 8 16) 0x19 ∧ ringOk 0x80000 16 = true ∧
    operatorTakes (ordered [] (ring 9 16) 0x18) 0x80000 (0x40 + 32 * 16) = (ordered [] (ring 9 16) 0x18, true) ∧
    operatorMeets [] (ring 7 16) 0x18 ∧ ringOk 0x80000 17 = false ∧
    operatorMeets [fifth .owned] (qOps 5) 0x1A ∧ operatorMeets [fifth .created] (qOps 5) 0x1A ∧
    qp? (ordered [fifth .owned] (qOps 5) 0x1A) (7 * 16384 + 16383) = none ∧
    qp? { ordered [fifth .owned] (qOps 5) 0x1A with qps := [{ pair with q := 7 * 16384 + 16383 }] } (7 * 16384 + 16383) ≠ none ∧
    operatorMeets [] (qOps 0) 0x1B ∧ (let x := { pair with sendAt := [(0x80000, 1024)], sendEntries := 16, sendProd := 1 }
     qp? { base with qps := [x] } x.q = some x ∧ x.sendIdx ≠ x.sendProd ∧ (nextSend { base with qps := [x] } x).2.isSome = true ∧
     pair.sendIdx = pair.sendProd) := by (intros; and_intros) <;> decide +kernel

-- slow: --C #eval chk 1 17 0 (plain 65536) (fun s => putPart (putBytes s 0x110000 (plain 65536)) (noteObject stg 1 17 4)) 0

/-! ### Hosts and boot -/

/-- Queue 2 of launch function 50: four entries, its descriptors at 0x70000, its available ring at 0x71000, its used ring at
0x72000. -/
def virtq : VQueue :=
  { VQueue.reset 2 with
    size := 4, enabled := true, desc := 0x70000, driver := 0x71000, device := 0x72000
    descAt := [some 0x70000], driverAt := [some 0x70000], deviceAt := [some 0x70000] }

/-- Launch function 50 of partition 1 with its queues. -/
def hosted (qs : List VQueue) : LaunchFn := { LaunchFn.reset 50 1 with queues := qs }

/-- The state with that function and one chain available in queue 2: a request at 0x73000 for the record at 0x75000 and a
status buffer. -/
def offering (qs : List VQueue) (hold : Nat) : State :=
  { base with
    boot := { base.boot with booted := true }
    launchFns := [hosted qs]
    auditFns := [⟨9, 0, 0x3000, none, 0⟩]
    mem := [(0x70000, natToBytes 8 0x73000 ++ natToBytes 4 64 ++ natToBytes 2 1 ++ natToBytes 2 1 ++
        natToBytes 8 0x74000 ++ natToBytes 4 16 ++ natToBytes 2 2 ++ natToBytes 2 0),
      (0x71000, natToBytes 2 0 ++ natToBytes 2 1 ++ natToBytes 2 0),
      (0x73000, natToBytes 8 0x75000 ++ natToBytes 4 1 ++ natToBytes 4 hold ++ List.replicate 48 0)].foldl
        (fun m x => Sparse.setRange m x.1 x.2) base.mem }

theorem witness_RegisterWrites :
    let s := offering [virtq] 0
    (0x840000 ≤ 0x8400E8 ∧ 0x8400E8 < 0x840100 ∧ 0x8400E8 % 32 = 8) ∧ (0x830000 ≤ 0x8303F0 ∧ 0x8303F0 < 0x830400 ∧ 0x8303F0 % 16 = 0) ∧
    (3 : Word).toNat % 256 ≠ 0 ∧ (launchFn? s 50).any (fun x => vqueue? x 2 == some virtq && (part? s x.part).isSome) = true ∧
    (∀ r ∈ [RingKind.descTable, .driver, .device], (part? s 1).map (fun p => ringPages s p (decide (r = .device)) 0x7FFE0 (max 1 (ringLength r 4))) =
      some (s, if r = .driver then [some 0x70000] else [some 0x70000, some 0x80000])) ∧
    (part? s 1).map (fun p => (ringPages s p true 0x0010000000000000 40).2) = some [none] ∧
    ¬(16 : Nat).testBit 33 = true ∧ (2 ^ 33 + 2 ^ 28 : Nat) &&& (2 ^ 28 + 2 ^ 29 + 2 ^ 32 + 2 ^ 33) = 2 ^ 33 + 2 ^ 28 ∧
    (0x840000 ≤ 0x8400F8 ∧ 0x8400F8 < 0x840100 ∧ 0x8400F8 % 32 = 0x18) ∧ s.boot.booted = true ∧ base.boot.booted = false ∧
    (0x3000 % 64 = 0 ∧ ∃ k < 9, (16 : Word).toNat = 2 ^ (k + 4)) ∧ ¬(0 % 64 = 0 ∧ ∃ k < 9, (17 : Word).toNat = 2 ^ (k + 4)) ∧
    Unwatched s (2 ^ 60 + 0x3000) 24 ∧ launchFn? s 51 = none ∧
    (2 ^ 38 - 1 : Word).toNat < 2 ^ 38 ∧ 2 ^ 38 ≤ (2 ^ 38 : Word).toNat ∧
    ((s.auditFns.find? fun a => a.fn == 9).any fun a => ringOk a.ringBase.toNat (16 : Word).toNat) = true := by
  (intros; and_intros) <;> decide +kernel

/-- R8: the reserved half of 0x821 ignores writes, and the rest is written. R16: an audit function that nothing has written
yet takes its selection. -/
theorem test_register_writes :
    shows (execRegisterWrite .control 0x840008 0x500000007 (offering [] 0)) (fun t => Sparse.get t.pre821 0 == 7) = true ∧
    shows (execAuditSelect 10 5 (offering [] 0)) (fun t => t.auditFns.getLast? == some ⟨10, 5, 0, none, 0⟩) = true ∧
    becomes (execAuditSelect 10 5 base) base = true := by decide +kernel

/-- A host's access to its own memory. -/
def hostOwn (op : AccessOp) (n : Nat) (data : List Byte) : HostRequest :=
  { part := 1, onHost := true, op := op, addr := 0x123, size := n, data := data }

theorem witness_HostNoticesAndRequests :
    let qs (b : Bool) : List VQueue := [{ virtq with broken := b }, { virtq with index := 3 }]
    let s := offering (qs false) 1
    (∀ b, ∀ q ∈ [2, 3], (launchFn? (offering (qs b) 1) 50).any (fun x => (vqueue? x q).isSome) = true) ∧
    (part? s 1).any (fun p => !p.stopped && availIdx s p virtq == (s, some 1) && availHead s p virtq == (s, some 0) &&
      (readChain s p virtq 0).1 == s && parseRequest s p (readChain s p virtq 0).2 == (s, .launch 0x75000 0x74000 true)) = true ∧ s.offers = [] ∧
    virtq.enabled = true ∧ virtq.stopped = false ∧ 1 ≠ virtq.lastAvail ∧ (1 + 2 ^ 16 - virtq.lastAvail) % 2 ^ 16 ≤ virtq.size ∧
    (hostOwn .read 8 []).onHost = true ∧ (hostOwn .write 4 [1, 2, 3, 4]).op = .write ∧ Unwatched s (2 ^ 60 + 0x123) 4 := by
  (intros; and_intros) <;> decide +kernel

/-- Whether firmware, record and policy are genuine is uninterpreted, so that the witness shows the state before boot, and the
resets'. -/
theorem witness_BootAndReset :
    State.reset.boot.booted = false ∧ State.reset.boot.failed = false ∧
    (∃ g ∈ base.groups, g.die = 0 ∧ g.status ≠ .ended) ∧ 7 < 8 ∧ base.agenda = [] ∧
    shows (execDieReset 0 base) (fun t => (t.groups.all fun h => h.status == .ended) && t.tlb.isEmpty) = true := by
  and_intros <;> decide +kernel

/-! ### Tasks, slots, regions and pages -/

/-- The state with the record of a one-group task of region 1 at 0x75000, and a request of function 50 for it on offer as
ticket 3. -/
def offered (entry : Nat) (hold : Bool) : State :=
  let s := offering [virtq] 0
  { s with
    regions := [{ placedRegion with addr := 0x76000 }]
    offers := [⟨3, 1, 0x75000, 50, 2, 0, 0x74000, hold, none⟩]
    mem := Sparse.setRange s.mem 0x75000 (natToBytes 8 entry ++ natToBytes 8 0x18000 ++ natToBytes 8 0x76000 ++ natToBytes 4 1 ++
      natToBytes 2 1 ++ natToBytes 2 1 ++ [1, 8, 1, 0, 1, 0, 0xFF, 0]) }

/-- A task of partition 1 beside the placed one. -/
def second : Task := { placedTask with handle := 2, preds := [1], status := .waiting, dieMask := 0xFF }

theorem witness_LaunchesAndTasks :
    let s := offered 0x10000 false
    let k := { second with preds := [], ranges := [(0x80000, 0x10000)] }
    let tasks (k : Task) : State := { armed base.groups with tasks := [k, { second with handle := 3, preds := [2] }] }
    let done := { second with status := .fired, ended := [0] }
    halted s 1 = false ∧ ((offered 0x10000 true).offers.find? fun o => o.ticket == 3).any (fun o => o.part == 1) = true ∧
    (match (offerTask s none 1 0x75000 none none).2 with
     | .handle _ => true
     | _ => false) = true ∧
    (offerTask (offered 0x10002 false) none 1 0x75000 none none).2 = .refused 0 ∧
    0x75001 % 64 ≠ 0 ∧
    task? (tasks k) 1 2 = some k ∧ eligibleDies (tasks k) k ≠ [] ∧ Sparse.get (inputBytes (tasks k) k) (homeDie 0x80000) = 0x10000 ∧
    task? (tasks done) 1 2 = some done ∧ done.ended.length = done.gx * done.gy * done.gz ∧ enginesDone (tasks done) done = true ∧
    task? (tasks { done with status := .completed }) 1 2 = some { done with status := .completed } ∧ done.held = none ∧
    (match (resolve (tasks done) (partUnit 1) 0x90008 .store).2 with
     | .ok (.mem p) => decide (Unwatched (tasks done) p 8)
     | _ => false) = true ∧
    (∀ g ∈ (tasks { done with faulted := true }).groups, g.part = 1 → g.task = 2 → g.status = .ended) ∧
    enginesDone (tasks { done with faulted := true }) { done with faulted := true } = true := by
  (intros; and_intros) <;> decide +kernel

/-- A task that has ended, with its ended group, while the groups of another task are as given. -/
def ending (others : List Group) : State :=
  { base with tasks := [{ second with status := .fired, ended := [0] }]
              groups := { owner with gid := 2, task := 2, status := .ended, peers := [] } :: others }

/-- R310: the completion waits for the stores to peers that other groups have sent; without any the task completes. -/
theorem witness_LaunchesAndTasks_release :
    let g : Group := { owner with gid := 2, task := 2, status := .ended }
    let k : Task := { second with status := .fired, ended := [0] }
    (∀ l ∈ [[], posted.groups], task? (ending l) 1 2 = some k ∧ halted (ending l) 1 = false ∧ enginesDone (ending l) k = true ∧
      ((ending l).groups.filter fun g => g.part == 1 && g.task == 2).head? = some g) ∧
    OthersOver (ending []) g ∧ ¬OthersOver { ending posted.groups with nextId := 20 } g := by
  (intros; and_intros) <;> decide +kernel

/-- The state with the slot armed and nothing bound. -/
def vacant (gs : List Group) : State :=
  { armed gs with
    regions := [{ placedRegion with slots := 0, tiles := 0 }], tasks := [{ placedTask with next := 0, vcount := 8, tcount := 1 }]
    parts := [{ placedPart with storeBase := 0x90000, storeLen := 0x70000, storePages := (List.range 7).map fun k => 0x90000 + k * 0x10000 }] }

theorem witness_SlotSteps :
    let two := armed [owner, waiting]
    let free := vacant [{ waiting with tcount := 1 }]
    let new : State := vacant []
    let s : State := { two with parts := Part.operator :: two.parts, owners := Sparse.set two.owners 7 0x80, demand8 := some (⟨0x70000, 16, 3, 0, false⟩ : Ring), mem := Sparse.setRange [] 0x70008 [1] }
    recordGood 0 0 0 record ∧ record / 2 ^ 45 % 2 = 1 ∧ ¬recordGood 0 0 1 record ∧
    pickFor free [] 0 0 0 = some (.ready 9) ∧ (group? free 9).isSome = true ∧
    pickFor new [] 0 0 0 = some (.new 1 1 0) ∧ (task? new 1 1).any (fun k => (cohortOn new k 0).isSome) = true ∧
    (let timed := { owner with quantum := 4 }
     let asked := { timed with rotating := true }
     let busy := { timed with cmds := [queued] }
     groupIn (armed [timed, waiting]) 0 0 0 = some timed ∧ timed.quantum ≠ 0 ∧ cmdsDone timed = true ∧
     rotationDue (armed [timed, waiting]) timed 0 0 0 = true ∧ rotationDue (armed [timed]) timed 0 0 0 = false ∧ asked.rotating = true ∧
     rotationDue (armed [asked]) asked 0 0 0 = false ∧ cmdsDone busy = false ∧ rotationDue (armed [busy, waiting]) busy 0 0 0 = true) ∧
    0 < demandOf s 0 1 1 ∧ demandOf s 0 1 1 = 1 ∧
    (∀ a ∈ [0x70000, 0x70008, 0x70070], pageOwned s 0 a = true ∧ beingZeroed s a = false ∧ lineBad s (.mem a) = false) ∧ s.demand9 = none ∧ Sparse.readLE s.mem 0x70008 8 = 1 ∧ 3 - 1 < 16 := by
  (intros; and_intros) <;> decide +kernel

/-- A page of partition 1 being zeroed, named by an entry elsewhere. -/
def zeroed : State :=
  { base with zeroing := [⟨0x90000, 0x10000, 1, 0xA0008⟩], mem := Sparse.setRange base.mem 0x90010 [7], owners := Sparse.set base.owners 9 0 }

/-- The state whose counter area lies in the partition's own page 8, one where it lies in page 17, which is not the partition's, and
one whose partition is being reset. -/
def homely : State := { base with regions := [{ placedRegion with counterPlace := 0x80000 }] }
def astray : State := { base with regions := [{ placedRegion with counterPlace := 0x110000 }] }
def resets : State := { homely with tasks := [], groups := [], parts := base.parts.map fun p => { p with st := .resetting } }

theorem witness_RegionSteps :
    let done : State := { base with tasks := [], groups := [] }
    (region? done 1 1).any (fun r => regionDone done r) = true ∧ (region? base 1 1).any (fun r => !regionDone base r) = true ∧
    (zeroed.zeroing.find? fun j => j.base == 0x90000).any (fun j => decide (0x90000 + j.size ≤ j.entry)) = true ∧
    7 < 8 ∧ 0 < 5 ∧ (region? homely 1 1).any (fun r => r.counterPlace != noCounters && pageOwned homely 1 r.counterPlace &&
      !beingZeroed homely r.counterPlace && !rangeBad homely r.counterPlace 2048) = true ∧
    (region? astray 1 1).any (fun r => !pageOwned astray 1 r.counterPlace && !beingZeroed astray r.counterPlace) = true ∧
    (∃ p, part? resets 1 = some p ∧ p.st = .resetting) ∧ (region? resets 1 1).any (fun r => regionDone resets r) = true ∧
    (∀ p, part? done 1 = some p → p.st ≠ .resetting) ∧
    (let dead : State := { base with regions := [{ placedRegion with active := false }] }
     (dead.regions[0]?).isSome = true ∧ region? dead 1 1 = none) := by decide +kernel

/-! ### Leases, pre-emption, migration, translation and power -/

/-- A request of die 0 whose value is `v`, not yet arrived at die 0. -/
def request (v : Word) : PreReq := ⟨4, 0, v, 0, [⟨0, false, [], [], [], false, false, false, false⟩]⟩

/-- The state with a request. -/
def preempting (q : PreReq) (gs : List Group) : State := { armed gs with preempts := [q] }

/-- A request that has nothing left to do. -/
def over4 : PreReq := ⟨4, 0, 0, 0, [⟨0, true, [], [], [], true, false, true, false⟩, ⟨7, true, [], [], [], false, true, false, true⟩]⟩

/-- A request that re-places cohort 1 on die 1, and the state whose group is saved for it. -/
def replacing : State :=
  let s := preempting { request (2 ^ 22 + 2 * 2 ^ 19) with dies := [⟨0, true, [], [], [waiting.cohort], false, false, false, false⟩] } [{ waiting with saved := true }]
  { s with lease := Sparse.set s.lease 1 2, regions := [{ placedRegion with dieMask := 3 }], tasks := [{ placedTask with dieMask := 3, scratch := 24576 }] }

/-- Two bound groups whose task and region let them be discarded (R61). -/
def discarding : State :=
  { armed [owner, { owner with gid := 9 }] with
    tasks := [{ placedTask with restartable := true }], regions := [{ placedRegion with flags := 2 }] }

theorem witness_PreemptionSteps :
    let s := armed [owner]
    let done := { placedTask with ended := [1], spans := [(0, 0, 0)] }
    let q (deadline action : Nat) : PreReq := request (BitVec.ofNat 64 (deadline * 2 ^ 32 + action * 2 ^ 19))
    (∀ j ∈ s.leaseJobs, j.die ≠ 0) ∧ leaseHeld s 0 = false ∧ takenOff s 0 3 = [] ∧ takenOff s 0 1 = [1] ∧ boundOn s 0 [1] = [1] ∧
    ((191 * 16 + 3 * 2 ^ 16 : Word).toNat / 2 ^ 4 % 256 ≤ 191 ∧ (191 * 16 + 3 * 2 ^ 16 : Word).toNat / 2 ^ 15 % 2 = 0 ∧
      (191 * 16 + 3 * 2 ^ 16 : Word).toNat / 2 ^ 25 % 128 = 0 ∧ (Sparse.get s.pre822 0).getLsbD 0 = false) ∧
    ((preempting (q 5 0) [owner]).preempts.find? fun q => q.id == 4).isSome = true ∧
    preBusy s 0 (191 * 16 + 3 * 2 ^ 16) = false ∧ preBusy (preempting { q 5 0 with dies := [⟨0, true, [1], [], [], false, false, false, false⟩] } [owner]) 0 0 = true ∧
    (∃ x ∈ (q 5 0).dies, x.die = 0 ∧ x.arrived = false) ∧
    preChoice s (q 0 1).value.toNat 0 [owner] = .save ∧ preChoice { s with tasks := [done] } (q 5 0).value.toNat 0 [owner] = .drain ∧
    preChoice s (q 5 0).value.toNat 0 [owner] = .discard ∧ preChoice s (q 1000 0).value.toNat 0 [owner] = .save ∧ discardable s owner = false ∧
    (∃ x ∈ (q 5 0).dies, x.die ∈ [(191 * 16 + 3 * 2 ^ 16 : Nat) / 2 ^ 12 % 8]) ∧
    (let q5 := q 5 0
     let t : State := { discarding with preempts := [q5] }
     affected t q5 0 = [owner, { owner with gid := 9 }] ∧ preChoice t q5.value.toNat 0 (affected t q5 0) = .discard ∧
     discardable t owner = true ∧ ∀ g ∈ affected t q5 0, group? t g.gid = some g) ∧
    (∃ g ∈ [owner], ∀ k, task? s g.part g.task = some k → k.spans = []) ∧
    (∀ g ∈ replacing.groups, g.cohort = waiting.cohort → g.status ≠ .ended →
      isBound g = false ∧ cmdsDone g = true ∧ peersDone g = true ∧ g.saved = true) ∧
    (cohort? replacing waiting.cohort).any (fun c => (task? replacing c.part c.task).any fun k =>
      !replaceFails replacing k c 1 && framesOk replacing 1 (granules k.scratch) [9]) = true ∧
    (∀ x ∈ over4.dies, x.arrived = true ∧ x.draining = [] ∧ x.saving = [] ∧ x.cohorts = [] ∧ x.die < 8) := by
  (intros; and_intros) <;> decide +kernel

/-- A context store at 0x90000 for the group's image. -/
def stored : Part := { placedPart with storeBase := 0x90000, storeLen := 0x10000, storePages := [0x90000] }

/-- The group to be saved, and a sleeper that waits for its partition's stop. -/
def savable : Group := { owner with image := some 0, tcount := 1, vcount := 8 }

/-- The group while a peer package has not answered. -/
def crossed : Group := { owner with peers := [⟨7, 1, 3, 0, 8, .read, [], [], 0, none, [], 0, ⟨0, 0xFB, 0, 8, 0, 0⟩, none, 0, false⟩] }

theorem witness_SaveSteps :
    let q := { request 0 with dies := [⟨0, true, [], [1], [], false, false, false, false⟩] }
    let s : State := { preempting q [savable] with parts := [stored] }
    let sleeper := { owner with gid := 5, part := 0, status := .waiting, wait := .stop 1 }
    let t : State := { armed [{ savable with status := .ready }, sleeper] with parts := [Part.operator, { stored with stopping := true }] }
    let j (k : Nat) : SealJob := ⟨6, 1, k, 3, 8, 0xA0000, 0xC0000, 9⟩
    let u (k : Nat) : State := { base with seals := [j k] }
    group? s 1 = some savable ∧ savable.status = .bound 0 0 0 ∧ beingSaved s savable = true ∧ cmdsDone savable = true ∧
    cmdsDone { savable with cmds := [queued] } = false ∧ (part? s savable.part).isSome = true ∧
    (part? t 1).any (fun p => p.stopping) = true ∧ (∀ g ∈ t.groups, g.part = 1 → isBound g = false ∧ cmdsDone g = true ∧ peersDone g = true) ∧
    (∃ g ∈ t.groups, g.wait = .stop 1 ∧ g.status = .waiting) ∧ (part? base 1).any (fun p => !p.stopping) = true ∧
    (∃ g ∈ base.groups, g.part = 1 ∧ isBound g = true) ∧ peersDone savable = true ∧ peersDone crossed = false ∧
    (part? (u 4) 1).any (fun p => (sealPayload (u 4) p (j 4)).2.isSome) = true ∧ (part? (u 2) 1).any (fun p => (sealPayload (u 2) p (j 2)).2.isNone) = true ∧
    (devSet (ruling sealing []) ⟨2, 0, 0, 0, 8, 192, 0⟩ 0xA0000 (natToBytes 8 9)).2 = true ∧
    (devSet (ruling sealing []) ⟨2, 0, 0, 0, 8, 192, 0⟩ 0x110000 (natToBytes 8 9)).2 = false := by
  (intros; and_intros) <;> decide +kernel

/-- An operator's descriptor that invalidates partition 5's stage 2 (R268), and one of a bad stage. -/
def stale (kind stage : Nat) : State :=
  let s := ordered [] [] 0
  { s with
    fabric := { s.fabric with size := 2 }
    mem := Sparse.setRange [] 0x80000 ([BitVec.ofNat 8 stage, 5, BitVec.ofNat 8 kind, 0, 0, 0, 0, 0] ++ natToBytes 8 0x10000 ++ natToBytes 8 0x10000 ++
      natToBytes 8 0x80100 ++ natToBytes 8 7) }

/-- An applied invalidation of the operator with these packages live and those acknowledgements in. -/
def acked (live acks : List Nat) : State :=
  { stale 0 2 with
    fabric := { (stale 0 2).fabric with livePkgs := live }
    invals := [⟨3, none, 0x80100, 7, 5, 2, 0, 0, false, true, [], acks, 0⟩] }

theorem witness_TranslationAndPower :
    (part? base 1).isSome = true ∧
    (∀ kind ∈ [0, 1], (issuerGet (stale kind 2) none 0x80000 64).1 = stale kind 2 ∧
      (issuerGet (stale kind 2) none 0x80000 64).2.any (fun bs => invalOk false bs && bytesAt bs 2 2 == kind) = true ∧ 1 < (stale kind 2).fabric.size) ∧
    (issuerGet (stale 0 1) none 0x80000 64).2.any (fun bs => !invalOk false bs) = true ∧
    mailboxPart (asked (mailed .owned) [] 1) 7 = some (mailed .owned) ∧ ticketsOut base 1 = [] ∧ ticketsOut (putGroup base crossed) 1 = [7] ∧
    (let s := acked [0, 2] []
     (s.invals.find? fun j => j.ticket == 3 && mayAcknowledge s j 0) = s.invals.head? ∧ s.invals.all (fun j => !allAcknowledged s { j with acks := 0 :: j.acks }) = true ∧
     (acked [0, 1] [1]).invals.all (fun j => allAcknowledged (acked [0, 1] [1]) { j with acks := 0 :: j.acks } && mayAcknowledge (acked [0, 1] [1]) j 0) = true ∧
     rangeBad s 0x80100 8 = false) ∧
    (∀ k < 8, pageOwned (acked [0, 1] [1]) 0 (0x80100 + k) = true ∧ beingZeroed (acked [0, 1] [1]) (0x80100 + k) = false) := by
  and_intros <;> decide +kernel

/-! ### The fabric and the Creamline -/

/-- Package 0 of a group of three, with a link to each peer. -/
def joined (f : Fabric → Fabric) : State :=
  { base with fabric := f { State.reset.fabric with size := 3, links := [Link.fresh 1, Link.fresh 2], livePkgs := [0, 1, 2] } }

/-- The link to peer 1 of `joined`, changed. -/
def linked (g : Link → Link) : State := joined fun f => { f with links := [g (Link.fresh 1), Link.fresh 2] }

theorem witness_LinkAndPeerSteps_links :
    let one := linked fun l => { l with outLost := (List.range 15).map fun w => (3, w) }
    let last := linked fun l => { l with outDown := (List.range 7), inDown := (List.range 7) }
    link? (linked id) 1 = some (Link.fresh 1) ∧ 0 < fibresPerPeer (linked id) ∧ 7 < fibresPerPeer last ∧
    (link? one 1).any (fun l => decide ((3, 15) ∉ l.outLost) && (l.outLost.filter fun x => x.1 == 3).length == 15) = true ∧
    (link? (linked id) 1).any (fun l => decide ((3, 15) ∉ l.inLost) && (l.inLost.filter fun x => x.1 == 3).length < 15) = true ∧
    (link? last 1).any (fun l => l.inDown.length != fibresPerPeer last) = true ∧
    (link? last 1).any (fun l => !inLive (linked fun l => { l with inDown := List.range 8 }) { l with inDown := List.range 8 }) = true := by
  (intros; and_intros) <;> decide +kernel

/-- A request of package 1 for partition 1's bytes at 0x70000. -/
def asking (op : AccessOp) (n : Nat) (data : List Byte) (rel : Option Nat) : PeerRequest :=
  ⟨1, 5, 1, op, 0x70000, n, data, [], rel, if rel.isSome then [4] else [], 0⟩

/-- A group with an access to package 1 on the way. -/
def abroad (op : AccessOp) : Group := { owner with stores := [(1, 4)], peers := [⟨8, 4, 1, 0x70000, 8, op, List.replicate 8 1, [], 0, none, [], 0, ⟨0, 0, 0, 8, 0, 0⟩, none, 0, false⟩] }

/-- The same while no instruction waits for it any more. -/
def over8 (op : AccessOp) : PeerAccess := ⟨8, 4, 1, 0x70000, 8, op, List.replicate 8 1, [], 0, none, [], 0, ⟨0, 0, 0, 8, 0, 0⟩, none, 0, true⟩
def outlived (op : AccessOp) : Group := { abroad op with peers := [over8 op] }

/-- The load caches' lines of package 1: one that core 0 has asked for as ticket 8, one that it holds, one of core 1, a code
line. -/
def peerLines : List CacheLine :=
  let k := alignDown (peerKey 1 1 0x70000) 128
  [⟨0, 0, false, k, [], some 8⟩, ⟨0, 0, false, k, [(1, 7)], none⟩, ⟨0, 1, false, k, [], none⟩, ⟨0, 0, true, k, [], none⟩]

/-- R134, R263, R307: an answered line is held where the core has asked for it, and a failed or shorter answer leaves none. -/
theorem test_answered_line :
    let s : State := { joined id with groups := [abroad .read], cache := peerLines }
    shows (execPeerReplyArrive 8 true (List.replicate 128 5) s) (fun t => (t.cache.map fun c => (c.core, c.code, c.bytes.length)) ==
      [(0, false, 128), (1, false, 0), (0, true, 0)]) = true ∧
    shows (execPeerReplyArrive 8 true (List.replicate 8 5) s) (fun t => t.cache == peerLines.drop 2) = true ∧
    shows (execPeerReplyArrive 8 false [0x12] s) (fun t => t.cache == peerLines.drop 2) = true := by decide +kernel

theorem witness_LinkAndPeerSteps_peers :
    let s := linked id
    let r := asking .read 8 [] none
    let w := asking .write 4 [1, 2, 3, 4] (some 1)
    let a := asking (.atomic 0) 8 (natToBytes 8 5) none
    let behind := linked fun l => { l with marker := true }
    let held := linked fun l => { l with held := [w], arrived := [4] }
    let gone (op : AccessOp) (b : Bool) : State :=
      { (if b then { joined id with fabric := { (joined id).fabric with tornDown := [(0, 1)] } } else joined fun f => { f with livePkgs := [0] }) with
        groups := [abroad op] }
    (link? s 1).any (fun l => !releaseWaits l r && releaseWaits l w && l.held.isEmpty && !l.marker) = true ∧
    (link? s 1).any (fun l => !duplicate l r) = true ∧ (link? (linked fun l => { l with arrivedTo := 5 }) 1).any (fun l => duplicate l r) = true ∧
    pageOwned s 3 0x70000 = false ∧ functionGone s 3 = false ∧ releaseWaits (Link.fresh 1) { r with part := 3 } = false ∧
    (asker { joined id with fabric := { (joined id).fabric with late := [(9, 1)] } } 9).isNone = true ∧
    r.stamp ≤ s.fabric.applied ∧ beingZeroed s r.addr = false ∧ PeerMay s r ∧ Unwatched s r.addr r.size ∧ Unwatched s w.addr w.size ∧
    a.op = .atomic 0 ∧ (link? behind 1).any (fun l => l.marker) = true ∧ functionGone (gone .read true) 1 = true ∧
    (link? held 1).any (fun l => !l.marker && l.held == [w] && !releaseWaits l w && requestsMeet r w) = true ∧ w.data.length = w.size ∧
    PeerMay held w ∧
    (∀ op ∈ [AccessOp.read, .write], ∀ b, asker (gone op b) 8 = some (abroad op, ⟨8, 4, 1, 0x70000, 8, op, List.replicate 8 1, [], 0, none, [], 0, ⟨0, 0, 0, 8, 0, 0⟩, none, 0, false⟩) ∧
      group? (gone op b) 1 = some (abroad op)) ∧
    Resetting { s with parts := s.parts.map fun p => { p with st := .resetting } } 1 ∧ ¬Resetting s r.part ∧
    PeerMay { s with parts := s.parts.map fun p => { p with st := .resetting } } r ∧
    (∀ op ∈ [AccessOp.read, .write], asker { s with groups := [outlived op] } 8 = some (outlived op, over8 op) ∧
      group? { s with groups := [outlived op] } 1 = some (outlived op)) ∧
    ((s.fabric.pkg, 1) ∉ s.fabric.tornDown) ∧ ((0, 1) ∈ (gone .read true).fabric.tornDown) ∧ reachable s 1 1 = true ∧ reachable (gone .read false) 1 1 = false := by
  (intros; and_intros) <;> decide +kernel

/-- A message of package 1 of a kind, received with sequence 5, the last applied being 4. -/
def message (kind : Nat) : CreamMsg := ⟨kind, 1, 1, 7, 2, 9, [1], [(0, 1)]⟩
def messaged (kind : Nat) : State := joined fun f =>
  { f with links := [{ Link.fresh 1 with arrivedTo := 1 }, Link.fresh 2], applied := 4, confirmed := 6, received := [(5, message kind)] }

theorem witness_CreamlineSteps_messages :
    (∀ kind ∈ [1, 2, 3, 4, 5], NextMessage (messaged kind) 5 (message kind) ∧ (message kind).kind = kind ∧ (part? (messaged kind) 1).isSome = true ∧
      (∀ x ∈ (messaged kind).fabric.sent, x.2 ≠ 5)) ∧
    (let own : InvalJob := ⟨3, none, 0x80100, 7, 1, 2, 0, 0, false, false, [], [], 0⟩
     let s : State := { messaged 3 with fabric := { (messaged 3).fabric with sent := [(3, 5)] }, invals := [own] }
     NextMessage s 5 (message 3) ∧ (s.fabric.sent.find? fun x => x.2 == 5) = some (3, 5) ∧ (s.invals.find? fun j => j.ticket == 3) = some own) ∧
    (barrierOf (messaged 2) 1 7).arrived + 1 < (message 2).count ∧
    ∀ p ∈ [(Instr.releaseMessageApply, 2), (.barrierMessageApply, 3), (.invalidationMessageApply, 4), (.versionNoticeMessageApply, 5),
      (.teardownNoticeApply, 1)], becomes (exec p.1 (messaged p.2)) (messaged p.2) = true := by
  and_intros <;> decide +kernel

theorem witness_CreamlineSteps_ladle :
    let f := (joined id).fabric
    let fr : Frame := ⟨f.nextSeq, 1, 0, true, [message 1]⟩
    let q : Frame := ⟨f.nextSeq - 1, 0, 0, false, [⟨1, 1, 0, 0, 0, 0, [], []⟩]⟩
    1 < f.size ∧ { f with ladle := false }.holder = f.pkg ∧ f.flight = none ∧ f.visit = 0 ∧ f.queue = [] ∧ fr.sender = { f with holder := 1 }.holder ∧ fr.sender ≠ f.pkg ∧
    fr.msgs.length ≤ 7 ∧ (∀ m ∈ fr.msgs, m.sender ≠ f.pkg) ∧ { f with flight := some q, queue := [(3, message 1)], ladle := true }.nextSeq = q.seq + q.msgs.length ∧
    (1 ∈ [1, 2] ∧ ∀ q ∈ [1, 2], 1 ≤ q) ∧ 1 < 16 ∧ 1 ≠ f.pkg ∧
    shows (execLadleSilenceTimeout (joined fun f => { f with ladle := false, holder := 2 })) (fun t =>
      t.fabric.livePkgs == [0, 1] && t.fabric.holder == 1) = true := by
  (intros; and_intros) <;> decide +kernel

/-! ### The Churn and the queue pairs -/

theorem witness_RoutingResults :
    let g := { laner with pinned := 2 }
    let s := { holding g with tables := [experts] }
    LaneReady (holding laner) laner 0xC4 (word .n32 2) ⟨⟨1, false⟩, ⟨1, false⟩, useNone, ⟨4, true⟩⟩ noTiles ∧ laner.pinned = 0 ∧
    LaneReady s g 0xC4 (word .n32 2) ⟨⟨1, false⟩, ⟨1, false⟩, useNone, ⟨4, true⟩⟩ noTiles ∧ g.pinned ≠ 0 ∧ table? s g.part = some experts := by
  (intros; and_intros) <;> decide +kernel

/-- The state with the table changed, die 0 leased, and pages 4 to 63 the partition's. -/
def churned (f : Table → Table) : State :=
  { armed [owner] with
    lease := Sparse.set (armed []).lease 1 2, tables := [f { experts with arenas := (0, 0) :: (0x180000, 0x80000) :: List.replicate 6 (0, 0), rowBytes := 16 }]
    owners := Sparse.setRange base.owners 4 (List.replicate 60 0x81) }

/-- The settings under which each expert that was routed to gains a replica (R354). -/
def keen (s : State) : State := { s with churn0 := Sparse.set [] 1 1, churn1 := Sparse.set [] 1 0xFF }

/-- A switch of the table of `churned` in a step, without copies. -/
def switching (step : Nat) (failed : List Nat) : State :=
  churned fun k => { k with switch := some ⟨step, [[⟨0x80000, 1, 0⟩], [⟨0xA0000, 1, 0⟩]], [], [], [], failed, [3, 5]⟩ }

/-- The state of a partition without memory of its own. -/
def outlying : State := { churned id with owners := [] }

/-- A retired replica at 0xC0000 whose inbox holds the row for ticket 7, and a submission for each replica of expert 1. -/
def forwarding : State :=
  let s := churned fun k => { k with
    forwards := [⟨0, ⟨0xC0000, 1, 0⟩, 2, 7⟩]
    grads := [⟨1, 2, 1, 0, 0x70000, 2, 0x71000, 0x72000, 9⟩] }
  { s with mem := Sparse.setRange s.mem (0xB0000 + 0x80 + 8) (natToBytes 8 8) }

/-- The state whose switch is due to publish version 5, while the one submission that an expert's replica owes of version 1
waits; and one whose frame of version 3 has an error in the sixth record of its second page. -/
def owing : State :=
  let s := switching 2 []
  { s with tables := s.tables.map fun k => { k with
      version := 4, versions := (4, [[⟨0x80000, 1, 0⟩], [⟨0xA0000, 1, 0⟩]]) :: k.versions, grads := [⟨1, 1, 1, 0, 0x70000, 2, 0x71000, 0x72000, 9⟩] } }
def flawed : State := { switching 2 [] with badLines := [.mem (0x310000 + 128 * 5)] }

/-- R360: the publication waits for the merge. R357: the lowest record that cannot be written is reported. -/
theorem test_publish_waits :
    becomes (execChurnSwitchPublish 1 owing) owing = true ∧
    shows (execChurnSwitchPublish 1 flawed) (fun t => (t.tables.map fun k => k.switch.map fun w => w.failed) == [some [517]]) = true := by
  and_intros <;> decide +kernel

theorem witness_ChurnSteps_merge : (∃ k, table? owing 1 = some k ∧ ∃ w, k.switch = some w ∧ w.failed = [] ∧ w.step = 2 ∧ mergeDue k) ∧
    ∃ k, table? (switching 2 []) 1 = some k ∧ ∃ w, k.switch = some w ∧ w.failed = [] ∧ w.step = 2 ∧ ¬mergeDue k := by
  refine ⟨⟨_, rfl, _, rfl, rfl, rfl, ⟨_, List.mem_singleton.2 rfl, by decide, fun r hr => ?_⟩⟩, ⟨_, rfl, _, rfl, rfl, rfl, ?_⟩⟩
  · exact ⟨_, List.mem_singleton.2 rfl, rfl, rfl, by revert r; decide⟩
  · rintro ⟨z, hz, -⟩
    simp [experts] at hz

theorem witness_ChurnSteps :
    let hot := keen (churned fun k => { k with heat := Sparse.set [] 0 5 })
    let k := forwarding.tables.headD experts
    let f : Forward := ⟨0, ⟨0xC0000, 1, 0⟩, 2, 7⟩
    table? (churned id) 1 = some { experts with arenas := (0, 0) :: (0x180000, 0x80000) :: List.replicate 6 (0, 0), rowBytes := 16 } ∧
    (table? hot 1).any (fun k => mayDecide hot { k with lastHeat := k.heat, heat := [] } &&
      !(decideAll hot { k with lastHeat := k.heat, heat := [] } ⟨[], k.uses, [], []⟩ 0 ((versionRecords k 2).getD [])).gained.isEmpty) = true ∧
    (table? (churned id) 1).any (fun k =>
      (decideAll (churned id) k ⟨[], k.uses, [], []⟩ 0 ((versionRecords k 2).getD [])).gained.isEmpty && mayDecide (churned id) k) = true ∧
    (table? (switching 1 []) 1).any (fun k => k.switch.any fun w => w.failed.isEmpty && (copyReplicas k (switching 1 []) w.gained).2 == [] &&
      (copyReplicas k (switching 1 []) [(1, ⟨0x40000000, 1, 0⟩)]).2 == [1]) = true ∧
    (table? (switching 2 []) 1).any (fun k => k.switch.any fun w => w.failed.isEmpty && (differing k (switching 2 []) w.gained).2 == [] &&
      (differing k (switching 2 []) [(1, ⟨0x40000000, 1, 0⟩)]).2 == [1] &&
      match (devMany 1 (switching 2 []) (framePages k (k.version + 1))).2 with
      | .ok true _ => true
      | _ => false) = true ∧
    (match (devMany 1 outlying (framePages experts 3)).2 with
     | .ok false _ => true
     | _ => false) = true ∧
    (table? (switching 1 [1, 0]) 1).any (fun k => k.switch.any fun w => w.failed == [1, 0] && w.notices.contains 5) = true ∧
    table? forwarding 1 = some k ∧ k.forwards[0]? = some f ∧ inboxOf k f.replica = 0xB0000 ∧
    (devGet forwarding 1 (0xB0000 + 0x80 + 8 * (7 % 2)) 8).2.map bytesToNat = some 8 ∧
    (devGet (churned id) 1 (0xB0000 + 0x80 + 8 * (7 % 2)) 8).2.map bytesToNat ≠ some 8 ∧
    inboxOf k (primaryOf k 0) = 0x70000 ∧ inboxHead k = 0x100 ∧
    (match (devMany 1 forwarding [(.atomic, 0x70000, 8)]).2 with
     | .ok true [tail] => bytesToNat (placesRead forwarding tail) == 0
     | _ => false) = true ∧
    (match (devMany 1 forwarding [(.load, 0xB0000 + 0x100 + 1 * 16, 16), (.store, 0x70000 + 0x100 + 0, 16), (.store, 0x70000 + 0x80, 8)]).2 with
     | .ok true [_, _, _] => true
     | _ => false) = true ∧
    replicaFree forwarding k f = true ∧ bytesToNat ((devGet forwarding 1 0xB0000 8).2.getD []) = 0 ∧ halted forwarding 1 = false ∧
    (List.range (replicasOf k 2 1).length).filterMap (fun r => k.grads.find? fun z => z.version == 2 && z.expert == 1 && z.replica == r) = k.grads ∧
    1 = (replicasOf k 2 1).length ∧ k.grads.tail = [] ∧
    (match (devMany 1 forwarding [(.store, 0x71000, 8), (.load, 0x70000, 8)]).2 with
     | .ok true (_ :: _) => true
     | _ => false) = true := by
  (intros; and_intros) <;> decide +kernel

/-- Queue pair 32771 with queues at 0x70000, 0x71000 and 0x72000, a send entry of an opcode at hand. -/
def sending (op flags : Nat) (f : QueuePair → QueuePair) : State :=
  { base with
    parts := [mailed .owned]
    qps := [f { pair with sendAt := [(0x70000, 4096)], sendEntries := 64, recvAt := [(0x71000, 512)], recvEntries := 16, cqAt := [(0x72000, 512)],
                          cqEntries := 16, sendProd := 1 }]
    mem := Sparse.setRange base.mem 0x70000 ([BitVec.ofNat 8 op, BitVec.ofNat 8 flags, 0, 0] ++ natToBytes 4 0 ++ natToBytes 8 5 ++ natToBytes 8 0x80000 ++
      natToBytes 4 8 ++ natToBytes 4 9 ++ natToBytes 8 0x1000) }

/-- A request on the way, and a peer's request for a registered region. -/
def onWay (op : Nat) (signal : Bool) : RdmaWork := ⟨op, signal, 5, 0x80000, 4, 0, 9, 0x1000, [1, 2, 3, 4]⟩
def inbound (op : Nat) : RdmaRequest := { q := 32771, opcode := op, key := 6, addr := 0x90004, size := 4, data := [1, 2, 3, 4], imm := 0 }
def registered (s : State) : State := { s with parts := s.parts.map fun p => { p with regions := [⟨6, [(0x90000, 64)], 0x90000, 64, 3⟩] } }

theorem witness_QueuePairSteps :
    let s (f : QueuePair → QueuePair) : State := sending 3 0 f
    let x := (qp? (s id) 32771).getD pair
    let y := (qp? (s fun x => { x with work := [onWay 2 false, onWay 1 true] }) 32771).getD pair
    qp? (s id) 32771 = some x ∧ (mailboxPart (s id) 7).any (fun p => x.part == p.id) = true ∧ x.error = false ∧ cqFree x = true ∧
    halted (s id) x.part = false ∧ y.work = [onWay 2 false, onWay 1 true] ∧ x.work = [] ∧
    (∀ op ∈ [1, 2, 3, 4], ∀ fl ∈ [0, 3], (nextSend (sending op fl id) x).2.any (fun bs => bytesAt bs 0 1 == op && sendOk bs) = true) ∧ x.flushing = false ∧ y.flushing = false ∧
    (match (devRange (s id) x.part .load 0x80000 8).2 with
     | .ok _ => true
     | _ => false) = true ∧
    (match (devRange (s id) x.part .store 0x80000 4).2 with
     | .ok _ => true
     | _ => false) = true ∧
    (∀ op ∈ [1, 2], (inboundPieces (registered (s id)) 1 (inbound op)).any (fun ps =>
      (piecesKept 1 (registered (s id)) ps).2) = true ∧ (piecesKept 1 (s id) [(0x200000, 4)]).2 = false ∧
      inboundPieces (s id) 1 (inbound op) = none) ∧
    nextRecv (s id) x = (s id, none) := by
  (intros; and_intros) <;> decide +kernel

/-! ### Encodings and steps -/

theorem witness_EncodedWordsDecode :
    (Instr.add 63 1 2).wf = true ∧ encodeScalar (.add 63 1 2) ≠ none ∧ (Instr.vadd bare).wf = true ∧ encodeLane (.vadd bare) ≠ none ∧
    encode (.vadd bare) ≠ none := by decide +kernel

theorem witness_DecodedWordsEncode :
    (decodeScalar 0x88000000).toOption = some .nop ∧ 0x88000000 < 2 ^ 32 ∧ (decodeLane (0x004001C01000000700000064)).toOption.isSome = true ∧
    0x004001C01000000700000064 < 2 ^ 96 := by decide +kernel

/-- The state in which the group's scalar word, or its lane word, is the next that the schedule names. -/
def ready (lane : Bool) (w : Nat) : State := { placeWord State.reset (if lane then 96 else 32) w with clock := 0 }

theorem witness_StepExecutesDecoded :
    ∀ x ∈ [(false, 0x88000000, true), (false, 0x98000000, false), (true, 0x004001C01000000700000064, true), (true, 0xFF0000000000000000000000, false)],
      let s := ready x.1 x.2.1
      let s1 : State := { s with clock := s.clock + 1, agenda := [] }
      let p := if x.1 then 0x18000 else 0x10000
      s.power.off = false ∧ s.agenda = [.issue 0 0 0 x.1] ∧
      (groupIn s 0 0 0).any (fun g => group? s1 g.gid == some g && mayIssue s1 g && (x.1 == !g.queue.isEmpty) && g.peers.isEmpty &&
        (cacheFind s1 (agentOf g).die (agentOf g).core true p).isNone && ((if x.1 then lanePc s1 g else g.pc).toNat == p) &&
        match (resolve s1 (agentOf g) p .exec).2 with
        | .ok (.mem q) => q == p
        | _ => false) = true ∧
      (if x.1 then (decodeLane (Sparse.readLE s.mem p 12)).toOption.isSome else (decodeScalar (Sparse.readLE s.mem p 4)).toOption.isSome) = x.2.2 ∧
      shows (Machine.step s) (fun t => t.cur == 1) = true := by decide +kernel

/-- The scalar word at the group's PC with a lane word still queued. -/
def laneQueued (w : Nat) : State :=
  let s := ready false w
  { s with
    mem := Sparse.setRange s.mem 0x18000 (natToBytes 12 0x004001C01000000700000064)
    groups := s.groups.map fun g => { g with queue := [⟨0, 1, 0, [], 0x10000, 0⟩] } }

/-- The clauses about a scalar word with lane words queued: an `add` runs ahead, a `launch` waits. -/
theorem witness_StepExecutesDecoded_queued :
    ∀ x ∈ [(0x00518700, true), (0x8892800B, false)],
      let s := laneQueued x.1
      let s1 : State := { s with clock := s.clock + 1, agenda := [] }
      s.power.off = false ∧ s.agenda = [.issue 0 0 0 false] ∧ (decodeScalar (Sparse.readLE s.mem 0x10000 4)).toOption.isSome = true ∧
      (groupIn s 0 0 0).any (fun g => group? s1 g.gid == some g && mayIssue s1 g && !g.queue.isEmpty && g.peers.isEmpty &&
        (cacheFind s1 (agentOf g).die (agentOf g).core true 0x10000).isNone && g.pc.toNat == 0x10000 && runsAhead s1 g x.1 == x.2 &&
        match (resolve s1 (agentOf g) 0x10000 .exec).2 with
        | .ok (.mem q) => q == 0x10000
        | _ => false) = true ∧
      shows (Machine.step s) (fun t => (group? t 1).any fun h => (h.retiredS == 1) == x.2 && h.status == .bound 0 0 0) = true := by
  decide +kernel

/-- The clauses about a fault that such a word notes: an `srd` that is refused executes ahead of a `vadd` and waits for a `vld`. -/
theorem witness_StepExecutesDecoded_fault :
    ∀ x ∈ [(0x004001C01000000700000064, true), (0x900000000000000000000000, false)],
      let s0 := laneQueued (0x88000009 + 0x80000 + 5 * 2 ^ 20)
      let s : State := { s0 with mem := Sparse.setRange s0.mem 0x18000 (natToBytes 12 x.1) }
      let s1 : State := { s with clock := s.clock + 1, agenda := [] }
      (groupIn s 0 0 0).any (fun g => runsAhead s1 g (0x88000009 + 0x80000 + 5 * 2 ^ 20) && laneMemoryQueued s1 g != x.2) = true ∧
      shows (Machine.step s) (fun t => (group? t 1).any fun h =>
        (h.retiredS == 1) == x.2 && (h.pend.entries.length == 1) == x.2) = true := by
  decide +kernel

theorem witness_StepKeepsMemoryCanonical :
    State.reset.canonical ∧ shows (Machine.step (ready false 0x88000000)) (fun t => decide t.canonical) = true := by decide +kernel

theorem witness_OwnersCannotReachOperatorState :
    Running (holding owner) owner ∧ owner.auth ≠ 1 ∧ encode (.add 8 5 5) ≠ none ∧ shows (exec (.add 8 5 5) (holding owner)) (fun _ => true) = true := by
  decide +kernel

/-! ### The other hypotheses -/

/-- The state with queue 3 of the owner's function, whose one available chain is a buffer of 64 bytes. -/
def noticed (features : Nat) (used : Nat) : State :=
  let s := offering [{ virtq with index := 3, usedIdx := used }] 0
  { s with
    parts := s.parts.map fun p => { p with launchFn := 50 }
    launchFns := s.launchFns.map fun f => { f with features := features }
    mem := Sparse.setRange s.mem 0x70008 (natToBytes 4 64 ++ natToBytes 2 2) }

/-- `xh.post` with s3, `xh.notify` with the queue's number in s3, and without such a queue with s2. -/
def noticer : Group := { owner with scalars := Sparse.set owner.scalars 3 3 }

theorem witness_HostNoticesAndRequests_notices :
    let s := putGroup (noticed 0 1) noticer
    let h := putGroup (noticed (2 ^ 29) 0) noticer
    Running s noticer ∧ noticer.queue = [] ∧ (∀ p ∈ noticer.peers, p.reply ≠ none) ∧ (sreg noticer 2).toNat % 64 = 0 ∧
    (let r := dataPieces noticer 64 1 s (sreg noticer 2).toNat
     r.2.1 = [] ∧ (match r.2.2 with | .ok _ => true | _ => false) = true ∧
      (noticeQueue r.1 noticer (sreg noticer 3).toNat).isSome = true ∧ (noticeQueue r.1 noticer (sreg noticer 5).toNat).isNone = true ∧
      (group? r.1 1).isSome = true) ∧
    (noticeQueue s noticer 3).any (fun x => !(signalHeld s x.1 x.2).2) = true ∧ (noticeQueue h noticer 3).any (fun x => (signalHeld h x.1 x.2).2) = true := by
  (intros; and_intros) <;> decide +kernel

/-- A launching group whose s2 names the record of `offered`, or an address that is none. -/
def launcher (e : Nat) (full : Bool) : State :=
  let s := putGroup (offered e false) { owner with scalars := Sparse.set owner.scalars 2 0x75000 }
  if full then { s with tasks := (List.range 2).map fun k => { placedTask with handle := k + 1 } } else s

theorem witness_LaunchesAndTasks_launch :
    let g := { owner with scalars := Sparse.set owner.scalars 2 0x75000 }
    let s := launcher 0x10000 false
    let r (s : State) := acceptTask s g.part (sreg g 2).toNat (some (agentOf g).die) none
    Running s g ∧ g.queue = [] ∧ (match (r s).2 with | .handle _ => true | _ => false) = true ∧
    (match (r (launcher 0x10002 false)).2 with | .refused _ => true | _ => false) = true ∧ (group? (r s).1 1).isSome = true := by
  (intros; and_intros) <;> decide +kernel

/-- Commands that have read their rows: an integer product, one of binary64, and a scale-and-accumulate. -/
def readInt : Command := { queued with rows := List.replicate 128 (List.replicate 64 3) }
def readF64 : Command := { readInt with set := { MatrixSet.entry with typeA := 11, typeB := 11 } }
def readScale : Command := { queued with scale := true, rows := [List.replicate 128 0] }

theorem witness_MatrixProducts :
    readInt.scale = false ∧ 5 ≤ (pairOfSet readInt.set).num ∧ 0 < groupCount readInt.set ∧ readInt.rows.length = cmdRowCount readInt ∧
    readF64.scale = false ∧ (pairOfSet readF64.set).num = 0 ∧ readF64.rows.length = cmdRowCount readF64 ∧
    readScale.scale = true ∧ readScale.rows.length = cmdRowCount readScale ∧ 63 < 64 ∧
    0x70000 / 2 ^ 32 ≠ 0xFFFFF000 ∧ 0x70000 / 2 ^ 40 ≠ 0xFFFFE0 := by decide +kernel

/-- The state with `n` entries of die 0's dependency table in use, all of them (R70), and what a launch reads there. -/
def crowdedBy (n : Nat) : State := { launcher 0x10000 false with tasks := List.replicate n placedTask }
def crowded : State := crowdedBy 65536
abbrev crowdedRecord : State × GuestBytes := readPieces crowded 1 3 0x75000
def crowdedBytes : List Byte := match crowdedRecord.2 with
  | .ok x => x
  | _ => []
abbrev crowdedBlock : State × GuestBytes := readPieces crowdedRecord.1 1 4 0x76000
def crowdedRegion : List Byte := match crowdedBlock.2 with
  | .ok x => x
  | _ => []
abbrev crowdedUp : State × ChainRead := readUp 1 9 crowdedBlock.1 0x76000 crowdedRegion
abbrev crowdedChain : State := (chainCheck 1 crowdedUp.1 false crowdedUp.2.blocks).1
abbrev crowdedRegions : List Region := chainRegions crowdedChain 1 crowdedUp.2.blocks

theorem crowdedBy_used (n : Nat) : n ≤ entriesUsed (crowdedBy n) 0 := by
  have h : ((List.replicate n placedTask).filter fun t => t.handle / 2 ^ 28 == 0).length = n := by
    rw [List.filter_replicate]; simp [placedTask]
  exact Nat.le_of_eq h.symm

theorem pair_eq {α β : Type} {p : α × β} {b : β} (h : p.2 = b) : p = (p.1, b) := by rw [← h]

theorem crowded_address : bytesAt crowdedBytes 0x10 8 = 0x76000 := by decide +kernel

theorem crowded_read : LaunchRead crowded 1 0x75000 crowdedBytes crowdedChain crowdedRegions where
  aligned := by decide
  read := by
    refine ⟨crowdedRecord.1, crowdedBlock.1, crowdedRegion, pair_eq (by decide +kernel), ?_⟩
    simp only [crowded_address]
    exact ⟨by decide, pair_eq (by decide +kernel), by decide +kernel, by decide +kernel, by decide +kernel,
      ⟨{ placedRegion with addr := 0x76000 }, by decide +kernel, by decide +kernel⟩, pair_eq (by decide +kernel), trivial⟩

theorem witness_LaunchesAndTasks_full :
    ∀ die ∈ [none, some 0], ∃ l, (offerTask crowded none 1 0x75000 die none).2 = .full l := by
  intro die hd
  refine ⟨⟨crowdedBytes, crowdedRegions⟩, ?_⟩
  simp only [offerTask, acceptTask_full crowded_read (by decide +kernel) (by decide +kernel) (by simpa using hd) (by decide +kernel)
    (crowdedBy_used 65536)]

end Sys2Proof.Tests
end

section
/-! Scalar words: each value that the model computes, written in the arithmetic of the spec (R151 to R154, R158). -/

namespace Sys2Proof.Machine

open Sys2Proof.Claim

/-! ### Extension and shifts -/

/-- A sign-extended immediate is the word of its signed value (R150). -/
theorem signExtend_eq_ofInt {n : Nat} (i : BitVec n) : i.signExtend 64 = BitVec.ofInt 64 i.toInt := rfl

theorem add_signExtend {n : Nat} (x : Word) (i : BitVec n) :
    x + i.signExtend 64 = BitVec.ofInt 64 (x.toInt + i.toInt) := by
  rw [BitVec.ofInt_add, BitVec.ofInt_toInt, signExtend_eq_ofInt]

theorem signExtend_mul_four {n : Nat} (i : BitVec n) : i.signExtend 64 * 4 = BitVec.ofInt 64 (i.toInt * 4) := by
  rw [BitVec.ofInt_mul, signExtend_eq_ofInt]; rfl

theorem signExtend_shiftLeft {n : Nat} (i : BitVec n) (k : Nat) :
    i.signExtend 64 <<< k = BitVec.ofInt 64 (i.toInt * 2 ^ k) := by
  have htwo : BitVec.ofInt 64 (2 ^ k) = BitVec.twoPow 64 k := by
    rw [← BitVec.toNat_inj, BitVec.toNat_twoPow]
    exact_mod_cast congrArg BitVec.toNat (BitVec.ofInt_natCast 64 (2 ^ k))
  rw [BitVec.shiftLeft_eq_mul_twoPow, BitVec.ofInt_mul, htwo, signExtend_eq_ofInt]

theorem shiftLeft_eq_ofNat (x : Word) (k : Nat) : x <<< k = BitVec.ofNat 64 (x.toNat * 2 ^ k) := by
  apply BitVec.eq_of_toNat_eq
  rw [BitVec.toNat_shiftLeft, BitVec.toNat_ofNat, Nat.shiftLeft_eq]

theorem ushiftRight_eq_ofNat (x : Word) (k : Nat) : x >>> k = BitVec.ofNat 64 (x.toNat / 2 ^ k) := by
  apply BitVec.eq_of_toNat_eq
  rw [BitVec.toNat_ushiftRight, BitVec.toNat_ofNat, Nat.shiftRight_eq_div_pow,
    Nat.mod_eq_of_lt (Nat.lt_of_le_of_lt (Nat.div_le_self ..) x.isLt)]

theorem sshiftRight_eq_ofInt (x : Word) (k : Nat) : x.sshiftRight k = BitVec.ofInt 64 (x.toInt / 2 ^ k) := by
  rw [BitVec.sshiftRight_eq, Int.shiftRight_eq_div_pow, Int.natCast_pow]; rfl

theorem rotateLeft_reg (x : Word) (n : Reg) : x.rotateLeft n.toNat = x <<< n.toNat ||| x >>> (64 - n.toNat) :=
  BitVec.rotateLeft_eq_rotateLeftAux_of_lt n.isLt

theorem zeroExtend_truncate (x : Word) (n : Nat) :
    (x.truncate n).zeroExtend 64 = BitVec.ofNat 64 (x.toNat % 2 ^ n) := by
  apply BitVec.eq_of_toNat_eq
  simp only [BitVec.truncate_eq_setWidth, BitVec.toNat_setWidth, BitVec.toNat_ofNat]

theorem signExtend_truncate (x : Word) {n : Nat} (h : n ≤ 64) :
    (x.truncate n).signExtend 64 = (x.extractLsb' 0 n).signExtend 64 := by
  rw [← BitVec.setWidth_eq_extractLsb' h]

/-! ### Compares -/

/-- A compare writes 1 where its condition holds, else 0 (R151). -/
theorem flagWord_eq_ite {b : Bool} {p : Prop} [Decidable p] (h : b = true ↔ p) : flagWord b = if p then 1 else 0 := by
  unfold flagWord
  simp only [h]

theorem ult_iff_toNat_lt (x y : Word) : x.ult y = true ↔ x.toNat < y.toNat := by simp [BitVec.ult_eq_decide]

theorem ule_iff_toNat_le (x y : Word) : x.ule y = true ↔ x.toNat ≤ y.toNat := by simp [BitVec.ule_eq_decide]

/-- A negated signed "less" is "greater or equal". -/
theorem not_slt_iff_toInt_le (x y : Word) : (!x.slt y) = true ↔ y.toInt ≤ x.toInt := by simp [BitVec.slt_eq_decide]

theorem not_ult_iff_toNat_le (x y : Word) : (!x.ult y) = true ↔ y.toNat ≤ x.toNat := by simp [BitVec.ult_eq_decide]

theorem slt_signExtend_iff (x : Word) (i : BitVec 14) : x.slt (i.signExtend 64) = true ↔ x.toInt < i.toInt := by
  rw [BitVec.slt_iff_toInt_lt, BitVec.toInt_signExtend_of_le (by decide)]

/-! ### Division -/

theorem sdiv_eq_ofInt (x y : Word) : x.sdiv y = BitVec.ofInt 64 (x.toInt.tdiv y.toInt) := by
  apply BitVec.eq_of_toInt_eq
  rw [BitVec.toInt_sdiv, BitVec.toInt_ofInt]

theorem srem_eq_ofInt (x y : Word) : x.srem y = BitVec.ofInt 64 (x.toInt.tmod y.toInt) := by
  rw [← BitVec.toInt_srem, BitVec.ofInt_toInt]

theorem bitOf_eq_testBit (v k : Nat) : bitOf v k = v.testBit k := by
  rw [Nat.testBit_eq_decide_div_mod_eq]; rfl

/-- The trap enable of divisions by zero is mode bit 35 (R144, R152). -/
theorem trapEnables_divZero (mode : Word) : bitOf (trapEnables mode) 1 = mode.getLsbD 35 := by
  unfold trapEnables bits
  rw [bitOf_eq_testBit, Nat.testBit_mod_two_pow, Nat.testBit_div_two_pow]; rfl

/-- The sticky flag of divisions by zero is mode bit 40 (R144, R152). -/
theorem setSticky_divZero (mode : Word) : setSticky mode exDivZero = mode ||| 1#64 <<< 40 := rfl

/-! ### Bit counts -/

theorem leadingZeros_spec (x : Word) : LeadingZeros x (leadingZeros x) := by
  unfold LeadingZeros leadingZeros bitLen
  by_cases hx : x.toNat = 0
  · simp [hx]
  · have hlog : x.toNat.log2 < 64 := (Nat.log2_lt hx).2 x.isLt
    have hlow : 2 ^ x.toNat.log2 ≤ x.toNat := Nat.log2_self_le hx
    have hhigh : x.toNat < 2 ^ (x.toNat.log2 + 1) := Nat.lt_log2_self
    have hout : 64 - (64 - (x.toNat.log2 + 1)) = x.toNat.log2 + 1 := by omega
    have hin : 63 - (64 - (x.toNat.log2 + 1)) = x.toNat.log2 := by omega
    simp only [beq_iff_eq, hx, if_false, hout, hin]
    exact ⟨by omega, hhigh, fun _ => hlow⟩

theorem trailingZeros_spec (x : Word) : TrailingZeros x (trailingZeros x) := by
  unfold TrailingZeros trailingZeros
  cases hf : (List.range 64).find? fun k => x.getLsbD k with
  | none =>
    have hnone := List.find?_range_eq_none.1 hf
    simpa using hnone
  | some n =>
    obtain ⟨hbit, hlt, hlow⟩ := List.find?_range_eq_some.1 hf
    exact ⟨Nat.le_of_lt (List.mem_range.1 hlt), fun k hk => by simpa using hlow k hk, fun _ => hbit⟩

theorem popCount_eq_countP (x : Word) : popCount x = (List.range 64).countP fun k => x.getLsbD k :=
  List.countP_eq_length_filter.symm

end Sys2Proof.Machine
end

section
/-! What the shapes of scalar instructions do to the state: a result in one register, a jump, a trap, a queued lane block. -/

namespace Sys2Proof.Machine

open Sys2Proof.Claim

variable {s : State} {g : Group} {i : Instr}

/-! ### A result in one register -/

/-- An instruction whose only result is a scalar register (R150). -/
theorem yields_of_scalarOp (h : Running s g) {d : Reg} {f : Group → Word} {v : Word}
    (he : exec i s = scalarOp s d f) (hv : f g = v) : Yields s g i d v := by
  obtain ⟨t, g', ht, hw, hd⟩ := scalarOp_done h d f
  exact ⟨t, g', he.trans ht, hv ▸ hw, hd⟩

/-- An instruction that writes a register and goes on at `pc` (R150, R159). -/
theorem wrote_of_retireTo (h : Running s g) {f : Group → State} {d : Reg} {v pc : Word}
    (he : exec i s = onGroup s f) (hf : f g = retireTo s (setSreg g d v) pc) :
    ∃ t g', exec i s = .next t ∧ WroteScalar g g' d v ∧ ScalarDone s t g g' pc :=
  ⟨f g, setSreg g d v, he.trans (onGroup_running h f), wroteScalar_setSreg g d v,
    hf ▸ retireTo_done pc (running_gid h) rfl rfl rfl rfl rfl⟩

/-- An instruction that only goes on at `pc`. -/
theorem goesTo_of_retireTo (h : Running s g) {f : Group → State} {pc : Word}
    (he : exec i s = onGroup s f) (hf : f g = retireTo s g pc) : GoesTo s g i pc :=
  ⟨f g, he.trans (onGroup_running h f), hf ▸ retireTo_done pc (running_gid h) rfl rfl rfl rfl rfl⟩

/-- An instruction's next state, computed from the executing group. -/
theorem exec_of_onGroup (h : Running s g) {f : Group → State} {t : State}
    (he : exec i s = onGroup s f) (hf : f g = t) : exec i s = .next t :=
  hf ▸ he.trans (onGroup_running h f)

/-! ### Division (R152) -/

section
variable {d a b : Reg} {atZero : Word → Word} {f : Word → Word → Word}

/-- With a divisor that is not zero a division writes its value. -/
theorem yields_of_scalarDiv (h : Running s g) {v : Word} (he : exec i s = scalarDiv s d a b atZero f)
    (hb : sreg g b ≠ 0) (hv : f (sreg g a) (sreg g b) = v) : Yields s g i d v :=
  wrote_of_retireTo h he ((if_neg (by simpa using hb)).trans (by rw [hv]; rfl))

/-- With a zero divisor and mode bit 35 set a division traps. -/
theorem scalarDiv_traps (h : Running s g) (he : exec i s = scalarDiv s d a b atZero f)
    (hb : sreg g b = 0) (hm : g.mode.getLsbD 35 = true) : exec i s = .next (trapScalar s g 0x05) :=
  exec_of_onGroup h he ((if_pos (beq_iff_eq.2 hb)).trans (if_pos ((trapEnables_divZero _).trans hm)))

/-- With a zero divisor and mode bit 35 clear a division sets the sticky flag and writes its fixed result. -/
theorem scalarDiv_sticky (h : Running s g) {w : Word} (he : exec i s = scalarDiv s d a b atZero f)
    (hw : atZero (sreg g a) = w) (hb : sreg g b = 0) (hm : g.mode.getLsbD 35 = false) :
    ∃ t g', exec i s = .next t ∧ g' = { g with mode := g.mode ||| 1#64 <<< 40, scalars := g'.scalars } ∧
      (∀ r, sreg g' r = if r = d then kept g.live d w else sreg g r) ∧ ScalarDone s t g g' (g.pc + 4) := by
  have hoff : ¬bitOf (trapEnables g.mode) 1 = true := by rw [trapEnables_divZero, hm]; decide
  refine ⟨_, { setSreg g d w with mode := g.mode ||| 1#64 <<< 40 },
    exec_of_onGroup h he ((if_pos (beq_iff_eq.2 hb)).trans (if_neg hoff)), rfl, fun r => sreg_setSreg g d r w, ?_⟩
  rw [hw, setSticky_divZero]
  exact retireTo_done _ (running_gid h) rfl rfl rfl rfl rfl

end

/-! ### Branches (R158) -/

theorem branch_goesTo (h : Running s g) {a b : Reg} {o : BitVec 14} {f : Word → Word → Bool} {p : Prop} [Decidable p]
    (he : exec i s = branch s a b o f) (hp : f (sreg g a) (sreg g b) = true ↔ p) :
    GoesTo s g i (if p then g.pc + BitVec.ofInt 64 (o.toInt * 4) else g.pc + 4) :=
  goesTo_of_retireTo h he (by simp only [hp, signExtend_mul_four])

/-! ### Lane blocks (R99, R160) -/

/-- A change to the record of a group stays within it. -/
theorem onlyGroup_modGroup {t : State} {gid : Nat} {f : Group → Group} (hf : ∀ x, (f x).gid = x.gid)
    (h : OnlyGroup s t gid) : OnlyGroup s (modGroup t gid f) gid := by
  obtain ⟨hs, hmem, hother⟩ := h
  refine ⟨by rw [hs]; rfl, hmem, fun n hn => ?_⟩
  rw [group?_modGroup t gid n f hf, hother n hn]
  cases hx : group? s n with
  | none => rfl
  | some x =>
    have hne : ¬(x.gid == gid) = true := by simp [group?_gid hx, hn]
    exact congrArg some (if_neg hne)

theorem queueBlock_queues (h : Running s g) {first : Group → Nat} {c : BitVec 8} {n : Nat}
    (he : exec i s = queueBlock s first c) (hn : first g = n) (hq : g.queue.length < 8) :
    QueuesBlock s g i n (c.toNat + 1) := by
  obtain ⟨honly, hcount, prov, hprov, hg⟩ :=
    retireTo_done (g.pc + 4) (running_gid h) (g1 := g) rfl rfl rfl rfl rfl
  refine ⟨_, prov, exec_of_onGroup h he (if_neg (Nat.not_le.2 hq)), onlyGroup_modGroup (fun _ => by rfl) honly,
    hcount, hprov, ?_⟩
  rw [group?_modGroup _ _ _ _ fun _ => by rfl, retire, hg, hn]
  exact congrArg some (if_pos (beq_self_eq_true g.gid))

/-- With eight blocks queued the word waits. -/
theorem queueBlock_waits (h : Running s g) {first : Group → Nat} {c : BitVec 8}
    (he : exec i s = queueBlock s first c) (hq : 8 ≤ g.queue.length) : exec i s = .next s :=
  exec_of_onGroup h he (if_pos hq)

end Sys2Proof.Machine
end

section
/-! The scalar instructions (R151 to R160, R180): the obligations settled. -/

namespace Sys2Proof.Machine

open Sys2Proof.Claim

/-- Settles O1: every one of these instructions is `scalarOp` with the value of its row. -/
theorem scalarImmediateResults : Obligations.ScalarImmediateResults := by
  unfold Obligations.ScalarImmediateResults
  intro s g h d a n i u x
  refine ⟨?addi, ?andi, ?ori, ?xori, ?shl, ?shr, ?sra, ?rol, ?slti, ?sltni, ?hi20, ?adr, fun t ht => ?ladr⟩
  case addi => exact yields_of_scalarOp h rfl (add_signExtend x i)
  case andi => exact yields_of_scalarOp h rfl (congrArg (x &&& ·) (BitVec.ofNat_toNat 64 i).symm)
  case ori => exact yields_of_scalarOp h rfl (congrArg (x ||| ·) (BitVec.ofNat_toNat 64 i).symm)
  case xori => exact yields_of_scalarOp h rfl (congrArg (x ^^^ ·) (BitVec.ofNat_toNat 64 i).symm)
  case shl => exact yields_of_scalarOp h rfl (shiftLeft_eq_ofNat x n.toNat)
  case shr => exact yields_of_scalarOp h rfl (ushiftRight_eq_ofNat x n.toNat)
  case sra => exact yields_of_scalarOp h rfl (sshiftRight_eq_ofInt x n.toNat)
  case rol => exact yields_of_scalarOp h rfl (rotateLeft_reg x n)
  case slti => exact yields_of_scalarOp h rfl (flagWord_eq_ite (slt_signExtend_iff x i))
  case sltni => exact yields_of_scalarOp h rfl (flagWord_eq_ite (ult_iff_toNat_lt x _))
  case hi20 => exact yields_of_scalarOp h rfl (signExtend_shiftLeft u 14)
  case adr => exact yields_of_scalarOp h rfl (congrArg (g.pc + ·) (signExtend_shiftLeft u 2))
  case ladr => exact yields_of_scalarOp h rfl (by simp [laneWordAt, laneBase, ht])

/-- The functions of two registers (R151). -/
theorem binaryForms_yield {s : State} {g : Group} (h : Running s g) (d a b : Reg) :
    ∀ f ∈ binaryForms, Yields s g (f.1 d a b) d (f.2 (sreg g a) (sreg g b)) := by
  simp only [binaryForms, List.forall_mem_cons]
  refine ⟨?add, ?sub, ?mul, ?mulh, ?mulhn, ?and, ?or, ?xor, ?andn, ?shl, ?shr, ?sra, ?min, ?max, ?minn, ?maxn, ?seq, ?sne,
    ?slt, ?sltn, ?sle, ?slen, List.forall_mem_nil _⟩
  case add | sub | mul | mulh | mulhn | and | or | xor | andn => exact yields_of_scalarOp h rfl rfl
  case shl => exact yields_of_scalarOp h rfl (shiftLeft_eq_ofNat _ _)
  case shr => exact yields_of_scalarOp h rfl (ushiftRight_eq_ofNat _ _)
  case sra => exact yields_of_scalarOp h rfl (sshiftRight_eq_ofInt _ _)
  case min | max => exact yields_of_scalarOp h rfl (by simp only [BitVec.slt_iff_toInt_lt])
  case minn | maxn => exact yields_of_scalarOp h rfl (by simp only [ult_iff_toNat_lt])
  case seq => exact yields_of_scalarOp h rfl (flagWord_eq_ite beq_iff_eq)
  case sne => exact yields_of_scalarOp h rfl ((flagWord_eq_ite bne_iff_ne).trans (ite_not ..))
  case slt => exact yields_of_scalarOp h rfl (flagWord_eq_ite BitVec.slt_iff_toInt_lt)
  case sltn => exact yields_of_scalarOp h rfl (flagWord_eq_ite (ult_iff_toNat_lt _ _))
  case sle => exact yields_of_scalarOp h rfl (flagWord_eq_ite BitVec.sle_iff_toInt_le)
  case slen => exact yields_of_scalarOp h rfl (flagWord_eq_ite (ule_iff_toNat_le _ _))

/-- The functions of one register (R151). -/
theorem unaryForms_yield {s : State} {g : Group} (h : Running s g) (d a : Reg) :
    (∃ n, LeadingZeros (sreg g a) n ∧ Yields s g (.clz d a) d (BitVec.ofNat 64 n)) ∧
    (∃ n, TrailingZeros (sreg g a) n ∧ Yields s g (.ctz d a) d (BitVec.ofNat 64 n)) ∧
    Yields s g (.pop d a) d (BitVec.ofNat 64 ((List.range 64).countP fun k => (sreg g a).getLsbD k)) ∧
    Yields s g (.sext8 d a) d (((sreg g a).extractLsb' 0 8).signExtend 64) ∧
    Yields s g (.sext16 d a) d (((sreg g a).extractLsb' 0 16).signExtend 64) ∧
    Yields s g (.sext32 d a) d (((sreg g a).extractLsb' 0 32).signExtend 64) ∧
    Yields s g (.zext8 d a) d (BitVec.ofNat 64 ((sreg g a).toNat % 2 ^ 8)) ∧
    Yields s g (.zext16 d a) d (BitVec.ofNat 64 ((sreg g a).toNat % 2 ^ 16)) ∧
    Yields s g (.zext32 d a) d (BitVec.ofNat 64 ((sreg g a).toNat % 2 ^ 32)) := by
  refine ⟨⟨_, leadingZeros_spec _, ?clz⟩, ⟨_, trailingZeros_spec _, ?ctz⟩, ?pop, ?sext8, ?sext16, ?sext32, ?zext8, ?zext16,
    ?zext32⟩
  case clz | ctz => exact yields_of_scalarOp h rfl rfl
  case pop => exact yields_of_scalarOp h rfl (congrArg (BitVec.ofNat 64) (popCount_eq_countP _))
  case sext8 | sext16 | sext32 => exact yields_of_scalarOp h rfl (signExtend_truncate _ (by decide))
  case zext8 | zext16 | zext32 => exact yields_of_scalarOp h rfl (zeroExtend_truncate _ _)

/-- The divisions, with each divisor and each setting of mode bit 35 (R152). -/
theorem divisionForms_cases {s : State} {g : Group} (h : Running s g) (d a b : Reg) : ∀ f ∈ divisionForms,
    (sreg g b ≠ 0 → Yields s g (f.1 d a b) d (f.2.1 (sreg g a) (sreg g b))) ∧
    (sreg g b = 0 → g.mode.getLsbD 35 = true → exec (f.1 d a b) s = .next (trapScalar s g 0x05)) ∧
    (sreg g b = 0 → g.mode.getLsbD 35 = false →
      ∃ t g', exec (f.1 d a b) s = .next t ∧ g' = { g with mode := g.mode ||| 1#64 <<< 40, scalars := g'.scalars } ∧
        (∀ r, sreg g' r = if r = d then kept g.live d (f.2.2 (sreg g a)) else sreg g r) ∧
        ScalarDone s t g g' (g.pc + 4)) := by
  simp only [divisionForms, List.forall_mem_cons]
  have hdiv : exec (.div d a b) s = scalarDiv s d a b (fun _ => BitVec.allOnes 64) fun x y => x.sdiv y := rfl
  have hdivn : exec (.divn d a b) s = scalarDiv s d a b (fun _ => BitVec.allOnes 64) fun x y => x / y := rfl
  have hrem : exec (.rem d a b) s = scalarDiv s d a b id fun x y => x.srem y := rfl
  have hremn : exec (.remn d a b) s = scalarDiv s d a b id fun x y => x % y := rfl
  exact ⟨⟨fun hb => yields_of_scalarDiv h hdiv hb (sdiv_eq_ofInt _ _), scalarDiv_traps h hdiv, scalarDiv_sticky h hdiv rfl⟩,
    ⟨fun hb => yields_of_scalarDiv h hdivn hb BitVec.udiv_def, scalarDiv_traps h hdivn, scalarDiv_sticky h hdivn rfl⟩,
    ⟨fun hb => yields_of_scalarDiv h hrem hb (srem_eq_ofInt _ _), scalarDiv_traps h hrem, scalarDiv_sticky h hrem rfl⟩,
    ⟨fun hb => yields_of_scalarDiv h hremn hb BitVec.umod_def, scalarDiv_traps h hremn, scalarDiv_sticky h hremn rfl⟩,
    List.forall_mem_nil _⟩

/-- Settles O2: the functions of two registers and of one are `scalarOp` with the value of their row, `cmov` retires with or
without its write, and the divisions follow `scalarDiv`. -/
theorem scalarRegisterResults : Obligations.ScalarRegisterResults := by
  unfold Obligations.ScalarRegisterResults
  refine ⟨fun s g h d a b => ⟨binaryForms_yield h d a b, fun hb => ?write, fun hb => ?keep⟩,
    fun s g h d a => unaryForms_yield h d a, fun s g h d a b => divisionForms_cases h d a b⟩
  case write => exact wrote_of_retireTo h rfl (congrArg (retire s) (if_pos (bne_iff_ne.2 hb)))
  case keep => exact goesTo_of_retireTo h rfl (congrArg (retire s) (if_neg (by simp [hb])))

/-- Settles O3: the branches are `branch` on the compare of their row; `j`, `jal` and `jr` retire to their target, and `jr`
first looks at its alignment. -/
theorem branchAndJumpTargets : Obligations.BranchAndJumpTargets := by
  unfold Obligations.BranchAndJumpTargets
  refine ⟨fun s g h a b o => ⟨?bEq, ?bNe, ?bLt, ?bGe, ?bLtn, ?bGen⟩,
    fun s g h d a o i => ⟨?j, ?jal, fun ht => ?jr, fun ht => ?jrTraps⟩⟩
  case bEq => exact branch_goesTo (f := fun x y => x == y) h rfl beq_iff_eq
  case bNe => exact ite_not (sreg g a = sreg g b) _ _ ▸ branch_goesTo (f := fun x y => x != y) h rfl bne_iff_ne
  case bLt => exact branch_goesTo (f := fun x y => x.slt y) h rfl BitVec.slt_iff_toInt_lt
  case bGe => exact branch_goesTo (f := fun x y => !x.slt y) h rfl (not_slt_iff_toInt_le _ _)
  case bLtn => exact branch_goesTo (f := fun x y => x.ult y) h rfl (ult_iff_toNat_lt _ _)
  case bGen => exact branch_goesTo (f := fun x y => !x.ult y) h rfl (not_ult_iff_toNat_le _ _)
  case j => exact goesTo_of_retireTo h rfl (by rw [signExtend_mul_four])
  case jal => exact wrote_of_retireTo h rfl (by rw [signExtend_mul_four]; rfl)
  case jr => exact wrote_of_retireTo h rfl (if_pos (beq_iff_eq.2 ht))
  case jrTraps => exact exec_of_onGroup h rfl (if_neg (mt beq_iff_eq.1 ht))

/-- Settles O4: `lrun` and `lrunr` are `queueBlock`, and `nop` only retires. -/
theorem laneBlocksAndNop : Obligations.LaneBlocksAndNop := by
  unfold Obligations.LaneBlocksAndNop
  refine ⟨fun s g h c o a => ⟨fun hq => ⟨?lrun, ?lrunr⟩, fun hq => ⟨?lrunWaits, ?lrunrWaits⟩⟩, rfl, rfl, fun s g h => ?nop⟩
  case lrun | lrunr => exact queueBlock_queues h rfl rfl hq
  case lrunWaits | lrunrWaits => exact queueBlock_waits h rfl hq
  case nop => exact goesTo_of_retireTo h rfl rfl

/-- Settles O56, by evaluation of the decoders on each word. -/
theorem specWordsDecode : Obligations.SpecWordsDecode := by
  unfold Obligations.SpecWordsDecode
  and_intros <;> rfl

end Sys2Proof.Machine
end
